-- ==== Sys2Proof/Word.lean ====
section
/-! DEFINITION. The word types of the register and structure layouts (R14: little-endian, bit 0 least
significant) and the plain-data table that stands for every numbered group of units. -/

namespace Sys2Proof

/-- A byte. -/
abbrev Byte := BitVec 8
/-- A 16-bit field. -/
abbrev W16 := BitVec 16
/-- A register or word of 32 bits (R305). -/
abbrev W32 := BitVec 32
/-- A 64-bit value: a Calendar time (R16), a pair of registers (R309) or an instruction (R114). -/
abbrev W64 := BitVec 64

/-- A numbered group of things (cores, rings, slots, registers): the entries that differ from the
group's default, keyed by number. What an unlisted number holds is said where the group is read. -/
abbrev Tab (α : Type) := List (Nat × α)

end Sys2Proof
end

