-- ==== Sys2Proof/Syntax.lean ====
section
/-! DEFINITION. The commands of the block, one constructor per row of spec/opcode_table.json, and the
plain data their operands carry: the structures the spec lays out in host memory, on Clasp and on the
management port, and the physical findings that the spec names as causes of an event. -/

namespace Sys2Proof

/-! ## Units -/

/-- A physical core, field x 10 + row x 5 + position (R343); also its power region (R360). -/
abbrev CoreId := Fin 120
/-- A logical core, field x 8 + row x 4 + slot (R13). -/
abbrev LCoreId := Fin 96
/-- A field F0-F11 (R13). -/
abbrev FieldId := Fin 12
/-- A power region: 0-119 core regions, 120 + f the uncore region of field f (R360). -/
abbrev RegionId := Fin 132
/-- A ring (R13). -/
abbrev RingId := Fin 8192
/-- A Clasp link in the order of R151: X-, X+, Y-, Y+, Z-, Z+. -/
abbrev LinkId := Fin 6
/-- A strand id (R41). -/
abbrev StrandId := Fin 4096
/-- A Skexayx processor (R425). -/
abbrev ProcId := Fin 14
/-- A Feast stream (R208). -/
abbrev StreamId := Fin 8

/-- The three variants (R5). -/
inductive Variant where
  | uz60 | uz48 | uz36
  deriving DecidableEq, Repr, Inhabited

/-! ## Structures in host memory -/

/-- What the hub's CXL.cache reads of host memory find: the bytes (one not listed is 0) and the numbers
of the 64-byte lines whose read returns poison or an error (R269). -/
structure HostMem where
  cells : List Host.Cell := []
  bad   : List Nat := []
  deriving DecidableEq, Repr, Inhabited

/-- A descriptor as the hub holds it after the fetch (R286): where it came from and its 64 bytes. -/
structure Desc where
  ring  : Nat := 0
  index : W16 := 0
  bytes : List Byte := []
  /-- the CXL.cache write of its completion will fail (R269) -/
  cplBad : Bool := false
  deriving DecidableEq, Repr, Inhabited

/-- A descriptor whose completion is still to be written: ring, SQ index, TAG and IRQ (R292, R297), and whether
the write of its completion will fail (R269). -/
structure PendDesc where
  ring  : Nat := 0
  index : W16 := 0
  tag   : W32 := 0
  irq   : Bool := false
  cplBad : Bool := false
  deriving DecidableEq, Repr, Inhabited

/-- A tile (R55): the header's fields, the payload, and the numbers of its poisoned payload words (R179). -/
structure Tile where
  strand     : Nat := 0
  fmt        : Byte := 0
  last       : Bool := false
  empty      : Bool := false
  suspect    : Bool := false
  anchorSat  : Bool := false
  seq        : W32 := 0
  rows       : Nat := 0
  cols       : Nat := 0
  anchor     : Int := 0
  srcStation : Nat := 0
  slot       : W16 := 0
  srcMember  : Nat := 0
  work       : W32 := 0
  offset     : W32 := 0
  payload    : List Byte := []
  poison     : List Nat := []
  hot        : List Nat := []
  step       : Bool := false
  deriving DecidableEq, Repr, Inhabited

/-- A tile shape entry (R111). -/
structure Shape where
  fmt     : Byte := 0
  rows    : Nat := 0
  cols    : Nat := 0
  anchor  : Int := 0
  payload : Nat := 0
  deriving DecidableEq, Repr, Inhabited

/-- A program image that passed its checks (R110): WIDTH, the shape table and the instruction words. -/
structure Program where
  width  : Nat := 0
  shapes : List Shape := []
  code   : List W64 := []
  deriving DecidableEq, Repr, Inhabited

/-- A strand record of a cost card (R238). -/
structure CardStrand where
  strand   : Nat := 0
  base     : Nat := 0
  perUnit  : Nat := 0
  deriving DecidableEq, Repr, Inhabited

/-- A plan record of a cost card with its strand records (R238). -/
structure CardPlan where
  plan     : Nat := 0
  busyBase : Nat := 0
  busyPer  : Nat := 0
  tail     : Nat := 0
  wait     : Nat := 0
  inputs   : List CardStrand := []
  deriving DecidableEq, Repr, Inhabited

/-- A cost card (R238). -/
structure Card where
  wPeak : Nat := 0
  rerun : Nat := 0
  plans : List CardPlan := []
  deriving DecidableEq, Repr, Inhabited

/-- The LOUPE configuration of a station entry (R219). -/
structure LoupeCfg where
  corpusBase : Nat := 0
  shardRows  : Nat := 0
  tileRows   : Nat := 0
  qcols      : Nat := 0
  queries    : Nat := 0
  k          : Nat := 0
  deriving DecidableEq, Repr, Inhabited

/-- Station kinds (R45). -/
inductive StationKind where
  | core | loupe | hbm | lpddr | kv | host
  deriving DecidableEq, Repr, Inhabited

/-- A station entry (R50) with the program and card it names. -/
structure StationE where
  station    : Nat := 0
  kind       : StationKind := .core
  resident   : Bool := false
  width      : Nat := 0
  target     : Nat := 0
  cores      : List Nat := []
  resBase    : Nat := 0
  resLen     : Nat := 0
  key        : W64 := 0
  regionBase : Nat := 0
  regionLen  : Nat := 0
  loupe      : LoupeCfg := {}
  program    : Program := {}
  card       : Card := {}
  deriving DecidableEq, Repr, Inhabited

/-- SRC_MODE of a strand entry (R59). -/
inductive SrcMode where
  | member | gather
  deriving DecidableEq, Repr, Inhabited

/-- DST_MODE of a strand entry (R59). -/
inductive DstMode where
  | member | spread | broadcast
  deriving DecidableEq, Repr, Inhabited

/-- PLACE of a strand entry (R59). -/
inductive Place where
  | locl | toPeer | fromPeer
  deriving DecidableEq, Repr, Inhabited

/-- Data-plane coordinates of a module (R406). -/
structure Coord where
  x : Nat := 0
  y : Nat := 0
  z : Nat := 0
  deriving DecidableEq, Repr, Inhabited

/-- A strand entry (R59). -/
structure StrandE where
  strand    : Nat := 0
  src       : Nat := 0
  dst       : Nat := 0
  srcMode   : SrcMode := .member
  dstMode   : DstMode := .member
  srcMember : Nat := 0
  dstMember : Nat := 0
  depth     : Nat := 1
  place     : Place := .locl
  maxKib    : Nat := 1
  rate      : Nat := 1
  peer      : Coord := {}
  slices    : Bool := false
  bufBase   : Nat := 0
  deriving DecidableEq, Repr, Inhabited

/-- The values in force when the windows of a plan were computed (R244): the priced bubble fraction
(R240) and the late-access allowance (R177) of each station of the plan, and the hop count of each
cross-module strand (R242) with the capacity of its own link, numerator and denominator in bytes per ns. -/
structure PlanPrice where
  beta : List (Nat × Nat) := []
  late : List Nat := []
  hops : List (Nat × Nat) := []
  caps : List (Nat × Nat × Nat) := []
  deriving DecidableEq, Repr, Inhabited

/-! ## Clasp and placement -/

/-- A neighbour record (R408). -/
structure Neighbour where
  serial : W64 := 0
  straps : Byte := 0
  link   : Nat := 0
  cl     : Bool := false
  epoch  : W32 := 0
  deriving DecidableEq, Repr, Inhabited

/-- A reserved channel on a link direction (R411): the strand, its RATE, and the stored path's other
hop (the link it came in by or leaves by; none at an end module), and the axis on which its route goes the other way
around. -/
structure Channel where
  strand : Nat := 0
  origin : Coord := {}
  rate   : Nat := 0
  other  : Option (Nat × Nat) := none
  alt    : Option Nat := none
  deriving DecidableEq, Repr, Inhabited

/-- A placement record (R406). -/
structure Placement where
  coord      : Coord := {}
  extent     : Coord := {}
  wrapX      : Bool := false
  wrapY      : Bool := false
  wrapZ      : Bool := false
  tray       : List (Option Coord) := []
  timeParent : Option Nat := none
  epoch      : W32 := 0
  deriving DecidableEq, Repr, Inhabited

/-- A BIND message (R411): the strand entry as the origin holds it, the origin, and the axis on which the
route goes the other way around, when it tries the alternate one. -/
structure BindMsg where
  entry   : StrandE := {}
  origin  : Coord := {}
  alt     : Option Nat := none
  members : Nat := 1
  again   : Bool := false
  deriving DecidableEq, Repr, Inhabited

/-- Why a bind was refused (R436, KIND 0x0B). -/
inductive BindReason where
  | notInService | noChannel | capacity | disagreement
  deriving DecidableEq, Repr, Inhabited

/-- What answers a BIND (R411): BOUND, or a refusal. `hops` is the hop count of the bound route, `members` the
member count of the destination (log 92); `axis` the axis of the link that refused. -/
inductive BoundMsg where
  | bound (strand : Nat) (hops : Nat) (members : Nat)
  | refused (strand : Nat) (reason : BindReason) (axis : Nat)
  deriving DecidableEq, Repr, Inhabited

/-- A LINK_DOWN for a channel (R414): its strand and the axis on which its route goes the other way around, the axis of
the failed link, and whether the message is on its way around that axis to the far side of the failed link. -/
structure DownMsg where
  strand : Nat := 0
  alt    : Option Nat := none
  axis   : Nat := 0
  round  : Bool := false
  deriving DecidableEq, Repr, Inhabited

/-- A PEER memory request to this module as the lender (R418, R419). -/
structure PeerReq where
  requester : Nat := 0
  epoch     : W32 := 0
  field     : Nat := 0
  hbm       : Bool := false
  frame     : Nat := 0
  offset    : Nat := 0
  len       : Nat := 0
  data      : Option (List Byte) := none
  poison    : List Nat := []
  deriving DecidableEq, Repr, Inhabited

/-- What the lender's module answers to an LKT_MAP to PEER (R202, R419). -/
structure LenderAnswer where
  lends   : Bool := true
  refuses : Bool := false
  epoch   : W32 := 0
  deriving DecidableEq, Repr, Inhabited

/-- What comes back for the PEER pages of one KV request (R418, R419): nothing within the transport timeout,
the bytes of those pages in order with their poisoned words (empty for an acknowledged write), or the
refusal of a stale epoch. -/
inductive PeerReply where
  | none
  | data (bytes : List Byte) (poison : List Nat)
  | stale
  deriving DecidableEq, Repr, Inhabited

/-- A Locket peer map message to this module as the lender (R190). -/
structure PeerMap where
  requester : Nat := 0
  field     : Nat := 0
  first     : Nat := 0
  frames    : Nat := 0
  pageUnits : Nat := 1
  hbm       : Bool := false
  unmap     : Bool := false
  deriving DecidableEq, Repr, Inhabited

/-! ## Firmware, licences, manifests, sessions -/

/-- A firmware package: the components MASTER, FIELD, POWER it carries, each a signature block and its code
(R439, R471). -/
structure FwPackage where
  master : Option (List Byte) := none
  field  : Option (List Byte) := none
  power  : Option (List Byte) := none
  deriving DecidableEq, Repr, Inhabited

/-- A broadcast session (R441-R443). -/
structure BcastSt where
  session     : W32 := 0
  root        : Bool := false
  lo          : Coord := {}
  hi          : Coord := {}
  total       : Nat := 0
  have_       : List Nat := []
  data        : List (Nat × List Byte) := []
  matched     : List Coord := []
  done        : List Coord := []
  missed      : List (Coord × Nat) := []
  rounds      : Nat := 0
  activating  : Bool := false
  ended       : Bool := false
  deriving DecidableEq, Repr, Inhabited

/-- An open secured session (R475): its four secrets and the next SEQ of each direction. -/
structure Session where
  h2dKey : List Byte := []
  d2hKey : List Byte := []
  h2dIv  : List Byte := []
  d2hIv  : List Byte := []
  rxSeq  : Nat := 0
  txSeq  : Nat := 0
  deriving DecidableEq, Repr, Inhabited

/-- A link entry of the manifest (R457). -/
structure ManifestLink where
  expect   : Nat := 0
  nbrLink  : Nat := 0
  minLanes : Nat := 0
  serial   : W64 := 0
  deriving DecidableEq, Repr, Inhabited

/-- A topology manifest (R457). -/
structure Manifest where
  checkStraps : Bool := false
  straps      : Byte := 0
  variant     : Byte := 0
  epoch       : W32 := 0
  serial      : W64 := 0
  licences    : Nat := 0
  links       : List ManifestLink := []
  deriving DecidableEq, Repr, Inhabited

/-- A stored licence (R478): its id, features, whether it is valid, and the file. -/
structure Licence where
  id       : W32 := 0
  features : Nat := 0
  valid    : Bool := false
  file     : List Byte := []
  deriving DecidableEq, Repr, Inhabited

/-- A 64-byte record for the record sink (R145, R436), with its queue's kind. -/
structure Rec64 where
  hallmark : Bool := false
  bytes    : List Byte := []
  deriving DecidableEq, Repr, Inhabited

/-- A message as it arrives at the management port (R433, R434): the interface, on SGMII with the UDP port of its datagram, the
endpoint it came from, the MCTP message type, and the header of a vendor message. `unknown` is a COMMAND that the table of
R434 does not have, which the message carries in place of its row's. -/
structure VHdr where
  iana     : W32 := 0x0000D5A3
  flags    : Byte := 0
  inst     : W16 := 0
  endpoint : Nat := 0
  msgType  : Byte := 0x7F
  eth      : Bool := false
  udpPort  : Nat := 5177
  unknown  : Option Byte := none
  deriving DecidableEq, Repr, Inhabited

/-- RESULT of a vendor response (R434). -/
inductive VResult where
  | ok | unsupported | badForm | busy | state
  deriving DecidableEq, Repr, Inhabited

/-! ## Findings of the physical world -/

/-- A processor's state as the capture engine reads it at a crash (R425, R431): program counter, faulting address, registers,
trace ring, stack and the first 128 KiB of data RAM. -/
structure CrashInfo where
  pc      : W64 := 0
  addr    : W64 := 0
  regs    : List Byte := []
  trace   : List Byte := []
  stack   : List Byte := []
  ram     : List Byte := []
  deriving DecidableEq, Repr, Inhabited

/-- A crash of a processor while it carries out a step of bring-up (R429). -/
structure StepCrash where
  step  : Nat := 0
  proc  : ProcId := 0
  cause : Fin 7 := 1
  info  : CrashInfo := {}
  deriving DecidableEq, Repr, Inhabited

/-- What one bring-up finds (R446-R456): pins, image verification, self-test and training. -/
structure BringIn where
  /-- PERST_N is deasserted (R446) -/
  released     : Bool := true
  /-- the 48 V input is in range and the 1.8 V plane in regulation (R446, R487) -/
  inRange      : Bool := true
  /-- REFCLK has been valid (R446) -/
  refValid     : Bool := true
  coolant      : Bool := true
  straps       : Byte := 0
  /-- the images that have been in flash since the module shipped pass verification (R472, log 63) -/
  imagesOk     : Bool := true
  colFail      : List (Nat × Nat) := []
  coreFail     : List Nat := []
  bankRows     : List (Nat × Nat × Nat) := []
  sliceRows    : List (Nat × Nat × Nat) := []
  loupeFail    : List Nat := []
  hubFail      : Bool := false
  filFail      : List Nat := []
  laneFail     : List (Nat × Nat) := []
  heirloomBad  : List (Nat × Nat) := []
  licenceBad   : List Nat := []
  temps        : List (Nat × Nat) := []
  trainFail    : List Nat := []
  fastFail     : List Nat := []
  links        : List (Nat × List Nat × Nat × Option Neighbour) := []
  cxlWidth     : Nat := 16
  cxl32        : Bool := true
  /-- the host negotiates CXL (R261) -/
  cxlNegotiated : Bool := true
  /-- round trip to each field at Equinox, ns (R339) -/
  trips        : List Nat := []
  /-- the 1.8 V plane is below 1.746 V (R359) -/
  planeLow     : Bool := false
  /-- region, its two process counts and the setpoint code firmware asks for (R362, R366) -/
  monitors     : List (Nat × Nat × Nat × Nat) := []
  /-- the crashes during bring-up, each once: the step is then repeated (R429) -/
  crashes      : List StepCrash := []
  deriving DecidableEq, Repr, Inhabited

/-- What a fault does at a Hallmark check (R141, R142, R145). In the array: `pass` counts the passes from the oldest, `col`
is the physical column, `row` the result row, `step` the index k of the product in it. In the vector unit or a
conversion (`vector`, or a unit from 7 on): `lane`, and for the last ADRAIN (`drain`) `row`. The fault adds `delta` to
the integer checked, or makes the observed code 0b111 (`seven`); it flips the parity of a shift count, of `shift` 0 the
quantisation, rounding or normalisation, 1 the alignment, 2 (in the array) the normalisation of a hop, and of a word
`shift` of the coefficient tables (unit 9 with `vector`). `step` 1 in the vector unit is the rounding of a sum or
product. `errs` is what it leaves in the values formed from the failing row on, in landing order: added to an exact integer, the
differing bits of any other encoding. `second`: in the second pass of a re-run. -/
structure HmFault where
  unit    : Nat := 4
  pass    : Nat := 0
  col     : Nat := 0
  row     : Nat := 0
  step    : Nat := 0
  delta   : Int := 1
  seven   : Bool := false
  shift   : Nat := 0
  passCyc : Nat := 0
  vector  : Bool := false
  drain   : Bool := false
  lane    : Nat := 0
  errs    : List Int := []
  second  : Bool := false
  deriving DecidableEq, Repr, Inhabited

/-- A store whose rows the scrubber reads (R180). -/
inductive ScrubSpace where
  | spad (core : CoreId)
  | slice (field : FieldId)
  deriving DecidableEq, Repr, Inhabited

/-- What a read finds wrong with a word (R178, R179). -/
inductive EccFind where
  | correctable | uncorrectable
  deriving DecidableEq, Repr, Inhabited

/-- A memory device: an HBM3E stack or an LPDDR5X package of a field (R388). -/
inductive MemDev where
  | hbm (field : FieldId) (stack : Fin 2)
  | lpddr (field : FieldId) (package : Fin 4)
  deriving DecidableEq, Repr, Inhabited

/-- What a CONTROL or MANAGEMENT beat carried (R334, R337). -/
inductive BeatCargo where
  | strandMsg (strand : StrandId) (works : List W32)
  | eventSignal (works : List W32)
  | calendar
  | invalidation
  | management
  deriving DecidableEq, Repr, Inhabited

/-- A cap scope (R377). -/
inductive Scope where
  | dev
  | field (f : FieldId)
  | region (r : CoreId)
  deriving DecidableEq, Repr, Inhabited

/-- A port that reads registers (R308, R309). -/
inductive Port where
  | host | firmware
  deriving DecidableEq, Repr, Inhabited

/-- The spaces a register access may name (R265, R266): BAR0, BAR2, and the function's configuration space, by
field as far as the spec describes it and by offset where it leaves the layout and the contents to the standards. -/
inductive BarSpace where
  | bar0
  | bar2
  | identity
  | msixControl
  | config
  deriving DecidableEq, Repr, Inhabited

/-- What the function's configuration space reports of its identity (R265). -/
structure Identity where
  classCode    : Nat := 0x120000
  vendorId     : Nat := 0
  deviceId     : Nat := 0x0D80
  subsystemId  : Nat := 0x0060
  cxlDevice    : Bool := true
  flexBusPort  : Bool := true
  regLocator   : Bool := true
  cacheCapable : Nat := 1
  memCapable   : Nat := 1
  hdmCount     : Nat := 1
  deriving DecidableEq, Repr, Inhabited

/-- The CXL.cache write transactions (R268): whole 64-byte lines, or a line with 32 bytes enabled. -/
inductive CacheOp where
  | itoMWr | woWrInv
  deriving DecidableEq, Repr, Inhabited

/-- What a target answers in a roll call (R442). -/
inductive RollAnswer where
  | silent
  | missing (blocks : List Nat)
  | matched
  | mismatch
  | busy
  deriving DecidableEq, Repr, Inhabited

/-- What a PLDM firmware update is told: the component table accepted or refused, BUSY, verification failed or complete, apply
complete (R439, R444). -/
inductive PldmStep where
  | accepted | refused | busy | failed | verified | applied
  deriving DecidableEq, Repr, Inhabited

/-- A PLDM request that reads: a sensor, the FRU record, or the types supported (R437). -/
inductive PldmGet where
  | sensor (n : Nat)
  | fru
  | types
  deriving DecidableEq, Repr, Inhabited

/-- What the module puts out: to the host over CXL, to the management network, to its neighbours. -/
inductive Output where
  /-- bytes read from host memory over CXL.cache with RdCurr (R268) -/
  | hostRead (addr n : Nat)
  /-- bytes written to host memory over CXL.cache (R268) -/
  | hostWrite (op : CacheOp) (addr : Nat) (bytes : List Byte)
  /-- an MSI-X message (R297) -/
  | msix (vector : Nat)
  /-- a register read's value (R309) -/
  | regRead (port : Port) (offset : Nat) (value : W32)
  /-- a doorbell read's value (R280) -/
  | bar2Read (offset size : Nat) (value : W64)
  /-- the function's identity, read from configuration space (R265) -/
  | identity (value : Identity)
  /-- a read of MSI-X message control: enable and function mask (R297) -/
  | msixControl (enable mask : Bool)
  /-- a read of the rest of configuration space: AER, the CXL capabilities, the DOE mailbox (R261) -/
  | configRead (offset size : Nat) (value : W32)
  /-- a CXL.mem read's data, with the poison indicator (R274) -/
  | memRead (addr : Nat) (bytes : List Byte) (poison : Bool)
  /-- a CXL.mem request completed with a completer abort (R264) -/
  | memAbort (addr : Nat)
  /-- a record sent to the sink or the I3C bus owner (R435) -/
  | record (endpoint : Option Nat) (r : Rec64)
  /-- a vendor response (R434) to an endpoint: the whole message after the MCTP message type, header and data -/
  | vendor (endpoint : Nat) (bytes : List Byte)
  /-- an in-band interrupt on I3C, which announces the message that follows it (R433) -/
  | ibi
  /-- the provisional ID that the device gives on I3C in ENTDAA (R433) -/
  | provisionalId (id : BitVec 48)
  /-- a PLDM sensor's reading or change event: its number and value (R437) -/
  | pldm (sensor : Nat) (value : Nat)
  /-- the FRU record (R437) -/
  | fru (serial : W64) (variant : Variant) (stepping : Byte) (licences : Nat) (orderingCode : List Byte)
  /-- the PLDM types supported, as PLDM Type 0 tells them (R437, R440) -/
  | pldmTypes (types : List Nat)
  /-- what a PLDM firmware update is told (R439) -/
  | pldmUpdate (step : PldmStep)
  /-- a request for up to 4 KiB of a component (R439) -/
  | pldmRequest (component offset length : Nat)
  /-- a DOE session message (R474) -/
  | doe (bytes : List Byte)
  /-- an uncorrectable AER error (R263) -/
  | aer
  /-- a 256-byte block sent on a link, and the words of its payload that travel as poison (R179, R395) -/
  | claspBlock (link : Nat) (bytes : List Byte) (poison : List Nat)
  /-- a BIND sent on a link (R411) -/
  | claspBind (link : Nat) (m : BindMsg)
  /-- a BOUND or refusal sent on a link (R411) -/
  | claspBound (link : Nat) (m : BoundMsg)
  /-- a RELEASE sent on a link (R411) -/
  | claspRelease (link : Nat) (strand : Nat)
  /-- a LINK_DOWN sent on a link (R414) -/
  | claspLinkDown (link : Nat) (m : DownMsg)
  /-- this module's neighbour record, sent on a link in training (R408) -/
  | trainId (link : Nat) (rec : Neighbour)
  /-- a RESYNC with its SEQ sent on a link (R415) -/
  | claspResync (link : Nat) (strand : Nat) (seq : W32)
  /-- tile acknowledgement and credits sent on a link (R413): the source members of the tiles that landed, and the
  credit groups of the credits returned (log 92) -/
  | claspAck (link : Nat) (strand : Nat) (landed : List Nat) (credits : List Nat)
  /-- a PEER request to the lender at a tray position, as this module's Locket holds the frame (R418) -/
  | peerRequest (tray : Nat) (req : PeerReq)
  /-- a PEER response: data, or an acknowledged write; `ok` false when refused (R418, R419) -/
  | peerAnswer (requester : Nat) (ok : Bool) (data : List Byte) (poisoned : List Nat)
  /-- a Locket peer map message to the lender at a tray position (R190, R202) -/
  | peerMapMsg (tray : Nat) (m : PeerMap)
  /-- the answer to a Locket peer map message (R190) -/
  | peerMapAnswer (requester : Nat) (ok : Bool)
  /-- a broadcast block forwarded on a link (R441) -/
  | bcastBlock (link : Nat) (session : W32) (index : Nat) (bytes : List Byte)
  /-- a unicast message of a broadcast session (R442, R443), its session first: 0 roll call, 1 repair (the block's index and
  bytes), 2 ABORT, 3 ACTIVATE, 4 DONE, 5 a target's answer: 0 blocks lacking, 1 MATCH, 2 MISMATCH or 3 BUSY, then the blocks -/
  | bcastMsg (target : Coord) (code : Nat) (data : List Nat)
  /-- a time message or exchange with the time parent (R421) -/
  | timeMsg (link : Nat) (t : W64)
  deriving DecidableEq, Repr, Inhabited

/-! ## Commands -/

/-- The commands: one constructor per row of the table of operations and events, in its order. -/
inductive Instr where
  /-- DOORBELL (R281): a host write to a ring's doorbell is checked and applies SQ_TAIL, CQ_HEAD and TILE_HEAD, or halts the ring if any index is invalid. Operands: a host write of `size` bytes at offset `off` of the ring's doorbell. -/
  | doorbell (ring : RingId) (size off : Nat) (value : W64)
  /-- DESCRIPTOR_FETCH (R283): the hub fetches the next descriptor of an ON ring in round robin once completion space allows. Operands: the ring whose turn it is gives its next descriptor; `cplBad`: the write of its completion will fail. -/
  | descriptorFetch (mem : HostMem) (cplBad : Bool)
  /-- NOP (R287): the NOP descriptor lands and completes with no effect. Operands: the ring's oldest fetched descriptor lands. -/
  | nopDesc (ring : RingId)
  /-- WORK (R236): a WORK descriptor lands in the Almanac intake once its tiles are held, and is checked for form, licence, state and price. Operands: with its tile list and tiles read from host memory. -/
  | work (ring : RingId) (mem : HostMem)
  /-- ABORT (R300): the ABORT descriptor ends the incomplete work item or Feast step named by TARGET_TAG with ABORTED. -/
  | abort (ring : RingId)
  /-- JOB_OPEN (R71): the JOB_OPEN descriptor creates an OPEN job unless 64 jobs are open. -/
  | jobOpen (ring : RingId)
  /-- LOAD_STATIONS (R51): the LOAD_STATIONS descriptor fetches and checks a station table image with its programs and cost cards, and replaces the job's station table. Operands: with the table image, programs and cards read from host memory. -/
  | loadStations (ring : RingId) (mem : HostMem)
  /-- LOAD_STRANDS (R51): the LOAD_STRANDS descriptor fetches and checks a strand table image and replaces the job's strand table. Operands: with the table image read from host memory. -/
  | loadStrands (ring : RingId) (mem : HostMem)
  /-- JOB_COMMIT (R72): the JOB_COMMIT descriptor makes the cross-table, licence, state, capacity and power checks, then copies programs, applies residency and binds strands. Operands: `killed`: a JOB_KILL of the job, fetched on another ring, arrives while the commit is in progress. -/
  | jobCommit (ring : RingId) (killed : Bool)
  /-- JOB_CLOSE (R75): the JOB_CLOSE descriptor stops new work for the job and waits for its admitted items to complete. -/
  | jobClose (ring : RingId)
  /-- JOB_CLOSE_COMPLETE (R75): after the job's last work item completes, the device zeroes its scratchpads, applies pending retirements and frees its resources. -/
  | jobCloseComplete (job : W16)
  /-- JOB_KILL (R76): the JOB_KILL descriptor ends every in-flight item of the job ABORTED, discards its tiles, zeroes and releases its resources. -/
  | jobKill (ring : RingId)
  /-- LKT_POOL_ADD (R202): the LKT_POOL_ADD descriptor places frames in a field and tier pool. -/
  | lktPoolAdd (ring : RingId)
  /-- LKT_POOL_REMOVE (R202): the LKT_POOL_REMOVE descriptor takes free frames out of a pool. -/
  | lktPoolRemove (ring : RingId)
  /-- LKT_MAP (R202): the LKT_MAP descriptor maps a range of FREE Locket entries to pooled HBM or LPDDR frames or to PEER frames. Operands: `lender` is the lender's answer to a PEER map; none when the transport timeout passed. -/
  | lktMap (ring : RingId) (lender : Option LenderAnswer)
  /-- LKT_UNMAP (R202): the LKT_UNMAP descriptor returns a range of entries to FREE and their frames to their pools. -/
  | lktUnmap (ring : RingId)
  /-- LKT_PIN (R202): the LKT_PIN descriptor sets or clears PIN on a range of mapped entries. -/
  | lktPin (ring : RingId)
  /-- LKT_READ (R202): the LKT_READ descriptor copies a range of Locket entries to host memory. -/
  | lktRead (ring : RingId)
  /-- FEAST_BIND (R208): the FEAST_BIND descriptor binds a Feast stream to a committed job with its step strand and step parameters. -/
  | feastBind (ring : RingId)
  /-- FEAST_UNBIND (R208): the FEAST_UNBIND descriptor unbinds a stream, lets its steps in flight finish and frees its slots. -/
  | feastUnbind (ring : RingId)
  /-- FEAST_READ (R209): the FEAST_READ descriptor copies slot records to host memory. -/
  | feastRead (ring : RingId)
  /-- SEQ_OPEN (R210): the SEQ_OPEN descriptor checks a slot's page range, prices its standing reservation and makes the slot READY. -/
  | seqOpen (ring : RingId)
  /-- SEQ_PAUSE (R210): the SEQ_PAUSE descriptor pauses a READY slot, or waits for a RUNNING slot's step to end. -/
  | seqPause (ring : RingId)
  /-- SEQ_RESUME (R210): the SEQ_RESUME descriptor returns a PAUSED slot to READY. -/
  | seqResume (ring : RingId)
  /-- SEQ_CLOSE (R210): the SEQ_CLOSE descriptor frees a slot, or sends a RUNNING slot to CLOSING. -/
  | seqClose (ring : RingId)
  /-- SEQ_RESET (R210): the SEQ_RESET descriptor returns a FAULTED slot to READY when its range holds no POISONED entry. -/
  | seqReset (ring : RingId)
  /-- COMPLETION (R295): after an item's last window ends, the hub queues its 32-byte completion behind its tile writes and requests any interrupt. Operands: of the item with this tag; `writeOk` is false when the CXL.cache write of its completion fails. -/
  | completion (tag : W32) (writeOk : Bool)
  /-- HELD_COMPLETION_WRITE (R294): a completion held for want of CQ space is written once CQ_HEAD frees an entry. -/
  | heldCompletionWrite (ring : RingId) (writeOk : Bool)
  /-- HOST_STALL (R294): an admitted item whose completion is still held at its DEADLINE ends ABORTED with HOST_STALL. -/
  | hostStall (tag : W32)
  /-- HOST_ABORT (R258): an admitted item whose completion cannot be queued by its DEADLINE because a HOST strand buffer stayed full ends ABORTED. -/
  | hostAbort (tag : W32)
  /-- HOST_TILE_WRITE (R291): a HOST station writes a tile into the next slot of its ring's tile area once TILE_HEAD leaves a free slot. Operands: the oldest tile of this strand's outbound buffer. -/
  | hostTileWrite (strand : StrandId) (writeOk : Bool)
  /-- INTERRUPT_COALESCE_EXPIRY (R297): at the end of the 1 µs coalescing period the combined MSI-X message of a vector is sent. -/
  | interruptCoalesceExpiry (vector : Fin 2048)
  /-- ENABLE (R278): the ENABLE command of RNG_CTRL checks the ring parameters and turns an OFF ring ON. Operands: the write of 0x0001_0001 to the ring's RNG_CTRL. -/
  | ringEnable (ring : RingId)
  /-- DISABLE (R278): the DISABLE command of RNG_CTRL moves an ON or HALTED ring to STOPPING, unless a HOST station or Feast stream holds it. Operands: the write of 0x0002_0002 to the ring's RNG_CTRL. -/
  | ringDisable (ring : RingId)
  /-- D3HOT_REQUEST (R264): a request for D3hot is carried out only while every ring is OFF. Operands: the power state written: D3hot, or D0. -/
  | d3hotRequest (d3 : Bool)
  /-- HDM_COMMIT (R270): a commit of the HDM decoder sets up the staging window or fails with Error Not Committed. Operands: the decoder's base and size in bytes and its interleave ways. -/
  | hdmCommit (base size ways : Nat)
  /-- CXL_MEM_REQUEST (R273): a host load or store to the staging window is served at the backing LPDDR5X controller. Operands: a 64-byte host load (none) or store (enabled bytes) at window offset `addr`; `poison`: the store carries poison; `linkFail`: the load fails link ECC twice; `wire`: the 8-byte words of the line that cross Filigree with an error no code corrects; `proto`: the request breaks the protocol. -/
  | cxlMemRequest (addr : Nat) (write : Option (List (Option Byte))) (poison linkFail : Bool) (wire : List Nat) (proto : Bool)
  /-- CXL_LINK_DOWN (R263): any loss of the CXL link, including an IDE integrity failure, acts as PERST_N and puts the device in RESET. -/
  | cxlLinkDown (ideFailure : Bool)
  /-- VIRAL (R303): a Viral indication from the host stops the device and aborts every incomplete item. -/
  | viral
  /-- REGISTER_WRITE (R306): a write to a register without behaviour of its own applies its masked, W1C or RW fields, subject to the Assay and block refusal rules. Operands: a write of BAR0 by the host or of the registers by a processor, or of MSI-X message control. -/
  | registerWrite (port : Port) (space : BarSpace) (offset : Fin 16777216) (size : Nat) (value : W32)
  /-- RLL_READ (R309): a read of the LO word of a 64-bit pair returns bits [31:0] and latches the high word into the shadow. Operands: a read of BAR0 by the host or of the registers by a processor, of a doorbell, or of configuration space. -/
  | rllRead (port : Port) (space : BarSpace) (offset : Fin 16777216) (size : Nat)
  /-- OPEN (R320): the OPEN command of ASY_CTRL returns the Assay to OPEN and stops admission. Operands: the write of 0x0001_0001 to ASY_CTRL. -/
  | asyOpen
  /-- COMMIT (R320): the COMMIT command of ASY_CTRL moves the Assay to COMMITTING for judgement by the next sweep. Operands: the write of 0x0002_0002 to ASY_CTRL. -/
  | asyCommit
  /-- ASY_REF_WRITE (R320): a write to ASY_REF takes effect only while the Assay is OPEN, else sets LOCKED_WRITE. -/
  | asyRefWrite (value : W32)
  /-- ASSAY_SWEEP (R319): a sweep of the configuration completes, updates ASY_CRC and arms, reopens or faults the Assay. Operands: `upTo`: how many registers the sweep in progress has read by now; with all of them it completes. `flips`: the storage bits of configuration registers (BAR0 offset, bit) that changed by themselves since the last reading. -/
  | assaySweep (upTo : Nat) (flips : List (Nat × Fin 16))
  /-- HOST_STOP (R326): the HOST_STOP bit of GEN_CTRL adds or removes the HOST stop cause. Operands: the write of HOST_STOP through GEN_CTRL. -/
  | hostStop (on : Bool)
  /-- WAKE_CLEAR (R176): clearing WAKE in GEN_MEM_STATUS re-arms slice retention once runs in progress end. Operands: the write of 0x0010_0010 to the field's GEN_MEM_STATUS. -/
  | wakeClear (field : FieldId)
  /-- RETENTION_REARM (R176): retention of a field takes effect again once every run in progress at the WAKE clear has ended. -/
  | retentionRearm (field : FieldId)
  /-- LW_RESET (R364): the LW_RESET command of PWR_CTRL resets every low-water record. -/
  | lwReset
  /-- RELOCK (R353): the RELOCK command of CLK_CTRL starts relock when MANUAL_RELOCK is set. -/
  | relock
  /-- RUN_START (R103): the sequencer starts the station program at instruction 0 for the next admitted work item. -/
  | runStart (core : CoreId)
  /-- RUN_END (R103): a run ends at END once its array instructions have retired and its DMA transfers have left. -/
  | runEnd (core : CoreId)
  /-- NOP_INSTRUCTION (R114): the NOP instruction does nothing. Operands: the instruction at the core's program counter, as for every instruction row below. -/
  | nopInstruction (core : CoreId)
  /-- END (R103): the END instruction ends the run once outstanding work completes. -/
  | endInstruction (core : CoreId)
  /-- MOVI (R114): the MOVI instruction loads an immediate into a scalar register. -/
  | movi (core : CoreId)
  /-- ADDI (R114): the ADDI instruction adds a signed immediate to a scalar register. -/
  | addi (core : CoreId)
  /-- ADD (R114): the ADD instruction adds two scalar registers. -/
  | add (core : CoreId)
  /-- MUL (R114): the MUL instruction multiplies two scalar registers, keeping the low 32 bits. -/
  | mul (core : CoreId)
  /-- SYS (R115): the SYS instruction reads the system value its selector names, latching Calendar time for SEL 0x05. -/
  | sys (core : CoreId)
  /-- LOOP (R114): the LOOP instruction runs the following body a counted number of times. -/
  | loop (core : CoreId)
  /-- SKIPZ (R114): the SKIPZ instruction skips the next N instructions when its register is zero. -/
  | skipz (core : CoreId)
  /-- LDS (R114): the LDS instruction loads half a scratchpad or slice word into a scalar register. Operands: `ecc`: the 8-byte words of the area it reads, counted from its start, in which the read finds an error. -/
  | lds (core : CoreId) (ecc : List (Nat × EccFind))
  /-- RECV (R107): the RECV instruction waits for the next tile on an input strand and returns its header address, freeing the oldest slot when DEPTH are held. -/
  | recv (core : CoreId)
  /-- FREE (R107): the FREE instruction frees the oldest held slot of a strand. -/
  | free (core : CoreId)
  /-- EMIT (R107): the EMIT instruction queues a tile from a scratchpad or slice area on an output strand. -/
  | emit (core : CoreId)
  /-- FETCH (R68): the FETCH instruction queues a request for a tile of a shape from a memory station's region. -/
  | fetch (core : CoreId)
  /-- STORE (R68): the STORE instruction queues a store of an area to an offset of a memory station's region. -/
  | store (core : CoreId)
  /-- SWAIT (R104): the SWAIT instruction waits until every STORE issued on the strand has been performed. -/
  | swait (core : CoreId)
  /-- WAIT (R104): the WAIT instruction waits until each selected unit has no outstanding operation. -/
  | wait (core : CoreId)
  /-- WLOAD (R89): the WLOAD instruction loads a weight tile into the shadow plane over L cycles. Operands: `ecc`: the 8-byte words of the area it reads, counted from its start, in which the read finds an error. -/
  | wload (core : CoreId) (ecc : List (Nat × EccFind))
  /-- WLOAD_COMPLETE (R89): a WLOAD completes L cycles after it starts. -/
  | wloadComplete (core : CoreId)
  /-- SWAP (R90): the SWAP instruction exchanges the active and shadow planes for later passes. -/
  | swap (core : CoreId)
  /-- MMW (R88): the MMW instruction issues a weight-stationary pass into bank rows. Operands: `ecc`: the 8-byte words of the area it reads, counted from its start, in which the read finds an error. -/
  | mmw (core : CoreId) (ecc : List (Nat × EccFind))
  /-- MMO (R91): the MMO instruction issues an output-stationary pass, draining into bank rows when DRAIN is set. Operands: `ecc`: the 8-byte words of A and then of B in which the read finds an error. -/
  | mmo (core : CoreId) (ecc : List (Nat × EccFind))
  /-- PASS_RETIRE (R105): a pass retires once its last result row is written and checked, releasing its locks. -/
  | passRetire (core : CoreId)
  /-- ANCH (R95): the ANCH instruction waits for issued passes and drains, then sets the anchor exponent. -/
  | anch (core : CoreId)
  /-- ADRAIN (R96): the ADRAIN instruction converts bank rows into a shape's format and writes them to a scratchpad or slice area. -/
  | adrain (core : CoreId)
  /-- VOP_ADD (R100): vOP operation ADD adds two vector registers. -/
  | vopAdd (core : CoreId)
  /-- VOP_SUB (R100): vOP operation SUB subtracts two vector registers. -/
  | vopSub (core : CoreId)
  /-- VOP_MUL (R100): vOP operation MUL multiplies two vector registers. -/
  | vopMul (core : CoreId)
  /-- VOP_FMA (R100): vOP operation FMA computes a fused multiply-add rounded once. -/
  | vopFma (core : CoreId)
  /-- VOP_MAX (R138): vOP operation MAX takes the lane-wise maximum. -/
  | vopMax (core : CoreId)
  /-- VOP_MIN (R138): vOP operation MIN takes the lane-wise minimum. -/
  | vopMin (core : CoreId)
  /-- VOP_EXP2 (R100): vOP operation EXP2 computes 2 to the lane value, correctly rounded. -/
  | vopExp2 (core : CoreId)
  /-- VOP_RCP (R100): vOP operation RCP computes the correctly rounded reciprocal. -/
  | vopRcp (core : CoreId)
  /-- VOP_RSQRT (R100): vOP operation RSQRT computes the correctly rounded reciprocal square root. -/
  | vopRsqrt (core : CoreId)
  /-- VOP_MULS (R100): vOP operation MULS multiplies a vector register by an FP32 scalar. -/
  | vopMuls (core : CoreId)
  /-- VOP_ADDS (R100): vOP operation ADDS adds an FP32 scalar to a vector register. -/
  | vopAdds (core : CoreId)
  /-- VLD (R101): the VLD instruction reads 256 elements and converts them to FP32. Operands: `ecc`: the 8-byte words of the area it reads, counted from its start, in which the read finds an error. -/
  | vld (core : CoreId) (ecc : List (Nat × EccFind))
  /-- VST (R101): the VST instruction converts 256 lanes into a format and writes them. -/
  | vst (core : CoreId)
  /-- VLDA (R101): the VLDA instruction reads one bank row as FP32 under the current anchor. -/
  | vlda (core : CoreId)
  /-- VRED_TREE (R102): vRED mode TREE sums the lanes over a fixed pairwise FP32 tree. -/
  | vredTree (core : CoreId)
  /-- VRED_MAX (R102): vRED mode MAX takes the largest lane value. -/
  | vredMax (core : CoreId)
  /-- VRED_ANCHORED (R102): vRED mode ANCHORED quantises the lanes on the anchor grid, sums them exactly and rounds once. -/
  | vredAnchored (core : CoreId)
  /-- CARD_OVERRUN (R245): a run whose busy count, tail count or wait count exceeds its cost card is halted and its item ends ABORTED. -/
  | cardOverrun (core : CoreId)
  /-- TILE_SEND (R104): the DMA engine begins to read and send the area of the EMIT or STORE at the head of its queue once it holds a credit. Operands: `ecc`: the 8-byte words of the area it reads, counted from its start, in which the read finds an error; `bad`: the payload words of a tile to another module that reach the Clasp link over Filigree with an error no code corrects. -/
  | tileSend (core : CoreId) (ecc : List (Nat × EccFind)) (bad : List Nat)
  /-- TILE_LAND (R61): a tile lands in its destination receive slot and becomes visible to RECV, or is discarded as a duplicate or for an unbound strand. Operands: the oldest tile in flight from this source member; `bad`: the payload words that arrive over Filigree with an error no code corrects. -/
  | tileLand (strand : StrandId) (member : Fin 96) (bad : List Nat)
  /-- CREDIT_RETURN (R65): a freed receive slot returns its credit to the sender once no lock or member holds it. Operands: for a strand to another module, what the control message received carries: the source members of the tiles that landed, and the groups of the credits it returns; otherwise unused. -/
  | creditReturn (strand : StrandId) (landed credits : List (Fin 128))
  /-- FETCH_RESPONSE (R68): a memory station answers a fetch request with a tile of the named shape from its region. Operands: `bad`: the payload words that read with an uncorrectable error, or that fail link ECC twice; `reply`: what comes back for the PEER pages of a KV request; `wire`: the payload words that arrive over Filigree with an error no code corrects. -/
  | fetchResponse (strand : StrandId) (bad : List Nat) (reply : PeerReply) (wire : List Nat)
  /-- STORE_WRITE (R70): a memory station writes a store tile's payload at its offset in the region, in SEQ order. Operands: the oldest store tile in flight from this source member; `reply`: what comes back for the PEER pages of a KV request; `bad`: the payload words that arrive over Filigree with an error no code corrects. -/
  | storeWrite (strand : StrandId) (member : Fin 96) (reply : PeerReply) (bad : List Nat)
  /-- HALLMARK_EVENT (R144): a residue or parity check fails, entries are held and issue of new passes stops. -/
  | hallmarkEvent (core : CoreId) (what : HmFault)
  /-- RERUN_DECISION (R147): once the array has emptied, the core re-runs the failing pass or writes the held entries and marks the run suspect. Operands: `again`: the checks that fail within the re-run, one a column. -/
  | rerunDecision (core : CoreId) (again : List HmFault)
  /-- HALLMARK (R146): the field manager forwards a Hallmark record to the management network. -/
  | hallmarkForward (field : FieldId)
  /-- TARGETED_SELF_TEST (R153): the field manager tests a unit after its event during a period with no committed job on it. Operands: of the Heirloom unit (R151). -/
  | targetedSelfTest (kind index : Nat) (reproduced : Bool)
  /-- HEIRLOOM_WRITE (R155): a new or changed Heirloom or replacement record is written to module flash. -/
  | heirloomWrite
  /-- SCRUB_READ (R180): the scrubber reads a scratchpad or slice row, writes back corrected words and poisons uncorrectable ones. Operands: one row; `finds` names words within the row. -/
  | scrubRead (space : ScrubSpace) (row : Nat) (finds : List (Nat × EccFind))
  /-- PATROL_SCRUB (R195): the HBM3E patrol scrubber reads a word, correcting or poisoning it. Operands: of the HBM3E word at this module memory address. -/
  | patrolScrub (addr : Nat) (find : Option EccFind)
  /-- SLICE_REPAIR (R183): a retired slice's failing rows are copied into redundancy rows, or the slice is fenced. Operands: the failing rows, and whether each holds a word that cannot be corrected. -/
  | sliceRepair (field : FieldId) (slice : Fin 16) (rows : List (Nat × Bool))
  /-- ENTERING (R174): a PENDING slice bank with no remaining cause enters ENTERING and back-pressures writes. -/
  | retEntering (field : FieldId) (bank : Fin 128)
  /-- RETAINED (R174): an ENTERING slice bank enters retention once its granted writes drain. -/
  | retRetained (field : FieldId) (bank : Fin 128)
  /-- LATE_ACCESS (R176): an access to an ENTERING or RETAINED bank wakes every retained bank of the field and cancels retention. -/
  | lateAccess (field : FieldId) (bank : Fin 128)
  /-- PROMOTE (R204): a copy engine promotes the LPDDR entries of the slot at the head of the promotion queue into HBM3E. -/
  | promote (field : FieldId)
  /-- DEMOTE (R205): a copy engine demotes the highest-AGE candidate entry to LPDDR5X while free HBM3E frames are below LKT_HBM_LOW. -/
  | demote (field : FieldId)
  /-- MIGRATION_SWITCH (R206): at the end of a copy Locket writes the entry, invalidates translations and returns the source frame. Operands: `bad`: the words of the page found uncorrectable by the copy. -/
  | migrationSwitch (field : FieldId) (bad : List Nat)
  /-- STEP_WAIT_EXPIRY (R211): sTEP_WAIT passes since a stream last assembled, making a step with fewer than STEP_MIN slots assemblable. -/
  | stepWaitExpiry (stream : StreamId)
  /-- STEP_ASSEMBLY (R211): feast assembles a step from the first STEP_MAX eligible slots and offers it to the Almanac. -/
  | stepAssembly (stream : StreamId)
  /-- STEP_TILE (R212): feast emits the step tile on the step strand once it holds a credit. -/
  | stepTile (stream : StreamId)
  /-- PLAN_RECOMPUTE (R244): the Almanac finishes recomputing the window functions of the affected plans after a change of β, allowances or hop count. -/
  | planRecompute (job : W16)
  /-- LOUPE_TILE_CONSUME (R232): a Loupe unit consumes a score or merge tile into its per-query lists and returns its credit. Operands: `ecc`: an error found in the unit's store. -/
  | loupeTileConsume (field : FieldId) (strand : StrandId) (member : Fin 96) (ecc : Option EccFind)
  /-- LOUPE_CLOSE (R230): when every source has delivered LAST, the Loupe closes the work item and emits its result tiles. Operands: `ecc` is what the unit's reads of its store find. -/
  | loupeClose (field : FieldId) (ecc : Option EccFind)
  /-- MEM_TRIP (R388): a stack or package above 95 °C trips into self-refresh and its consuming work ends FAULT_THERMAL. Operands: the device's reading, in quarters of a degree. -/
  | memTrip (dev : MemDev) (quarterC : Nat)
  /-- MEM_TRIP_END (R388): a tripped memory device leaves self-refresh after reading below 85 °C for 10 ms. Operands: a reading of the device, in quarters of a degree; the stop ends with the one that completes the 10 ms. -/
  | memTripEnd (dev : MemDev) (quarterC : Nat)
  /-- REFERENCE_LOSS (R352): rEFCLK loss is declared and every PLL enters holdover on the F0 uncore PLL. -/
  | referenceLoss
  /-- REFERENCE_VALID (R353): rEFCLK is valid again after 10,000 good edges and relock starts unless MANUAL_RELOCK is set. -/
  | referenceValid
  /-- PULL_IN_END (R353): at the end of pull-in each crossing's slip is judged, cores beyond ±3 are realigned and admission resumes. Operands: physical cores whose crossings the reference change has shifted, in entries: core-control to uncore, array to core-control. -/
  | pullInEnd (shifts : List (CoreId × Int × Int))
  /-- CALENDAR_SYNC (R339): a field receives the master's synchronisation message and slews or steps its Calendar counter. Operands: ns that the message was under way. -/
  | calendarSync (field : FieldId) (travel : Nat)
  /-- PATH_DELAY_MEASURE (R339): every 1 ms the master measures each field's round trip to set its path delay. Operands: each field's round trip in ns. -/
  | pathDelayMeasure (trips : List Nat)
  /-- DROOP_STRETCH (R348): a droop detector stretches the next period of every domain of its region, or is denied. Operands: `below`: mV under the setpoint. -/
  | droopStretch (region : RegionId) (below : Nat)
  /-- DROOP_BREACH (R350): a region's voltage falls below its timing margin and its core is lost or its field's work ends. Operands: the lowest valid sensor and its reading. -/
  | droopBreach (region : RegionId) (sensor : Fin 16) (mv : BitVec 10)
  /-- SLIP_HOLD (R351): a crossing whose slip has reached 2 inserts a hold cycle every 4 cycles until the slip is 0. -/
  | slipHold (core : CoreId)
  /-- CTRL_RESEND (R337): a CONTROL or MANAGEMENT beat with an uncorrectable error is requested again, and discarded if it fails twice. -/
  | ctrlResend (link : Fin 16) (dir : Bool) (detector : FieldId) (twice : Bool) (cargo : BeatCargo)
  /-- CONVERTER_SHUTDOWN (R358): a module converter shuts itself down and sets CONV_LOST. -/
  | converterShutdown (conv : Fin 24)
  /-- POWER_FAULT (R359): too few converters, a low plane or a sixth uncore phase loss puts the device in RESET. -/
  | powerFault (planeLow : Bool)
  /-- PHASE_LOSS (R367): a regulator takes a phase out of service and the region runs on, is capped or goes dark. -/
  | phaseLoss (region : RegionId) (phase : Fin 12)
  /-- SENSOR_INVALID (R363): a voltage sensor out of range or far from the median is excluded. -/
  | sensorInvalid (region : RegionId) (sensor : Fin 16)
  /-- RETENTION_ENTRY (R371): a requested idle core region enters RETENTION 100 µs after its conditions hold. -/
  | retentionEntry (region : CoreId)
  /-- RAMP_START (R373): the field ramp admitter starts a region's ramp when headroom allows or after 200 µs of waiting. -/
  | rampStart (region : CoreId)
  /-- RAMP_COMPLETE (R373): a region's 8 µs ramp completes and its neighbours leave the ramp floor. -/
  | rampComplete (region : CoreId)
  /-- PLL_LOCK (R344): a domain's PLL locks and Equinox aligns the core's crossings, bringing the region ON. -/
  | pllLock (region : CoreId)
  /-- HARDWARE_LOOP_TICK (R381): every 1 µs the hardware loop computes each scope's bubble fraction and applies the loop fraction. Operands: what the monitors read at this tick, by region 0-131: the highest thermal sensor that works, in 0.25 °C, and the regulator current in 10 mA (R366); a region not listed reads 0. -/
  | hardwareLoopTick (temps : List Int) (currents : List Nat)
  /-- TRIM_UPDATE (R380): every 1 ms the power sequencer moves each region's trim toward the measured power. Operands: measured regulator current, 10 mA units. -/
  | trimUpdate (region : RegionId) (current : W16)
  /-- POWER_HALT (R383): a region whose 1 ms measured power exceeds W_PEAK × 9/8 halts its run with CARD_OVERRUN. Operands: measured power over the last 1 ms, 0.25 W units. -/
  | powerHalt (core : CoreId) (measured : Nat)
  /-- CAP_LOWER_APPLY (R253): a lowered cap comes into force in the loop once the committed sum meets it, clearing CAP_PENDING. -/
  | capLowerApply (scope : Scope)
  /-- HEAT_THROTTLE (R386): every 100 ms a field at 95 °C or more has its heat cap set to 15/16 of its measured power. Operands: hottest sensor, and the field's measured power in W. -/
  | heatThrottle (field : FieldId) (degC : Nat) (measured : Nat)
  /-- HEAT_RELEASE (R386): every 1 s a field below 90 °C has its heat cap raised by 1/16. -/
  | heatRelease (field : FieldId) (degC : Nat)
  /-- HEAT_DARK (R386): an unbound core region at 95 °C or more is sent to RETENTION for heat. -/
  | heatDark (region : CoreId) (degC : Nat)
  /-- TRIP (R387): a die sensor at 105 °C on two samples stops issue in its region and ends its work FAULT_THERMAL. Operands: two consecutive samples of one sensor, quarters of a degree. -/
  | trip (region : RegionId) (first second : Nat)
  /-- TRIP_END (R387): a trip ends when every sensor of the region has read below 95 °C for 10 ms. -/
  | tripEnd (region : RegionId)
  /-- COOLANT_OK_STOP (R389): cOOLANT_OK deasserts and the device stops admission, halts issue, parks regions and faults admitted work. -/
  | coolantOkStop
  /-- INPUT_LOCKOUT (R486): the 48 V input below lockout for 100 µs puts the device in RESET. -/
  | inputLockout
  /-- PERST_N_ASSERT (R488): pERST_N asserts and the device enters RESET. -/
  | perstAssert
  /-- BRINGUP_START (R446): with PERST_N deasserted, input in range and REFCLK valid, the device runs the bring-up sequence. -/
  | bringupStart (found : BringIn)
  /-- AGREEMENT_RECHECK (R460): a failed agreement is judged again after a new manifest or a link state change. -/
  | agreementRecheck
  /-- CLASP_BLOCK_RECEIVE (R398): a receiver accepts a Clasp block whose CRC and BSEQ pass, or discards it and sends NAK. Operands: the block, the parity received on each lane, and the words of its DATA or PEER payload that carry the poison mark, those of a block in transit among them that cross Filigree with an error no code corrects (log 49). -/
  | claspBlockReceive (link : LinkId) (bytes : List Byte) (lanePar : W32) (poison : List Nat)
  /-- ACK_TIMEOUT (R398): aCK makes no progress for 1 µs and the sender goes back. -/
  | ackTimeout (link : LinkId)
  /-- LINK_DOWN_DECLARE (R399): a link that fails its retry limits declares itself down and discards its queued blocks. Operands: `excess`: under the third case of R399. -/
  | linkDownDeclare (link : LinkId) (excess : Bool)
  /-- LINK_RETRAIN (R401): a DOWN link retrains, retrying every 1 s, and returns UP, SHORT or HELD. Operands: of a link that is DOWN the retraining begins, and the other operands are unused; of one in TRAINING it ends, with the lanes that passed acceptance, the one-way delay in ns and the neighbour record; no lanes when training fails; `band`: the temperature band at its start; `fastFail`: training with saved settings failed, and a full one followed. -/
  | linkRetrain (link : LinkId) (lanes : List (Fin 32)) (delay : Nat) (nbr : Option Neighbour) (band : Fin 4) (fastFail : Bool)
  /-- LANE_FAULT (R402): a lane loses lock or is charged with 64 errors in 1 s. -/
  | laneFault (link : LinkId) (lane : Fin 32)
  /-- TRAIN_ID (R408): a neighbour record received in training is stored and may hold the link. -/
  | trainId (link : LinkId) (nbr : Neighbour)
  /-- BIND (R411): a BIND message reserves a channel and capacity at each hop of a cross-module strand's route. Operands: received on a link, or none: begun by this module. -/
  | clsBind (link : Option LinkId) (msg : BindMsg)
  /-- BOUND (R411): a BOUND message confirms a strand binding back to the origin. -/
  | clsBound (link : LinkId) (msg : BoundMsg)
  /-- RELEASE (R411): a RELEASE message frees a channel's reservations along its path. Operands: received on a link, or none: begun by this module. -/
  | clsRelease (link : Option LinkId) (strand : StrandId) (origin : Coord)
  /-- BIND_RETRY (R411): an unbound cross-module strand is tried again every 10 ms. -/
  | bindRetry (strand : StrandId)
  /-- LINK_DOWN (R414): a LINK_DOWN message makes the origin and destination end the strand's items with FAULT_LINK. Operands: a LINK_DOWN message received on a link for a channel; it names the axis of the failed link, on which the alternate route differs. -/
  | clsLinkDown (link : LinkId) (msg : DownMsg)
  /-- RESYNC (R415): a RESYNC message sets every member's expected SEQ after a reroute. -/
  | clsResync (link : LinkId) (strand : StrandId) (seq : W32)
  /-- TRANSPORT_TIMEOUT (R413): a tile unacknowledged within the transport timeout is treated as loss of the route. -/
  | transportTimeout (strand : StrandId)
  /-- PEER_REQUEST (R418): a lender serves a PEER read or write request for a lent frame. Operands: `bad`: the words read that fail link ECC twice; `wire`: the words of the access that cross Filigree with an error no code corrects. -/
  | peerRequest (req : PeerReq) (bad wire : List Nat)
  /-- TIME (R421): a TIME message from the time parent steers the Calendar master. Operands: the parent's Calendar time at transmission. -/
  | timeMsg (t : W64)
  /-- PLACEMENT (R406): a PLACEMENT command delivers a placement record, which is checked and held pending. -/
  | placement (hdr : VHdr) (rec : Placement)
  /-- PLACEMENT_APPLY (R407): a pending placement record is applied once no cross-module strand is committed and no entry is PEER. -/
  | placementApply
  /-- PROCESSOR_CRASH (R426): a Skexayx processor crashes, its Keepsake record is captured and it is restarted or halted. -/
  | processorCrash (proc : ProcId) (cause : Fin 7) (info : CrashInfo)
  /-- PROCESSOR_RESTART (R426): a restarted processor is running again from its flash image. -/
  | processorRestart (proc : ProcId)
  /-- KEEPSAKE_WRITE (R430): the device master writes a captured Keepsake record from the hub buffer to flash. -/
  | keepsakeWrite (proc : ProcId)
  /-- RECORD_RESEND (R435): a record unanswered for 50 ms is sent again. Operands: a field's Hallmark queue, or none: the fault-record queue. -/
  | recordResend (queue : Option FieldId)
  /-- RECORD_ANSWER (R435): the sink's response to a record lets its queue send the next record. -/
  | recordAnswer (queue : Option FieldId)
  /-- SET_SINK (R435): the SET_SINK command makes the sender the record sink. -/
  | setSink (hdr : VHdr)
  /-- HEIRLOOM_READ (R434): the HEIRLOOM_READ command returns Heirloom records. -/
  | heirloomRead (hdr : VHdr)
  /-- FLOORPLAN_READ (R463): the FLOORPLAN_READ command returns SEQ and bytes of the current floor-plan report. -/
  | floorplanRead (hdr : VHdr) (offset length : Nat)
  /-- KEEPSAKE_READ (R432): the KEEPSAKE_READ command returns a Keepsake record. -/
  | keepsakeRead (hdr : VHdr) (proc : ProcId) (latest : Bool) (offset length : Nat)
  /-- KEEPSAKE_CLEAR (R432): the KEEPSAKE_CLEAR command clears Keepsake records. -/
  | keepsakeClear (hdr : VHdr)
  /-- FW_RESTART (R434): the FW_RESTART command restarts a processor and zeroes its crash count. -/
  | fwRestart (hdr : VHdr) (proc : ProcId) (info : CrashInfo)
  /-- MANIFEST (R457): the MANIFEST command delivers a topology manifest for agreement. Operands: the 128-byte manifest. -/
  | manifest (hdr : VHdr) (bytes : List Byte)
  /-- REPORT (R476): the ATTEST REPORT operation returns a signed attestation report. Operands: `other`: an OP byte other than 0x00 REPORT and 0x01 CHAIN, in its place. -/
  | attestReport (hdr : VHdr) (other : Option Byte) (nonce : List Byte)
  /-- CHAIN (R476): the ATTEST CHAIN operation returns bytes of the device chain. -/
  | attestChain (hdr : VHdr) (offset length : Nat)
  /-- INSTALL (R478): the LICENCE INSTALL operation verifies and stores a licence file. -/
  | licenceInstall (hdr : VHdr) (file : List Byte)
  /-- LIST (R478): the LICENCE LIST operation returns the licence slots. -/
  | licenceList (hdr : VHdr)
  /-- LICENCE_EFFECT (R480): an installed licence takes effect, its GEN_LICENCE bit sets and its units are tested and powered. Operands: the Loupe units that fail their test, and the links and lanes whose serializer fails. -/
  | licenceEffect (loupeFail : List Nat) (laneFail : List (Nat × Nat))
  /-- BCAST_START (R441): the BCAST_START command starts broadcast of the staged package to a target box. -/
  | bcastStart (hdr : VHdr) (session : W32) (lo hi : Coord)
  /-- BCAST_STATUS (R443): the BCAST_STATUS command reports the session and unconfirmed targets. -/
  | bcastStatus (hdr : VHdr)
  /-- BCAST_ABORT (R442): the BCAST_ABORT command ends a session and targets discard their staging. -/
  | bcastAbort (hdr : VHdr)
  /-- BROADCAST_BLOCK (R441): a target receives a broadcast block, marks it and forwards it. -/
  | broadcastBlock (session : W32) (index total : Nat) (crc : W32) (payload : List Byte)
  /-- ROLL_CALL (R442): every 10 ms the root polls each target and repairs missing blocks. Operands: `asked`: at a target, the session and the root that asks; none at the root, with what each target answers. -/
  | rollCall (asked : Option (W32 × Coord)) (answers : List (Coord × RollAnswer))
  /-- ACTIVATE (R443): the ACTIVATE message makes each target apply and activate the package. -/
  | activate (session : W32)
  /-- RECOVERY_ENTER (R440): the RECOVERY_ENTER command sends the device to RECOVERY. -/
  | recoveryEnter (hdr : VHdr)
  /-- PLDM_FIRMWARE_UPDATE (R439): a PLDM Type 5 update stages, verifies, applies and activates the three components. Operands: of this package, on I3C or SGMII: begun or taken further, up to 0 its transfer, 1 verification, 2 the beginning of its apply, 3 its end. -/
  | pldmFirmwareUpdate (pkg : FwPackage) (upTo : Fin 4) (eth : Bool)
  /-- PLDM_SENSOR_UPDATE (R437): every 100 ms PLDM sensors update and state changes are sent as events. Operands: the memory temperatures, 24 stacks then 48 packages; or a request that reads, on SGMII or I3C. -/
  | pldmSensorUpdate (memTemps : List Nat) (get : Option (Bool × PldmGet))
  /-- LINK_LOCAL_FALLBACK (R433): with no DHCP lease in 10 s the SGMII interface takes a link-local address. Operands: the address chosen in the link-local range. -/
  | linkLocalFallback (addr : W32)
  /-- CHAIN_READ (R474): the CHAIN_READ session message returns bytes of the device chain. -/
  | chainRead (offset length : Nat)
  /-- SESSION_START (R475): the SESSION_START message opens a secured session answered by a signed SESSION_ACCEPT. -/
  | sessionStart (hostKey hostNonce : List Byte)
  /-- SESSION_DATA (R475): a SESSION_DATA message carries an encrypted IDE_KM message, ending the session on a bad tag or SEQ. -/
  | sessionData (seq : Nat) (cipher tag : List Byte)
  /-- IDE_KM_OUTSIDE_SESSION (R475): an IDE_KM message outside a session is discarded and KM_REFUSED is set. -/
  | ideKmOutside (msg : List Byte)
  /-- COOLANT_OK_ASSERT (R449): assertion of COOLANT_OK lets a bring-up that waits before step 3 start its regulators. -/
  | coolantAssert
  /-- TIMED_RELEASE (R247): at a TIMED item's RELEASE time its runs may start and its held host tiles begin entering their strands. -/
  | timedRelease (tag : W32)
  /-- PEER_MAP_MESSAGE (R190): a lender receives a Locket peer map message, counts the mapped frames and refuses overlapping mappings. -/
  | peerMapMessage (msg : PeerMap)
  /-- BCAST_DONE (R443): the root receives a target's DONE report after activation, and activates itself once every DONE is in. -/
  | bcastDone (target : Coord)
  /-- ACTIVATE_TIMEOUT (R443): 5 s after ACTIVATE, the root activates itself even though some targets have not confirmed. -/
  | activateTimeout
  /-- TIME_PATH_DELAY_EXCHANGE (R421): every 1 ms a module and its time parent exchange timestamps and set the path delay used for steering. Operands: the link and the round trip in ns. -/
  | timePathDelay (link : LinkId) (roundTrip : Nat)
  /-- SETPOINT_UPDATE (R362): each 1 s the power sequencer reads the process monitors and moves each region's setpoint, at most one code per 10 µs. Operands: the monitors' counts and the code firmware asks for. -/
  | setpointUpdate (region : RegionId) (proc0 proc1 : W16) (target : Byte)
  /-- THERMAL_SENSOR_FAILED (R366): a thermal sensor fails its self-check, is reported in a fault record and then reads 125 °C. -/
  | thermalSensorFailed (region : RegionId) (sensor : Fin 8)
  /-- ERROR_CHECK_AND_SCRUB (R197): an LPDDR5X die's daily error check and scrub reports a count, which is sent as a fault record. -/
  | errorCheckAndScrub (field : FieldId) (package : Fin 4) (count : W32)
  /-- OPERATING_MINUTE (R153): each operating minute the counter advances GEN_OPERATING_MINUTES and the flash copy, against which Heirloom windows and crash counts run. -/
  | operatingMinute
  /-- SET_ENDPOINT_ID (R433): a bus owner assigns an interface's MCTP endpoint ID with Set Endpoint ID. -/
  | setEndpointId (eth : Bool) (eid : Byte)
  /-- ENTDAA (R433): the I3C bus owner assigns the device its dynamic address by ENTDAA. -/
  | entdaa (addr : Byte)
  /-- DHCP_LEASE (R433): the SGMII interface obtains an IPv4 address by DHCPv4. -/
  | dhcpLease (addr : W32)
  deriving DecidableEq, Repr

end Sys2Proof
end

