-- ==== Sys2Proof/Decode.lean ====
section
/-! DEFINITION. The words of the table of commands: no row gives its command bits, so no word spells one. -/

namespace Sys2Proof

/-- The command that a word spells by the table's bits: none, since no row of the table has any. -/
def decodeTableWord (_nbits _w : Nat) : Option Instr := none

end Sys2Proof
end

