-- ==== Sys2Proof/Config.lean ====
section
/-! DEFINITION. What the spec leaves open: each constant here is a free value. It has no body, so no
statement can rest on a value of it. Each is named in notes/assumptions. -/

namespace Sys2Proof.Config

/-- The byte that an HBM3E or LPDDR5X address holds after the n-th reset until it is written (R498). -/
opaque unwrittenByte : (reset addr : Nat) → Byte
/-- Whether an HBM3E word that has not been written since bring-up reads as poisoned (R498). -/
opaque unwrittenPoison : (reset word : Nat) → Bool
/-- The bytes of a word that reads with an error no code corrects, where the reader goes on (R179). -/
opaque badWord : (count : Nat) → BitVec 64
/-- A value that the spec leaves unstated, 32 bits, applied to the count of State.free. -/
opaque free32 : (count : Nat) → BitVec 32
/-- The energy of one unit of activity, in 0.25 W over 1 us: of a core's part (R380, fused) or, with no core named, of
the variant's worst-case part (R385); 0 ungated cell-cycles, 1 gated ones, 2 vector instructions, 3 scratchpad words. -/
opaque energyWeight : (core : Option Nat) → (kind : Nat) → Nat
/-- The leakage of a core region at a temperature (0.25 °C) and a setpoint, in 0.25 W (R380). -/
opaque leakage : (core : Option Nat) → (temp : Int) → (setpoint : Nat) → Nat
/-- A CXL component register, in the layout and with the contents the standard gives, after so many changes of theirs
(R266). -/
opaque cxlComponent : (changes offset : Nat) → BitVec 32
/-- The rest of the function's configuration space, AER capability, CXL capabilities and DOE mailbox with its CDAT among it, in
the layout and with the contents the standards give, after so many changes of theirs (R261, R302). -/
opaque configSpace : (changes offset : Nat) → BitVec 32
/-- The Folhotus vendor ID, which the spec names and does not state (R265). -/
opaque vendorId : Nat
/-- A value that the spec leaves unstated, 64 bits, applied to the count of State.free. -/
opaque free64 : (count : Nat) → BitVec 64
/-- The bytes of a message that PEER, CONTROL, MANAGEMENT and TRAIN_ID blocks carry: R396 names the messages and gives no
layout of them. -/
opaque messageBytes : Output → List Byte
/-- The tray position that a PEER block is for, which its bytes tell in a layout that the spec does not give (R396,
R418). -/
opaque peerTarget : List Byte → Nat
/-- The object identifier of the Folhotus key-purpose extension, as the bytes of its DER contents: R469 names the extension and
does not state its identifier. -/
opaque purposeOid : List Byte
/-- The scalar that the signing engine draws for a signature; signatures are randomised, so the count of State.free is an
argument (R468, R469). -/
opaque signScalar : (count : Nat) → Nat
/-- The private scalar of the device's ephemeral key in a session (R475). -/
opaque sessionScalar : (count : Nat) → Nat
/-- The device's fresh nonce in a session (R475). -/
opaque sessionNonce : (count : Nat) → List Byte
/-- The I3C provisional ID derived from the serial, in a way that R433 does not state. -/
opaque provisionalId : (serial : BitVec 64) → BitVec 48
/-- The ordering code of a part, which the FRU record carries and the spec does not state (R437). -/
opaque orderingCode : Variant → List Byte
/-- What the standard's IDE_KM message makes of the IDE streams: whether CXL.io and CXL.cachemem IDE are
on after it (R276, R474: the message is the standard's). -/
opaque ideKm : (msg : List Byte) → (io cm : Bool) → Bool × Bool
/-- The response the standard gives to an IDE_KM message (R474). -/
opaque ideKmAnswer : (msg : List Byte) → List Byte

end Sys2Proof.Config
end

