-- ==== Sys2Proof/Machine/State.lean ====
section
/-! DEFINITION. The state of the module: every register, memory, buffer, counter, queue and mode that the
spec names, as plain data, and the queue of waiting commands. A group of like units is a table keyed by
number; an unlisted number holds the default record, so a table of a group at reset is empty. -/

namespace Sys2Proof.Machine

/-- The device states (R19). -/
inductive DevState where
  /-- held in reset -/
  | reset
  /-- boot ROM, verification, regulators, self-test, floor plan -/
  | booting
  /-- memory and Clasp training -/
  | training
  /-- topology compared with the manifest -/
  | agreement
  /-- in service -/
  | ready
  /-- admission stopped -/
  | stopped
  /-- boot ROM recovery -/
  | recovery
  deriving DecidableEq, Repr, Inhabited

/-- Ring states; the doorbell reads them as 0 to 3 (R278). -/
inductive RingState where
  /-- OFF -/
  | off
  /-- ON -/
  | on
  /-- STOPPING -/
  | stopping
  /-- HALTED -/
  | halted
  deriving DecidableEq, Repr, Inhabited

/-- Job states other than absent (R71). -/
inductive JobPhase where
  /-- OPEN -/
  | opened
  /-- COMMITTED -/
  | committed
  /-- CLOSING -/
  | closing
  /-- KILLING -/
  | killing
  deriving DecidableEq, Repr, Inhabited

/-- Slice bank retention states (R174). -/
inductive RetState where
  /-- AWAKE -/
  | awake
  /-- PENDING -/
  | pending
  /-- ENTERING -/
  | entering
  /-- RETAINED -/
  | retained
  deriving DecidableEq, Repr, Inhabited

/-- Locket entry states (R200). -/
inductive LktState where
  /-- FREE -/
  | free
  /-- HBM -/
  | hbm
  /-- LPDDR -/
  | lpddr
  /-- PEER -/
  | peer
  /-- PROMOTING -/
  | promoting
  /-- DEMOTING -/
  | demoting
  /-- POISONED -/
  | poisoned
  deriving DecidableEq, Repr, Inhabited

/-- Sequence slot states (R209). -/
inductive SlotState where
  /-- FREE -/
  | free
  /-- READY -/
  | ready
  /-- RUNNING -/
  | running
  /-- PAUSED -/
  | paused
  /-- FAULTED -/
  | faulted
  /-- CLOSING -/
  | closing
  deriving DecidableEq, Repr, Inhabited

/-- Assay states (R320). -/
inductive AssayState where
  /-- OPEN -/
  | opened
  /-- COMMITTING -/
  | committing
  /-- ARMED -/
  | armed
  /-- FAULT -/
  | fault
  deriving DecidableEq, Repr, Inhabited

/-- CLK_STATE.REF (R356). -/
inductive RefState where
  /-- LOCKED -/
  | locked
  /-- HOLDOVER -/
  | holdover
  /-- PULL_IN -/
  | pullIn
  deriving DecidableEq, Repr, Inhabited

/-- Core region states (R370). -/
inductive RegionState where
  /-- OFF -/
  | off
  /-- WAITING -/
  | waiting
  /-- RAMPING -/
  | ramping
  /-- ON -/
  | on
  /-- RETENTION -/
  | retention
  /-- LOST -/
  | lost
  deriving DecidableEq, Repr, Inhabited

/-- Clasp link states (R400). -/
inductive LinkState where
  /-- OFF -/
  | off
  /-- TRAINING -/
  | training
  /-- UP -/
  | up
  /-- SHORT -/
  | short
  /-- DOWN -/
  | down
  /-- HELD -/
  | held
  deriving DecidableEq, Repr, Inhabited

/-- FW_PROC STATE (R445). -/
inductive ProcState where
  /-- BOOT -/
  | boot
  /-- RUNNING -/
  | running
  /-- RESTARTING -/
  | restarting
  /-- HALTED -/
  | halted
  deriving DecidableEq, Repr, Inhabited

/-- Heirloom record STATE (R154). -/
inductive HState where
  /-- WATCH -/
  | watch
  /-- PERMANENT, retirement pending -/
  | permanent
  /-- RETIRED -/
  | retired
  deriving DecidableEq, Repr, Inhabited

/-- A resident scratchpad region and its key; the key is only ever compared (R81). -/
structure Resident where
  /-- RES_BASE, 4 KiB units (R79; 8 bits) -/
  base : Nat := 0
  /-- RES_LEN, 4 KiB units (R79; 8 bits) -/
  len : Nat := 0
  /-- RESIDENCY_KEY (R79; 64 bits) -/
  key : BitVec 64 := 0
  deriving DecidableEq, Repr, Inhabited

/-- One weight plane: the 16-bit word and the 8-bit scale of each cell, keyed 256 x array row + array column. -/
structure Plane where
  /-- weights; unlisted 0 (R86; 65,536 x 16 bits) -/
  cells : Tab (BitVec 16) := []
  /-- plane scales (R86; 65,536 x 8 bits) -/
  scales : Tab (BitVec 8) := []
  /-- the scale of every unlisted cell (R86; 8 bits) -/
  unlisted : BitVec 8 := 127
  deriving DecidableEq, Repr, Inhabited

/-- The activation register of a cell. -/
structure ActReg where
  /-- the operand (R86; 16 bits) -/
  word : BitVec 16 := 0
  /-- its block scale (R86; 8 bits) -/
  scale : BitVec 8 := 127
  /-- its residue code (R86; 3 bits) -/
  res : Nat := 0
  deriving DecidableEq, Repr, Inhabited

/-- An accumulator or bank entry: a 72-bit integer kept within [-S, S], or an FP32 value, and the anchor flag. -/
structure AccEntry where
  /-- true: last written by an FP32 pass (R94; 1 bit) -/
  fp : Bool := false
  /-- exact entry: the integer A (R124; 72 bits) -/
  val : Int := 0
  /-- FP32 entry: the value (R132; 32 bits) -/
  bits : BitVec 32 := 0
  /-- anchor flag (R125; 1 bit) -/
  flag : Bool := false
  /-- residue code of the entry (R86; 3 bits) -/
  res : Nat := 0
  deriving DecidableEq, Repr, Inhabited

/-- A WLOAD in progress, and afterwards the lock on its source range. -/
structure WLoad where
  /-- the plane it writes (R89; 1 bit) -/
  plane : Bool := false
  /-- source area, address register value (R105; 32 bits) -/
  src : Nat := 0
  /-- words of the source range (R105; 32 bits) -/
  words : Nat := 0
  /-- what the plane holds when the load completes (R89; as Plane) -/
  fill : Plane := {}
  /-- the load has completed (R89; 1 bit) -/
  done : Bool := false
  /-- a pass has used its weights (R105; 1 bit) -/
  used : Bool := false
  /-- it holds its source range locked (R105; 1 bit) -/
  lock : Bool := true
  deriving DecidableEq, Repr, Inhabited

/-- One result that a pass writes to the bank. -/
structure BankWrite where
  /-- bank row (R94; 9 bits) -/
  row : Nat := 0
  /-- logical column (R94; 8 bits) -/
  col : Nat := 0
  /-- the incoming value (R94; as AccEntry) -/
  entry : AccEntry := {}
  /-- held after a failed check (R144; 1 bit) -/
  held : Bool := false
  /-- a later exact pass has written the held entry: true replaced it, false added to it (R147; 2 bits) -/
  overlaid : Option Bool := none
  deriving DecidableEq, Repr, Inhabited

/-- A Hallmark event whose outcome is not decided yet: the record of R145 in the making. -/
structure HEvent where
  /-- TIME (R145; 64 bits) -/
  time : BitVec 64 := 0
  /-- EVENT_SEQ (R145; 32 bits) -/
  seq : BitVec 32 := 0
  /-- UNIT (R145; 8 bits) -/
  unit : BitVec 8 := 0
  /-- LOGICAL_CORE (R145; 8 bits) -/
  logical : BitVec 8 := 0
  /-- PHYS (R145; 8 bits) -/
  phys : BitVec 8 := 0
  /-- PHYS_COLUMN (R145; 16 bits) -/
  pcol : BitVec 16 := 0
  /-- LOGICAL_COLUMN (R145; 16 bits) -/
  lcol : BitVec 16 := 0
  /-- CELL_ROW (R145; 16 bits) -/
  cellRow : BitVec 16 := 0
  /-- EXPECTED (R145; 8 bits) -/
  expected : BitVec 8 := 0
  /-- OBSERVED (R145; 8 bits) -/
  observed : BitVec 8 := 0
  /-- CYCLE (R145; 64 bits) -/
  cycle : BitVec 64 := 0
  /-- PASS_CYCLE (R145; 32 bits) -/
  passCycle : BitVec 32 := 0
  /-- BANK_ROW (R145; 16 bits) -/
  bankRow : BitVec 16 := 0
  /-- HELD_ROWS (R145; 16 bits) -/
  heldRows : BitVec 16 := 0
  /-- WORK (R145; 32 bits) -/
  work : BitVec 32 := 0
  /-- JOB (R145; 16 bits) -/
  job : BitVec 16 := 0
  /-- STATION (R145; 16 bits) -/
  station : BitVec 16 := 0
  /-- LANE (R145; 16 bits) -/
  lane : BitVec 16 := 0
  /-- INSTR (R145; 16 bits) -/
  instr : BitVec 16 := 0
  deriving DecidableEq, Repr, Inhabited

/-- An issued pass that has not retired. -/
structure Pass where
  /-- WORK tag of the run that issued it (R145; 32 bits) -/
  work : BitVec 32 := 0
  /-- output-stationary (R92; 1 bit) -/
  mmo : Bool := false
  /-- ACC (R94; 1 bit) -/
  acc : Bool := false
  /-- FP32 accumulation (R87; 1 bit) -/
  fp : Bool := false
  /-- an MMO with DRAIN (R91; 1 bit) -/
  drain : Bool := false
  /-- an MMO that started its accumulators from zero (R91; 1 bit) -/
  fresh : Bool := true
  /-- results in landing order (R92; up to 512 x 256 entries) -/
  writes : List BankWrite := []
  /-- the plane an MMW uses (R90; 1 bit) -/
  plane : Option Bool := none
  /-- the ranges the pass holds locked (R105; address and words) -/
  locks : List (Nat × Nat) := []
  /-- M (R92; 9 bits) -/
  rows : Nat := 0
  /-- occupancy P (R92; 16 bits) -/
  steps : Nat := 0
  /-- index of the instruction (R145; 16 bits) -/
  instr : Nat := 0
  /-- events of the pass that await the decision, one a column (R145; as HEvent) -/
  events : List HEvent := []
  /-- what of it is not held has been written to the bank (R144; 1 bit) -/
  landed : Bool := false
  /-- a later pass has written a held entry, one of the two being an FP32 pair (R147; 1 bit) -/
  fpOver : Bool := false
  /-- the held results a clean re-run writes (R147; as writes) -/
  rerunWrites : List BankWrite := []
  /-- shape of the activations, or of A (R87; 16 bytes) -/
  shapeA : Shape := {}
  /-- shape of the weights, or of B (R87; 16 bytes) -/
  shapeB : Shape := {}
  /-- the activations, or A, as fed (R88; payload) -/
  bytesA : List (BitVec 8) := []
  /-- B as fed (R91; payload) -/
  bytesB : List (BitVec 8) := []
  /-- the active plane as the pass finds it (R90; as Plane) -/
  weights : Plane := {}
  /-- the anchor in force (R95; 10 bits signed) -/
  anchor : Int := 0
  /-- the cell accumulators that an MMO continues (R91; 65,536 entries) -/
  start : Tab AccEntry := []
  /-- bank row of result row 0 (R94; 9 bits) -/
  base : Nat := 0
  deriving DecidableEq, Repr, Inhabited

/-- An entry of the array queue. -/
structure ArrOp where
  /-- the instruction (R114; 64 bits) -/
  word : BitVec 64 := 0
  /-- gA when it was queued (R104; 32 bits) -/
  a : Nat := 0
  /-- gB (R104; 32 bits) -/
  b : Nat := 0
  /-- gC (R104; 32 bits) -/
  c : Nat := 0
  /-- tag of the run that queued it (R103; 32 bits) -/
  work : BitVec 32 := 0
  /-- index of the instruction (R145; 16 bits) -/
  instr : Nat := 0
  /-- the model's own: the words in which its reads will find an error (R178; words) -/
  ecc : List (Nat × EccFind) := []
  deriving DecidableEq, Repr, Inhabited

/-- What a check compares: p, a product, an aligned sum or a value to be rounded, is shifted by t to the grid of the result q. -/
structure CheckRel where
  /-- before rounding (R141; significand integer) -/
  p : Int := 0
  /-- shift to the result's grid (R141; shift count) -/
  t : Int := 0
  /-- the result (R140; significand integer) -/
  q : Int := 0
  /-- shift that aligns the addends of a sum (R142; shift count) -/
  align : Nat := 0
  deriving DecidableEq, Repr, Inhabited

/-- An ADRAIN that has started. -/
structure Drain where
  /-- the instruction (R96; as ArrOp) -/
  op : ArrOp := {}
  /-- rows read so far (R96; 10 bits) -/
  next : Nat := 0
  /-- the elements converted so far (R141; relations) -/
  vals : List CheckRel := []
  deriving DecidableEq, Repr, Inhabited

/-- The last instruction whose results the vector unit or a conversion formed (R141). -/
structure VecDone where
  /-- the units whose checks run in it (R145; 8 bits each) -/
  units : List Nat := []
  /-- index of the instruction (R145; 16 bits) -/
  instr : Nat := 0
  /-- the results: a lane or an element each (R141; relations) -/
  vals : List CheckRel := []
  /-- the sum of a reduction that is one result (R102; as CheckRel) -/
  total : Option CheckRel := none
  /-- the vector register written (R100; 5 bits) -/
  reg : Option Nat := none
  /-- one result for every lane (R102; 1 bit) -/
  all : Bool := false
  /-- the area written, when no register is (R106; 32 bits) -/
  area : Nat := 0
  /-- bits of an element there (R58; 6 bits) -/
  width : Nat := 0
  /-- elements of a row there (R58; 13 bits) -/
  cols : Nat := 1
  /-- bytes of a digit plane there, when the elements are FIX72 (R58; 32 bits) -/
  stride : Nat := 0
  /-- the lanes or elements with an event already (R145; indices) -/
  failed : List Nat := []
  deriving DecidableEq, Repr, Inhabited

/-- An entry of the DMA queue. -/
structure DmaOp where
  /-- 0 EMIT, 1 STORE, 2 FETCH (R104; 2 bits) -/
  kind : Nat := 0
  /-- STRAND (R114; 12 bits) -/
  strand : Nat := 0
  /-- gA: the area (EMIT, STORE) or the OFFSET (FETCH) (R114; 32 bits) -/
  area : Nat := 0
  /-- gB: the OFFSET of a STORE (R114; 32 bits) -/
  offset : Nat := 0
  /-- SHAPE (R114; 8 bits) -/
  shape : Nat := 0
  /-- LAST (R114; 1 bit) -/
  last : Bool := false
  /-- EMPTY (R114; 1 bit) -/
  empty : Bool := false
  /-- tag of the run that queued it (R76; 32 bits) -/
  work : BitVec 32 := 0
  deriving DecidableEq, Repr, Inhabited

/-- What a core's activity estimator counts (R380). -/
structure Activity where
  /-- cell-cycles with both operands not zero (R97; 64 bits) -/
  ungated : Nat := 0
  /-- cell-cycles gated by a zero operand (R97; 64 bits) -/
  gated : Nat := 0
  /-- vector instructions (R380; 32 bits) -/
  vec : Nat := 0
  /-- scratchpad accesses, in words (R380; 32 bits) -/
  spad : Nat := 0
  deriving DecidableEq, Repr, Inhabited

/-- One level of the loop stack. -/
structure LoopFrame where
  /-- index of the body's first instruction (R114; 16 bits) -/
  first : Nat := 0
  /-- index just past the body (R114; 16 bits) -/
  past : Nat := 0
  /-- iterations left, this one included (R114; 32 bits) -/
  left : Nat := 0
  deriving DecidableEq, Repr, Inhabited

/-- The run in progress on a core. -/
structure Run where
  /-- WORK tag of the run (R103; 32 bits) -/
  work : BitVec 32 := 0
  /-- END has been issued (R103; 1 bit) -/
  ending : Bool := false
  /-- busy count (R108; 64 bits) -/
  busy : Nat := 0
  /-- busy cycles since the last RECV (R245; 64 bits) -/
  tail : Nat := 0
  /-- cycles in credit waits and SWAIT (R245; 64 bits) -/
  wait : Nat := 0
  /-- the strand of a RECV that found no tile (R108; 12 bits) -/
  recvWait : Option Nat := none
  /-- the strand of an SWAIT that waits (R108; 12 bits) -/
  swaitOn : Option Nat := none
  /-- stalled on a full DMA queue (R108; 1 bit) -/
  stallDma : Bool := false
  /-- suspect mark (R149; 1 bit) -/
  suspect : Bool := false
  /-- the re-run reserve is spent (R147; 1 bit) -/
  reserveSpent : Bool := false
  /-- last vector instruction with checked results (R141; as VecDone) -/
  lastVec : Option VecDone := none
  /-- last ADRAIN (R141; as VecDone) -/
  lastDrain : Option VecDone := none
  deriving DecidableEq, Repr, Inhabited

/-- One physical core (120 of them; index field x 10 + row x 5 + position). -/
structure CoreSt where
  /-- scratchpad bytes; unlisted 0 (R158; 768 KiB) -/
  spad : List Host.Cell := []
  /-- poisoned scratchpad words (R179; 98,304 x 1) -/
  spadPoison : List Nat := []
  /-- those of the poisoned words whose poison a tripped memory device gave (R388; 98,304 x 1) -/
  spadHot : List Nat := []
  /-- word of each bank's last correctable error, and whether it has been written back since (R181; 32 x 18 bits) -/
  spadCe : Tab (Nat × Bool) := []
  /-- held resident region (R79; 80 bits) -/
  resident : Option Resident := none
  /-- weight plane 0 (R86; as Plane) -/
  plane0 : Plane := {}
  /-- weight plane 1 (R86; as Plane) -/
  plane1 : Plane := {}
  /-- repair plane (R86; as Plane) -/
  repair : Plane := {}
  /-- the plane in the active role (R90; 1 bit) -/
  active : Bool := false
  /-- WLOAD into plane 0: in progress, or its lock (R89; as WLoad) -/
  load0 : Option WLoad := none
  /-- WLOAD into plane 1 (R89; as WLoad) -/
  load1 : Option WLoad := none
  /-- array queue, oldest first (R104; 8 entries) -/
  arrQ : List ArrOp := []
  /-- the ADRAIN that reads its rows (R96; as Drain) -/
  drain : Option Drain := none
  /-- passes in the array, oldest first (R105; passes) -/
  passes : List Pass := []
  /-- activation registers, keyed 256 x array row + physical column (log 105) (R86; 65,536 x 27 bits) -/
  actReg : Tab ActReg := []
  /-- partial-sum registers, keyed 256 x array row + logical column (log 105) (R86; 65,536 x 75 bits) -/
  psum : Tab AccEntry := []
  /-- cell accumulators, keyed 256 x row + column (R91; 65,536 x 73 bits) -/
  cellAcc : Tab AccEntry := []
  /-- shadow accumulators (R86; 65,536 x 73 bits) -/
  shadowAcc : Tab AccEntry := []
  /-- the next MMO starts from zero (R91; 1 bit) -/
  accFresh : Bool := true
  /-- accumulator bank, keyed 256 x row + logical column (R94; 512 x 256 entries) -/
  bank : Tab AccEntry := []
  /-- anchor exponent (R95; 10 bits signed) -/
  anchor : Int := 0
  /-- run flag (R126; 1 bit) -/
  runFlag : Bool := false
  /-- vector registers, keyed 256 x register + lane (R100; 32 x 256 x 32 bits) -/
  vregs : Tab (BitVec 32) := []
  /-- scalar registers; g0 reads 0 (R103; 32 x 32 bits) -/
  g : Tab (BitVec 32) := []
  /-- loop stack, innermost first (R103; 8 levels) -/
  loops : List LoopFrame := []
  /-- index of the next instruction (R103; 14 bits) -/
  pc : Nat := 0
  /-- Calendar bits 63..32 latched by SEL 0x05 (R115; 32 bits) -/
  sysLatch : BitVec 32 := 0
  /-- the run in progress (R103; as Run) -/
  run : Option Run := none
  /-- instruction store with its shape table (R47; 128 KiB) -/
  prog : Option Program := none
  /-- station the core is bound by (R46; 10 bits) -/
  station : Option Nat := none
  /-- job that binds the core; 0 none (R39; 16 bits) -/
  job : Nat := 0
  /-- member index (R46; 7 bits) -/
  member : Nat := 0
  /-- member count (R46; 7 bits) -/
  members : Nat := 0
  /-- COMPILED_WIDTH of the station (R53; 9 bits) -/
  cwidth : Nat := 0
  /-- DMA queue, oldest first (R104; 16 entries) -/
  dmaQ : List DmaOp := []
  /-- issue of new passes stopped by a Hallmark event (R144; 1 bit) -/
  hstop : Bool := false
  /-- not UNUSABLE: what self-test found (R452; 1 bit) -/
  usable : Bool := true
  /-- physical columns not in service (R98; 256 x 1) -/
  colOut : List Nat := []
  /-- redundancy rows in use per scratchpad bank (R184; 32 x 5 bits) -/
  bankRows : Tab Nat := []
  /-- rows named by each bank's last four events, newest first (R182; 32 x 4 rows) -/
  bankEvents : Tab (List Nat) := []
  /-- VECTOR_EVENTS (R462; 16 bits) -/
  vecEvents : Nat := 0
  /-- array-domain periods since the region powered up (R145; 64 bits) -/
  cycles : BitVec 64 := 0
  /-- activity since the last tick of the hardware loop (R380; 4 counts) -/
  act : Activity := {}
  /-- width the logical core serves at until the job boundary (R78; 9 bits) -/
  servedWidth : Option Nat := none
  /-- narrower spare, until the job boundary (R78; 1 bit) -/
  outOfService : Bool := false
  /-- Equinox has aligned the crossings (R347; 1 bit) -/
  aligned : Bool := false
  /-- slip of the core-control to uncore crossing, in half entries (R351; 4 bits signed) -/
  slip : Int := 0
  /-- slip of the array to core-control crossing, in half entries (R346; 4 bits signed) -/
  slipArray : Int := 0
  /-- hold cycles are being inserted at the array crossing (R351; 1 bit) -/
  holdingArray : Bool := false
  /-- hold cycles are being inserted (R351; 1 bit) -/
  holding : Bool := false
  /-- whether holds were being inserted before the last period in which a stretch moved the slip (R355; period and 1 bit) -/
  holdBefore : Option (Nat × Bool) := none
  /-- Equinox is aligning the core's crossings again: nothing issues (R353; 1 bit) -/
  realigning : Bool := false
  deriving DecidableEq, Repr, Inhabited

/-- The per-field GEN_ window, slices and their upkeep (12 of them). -/
structure FieldSt where
  /-- slice bytes; unlisted 0 (R163; 64 MiB) -/
  slice : List Host.Cell := []
  /-- poisoned slice words (R179; 8,388,608 x 1) -/
  slicePoison : List Nat := []
  /-- those of the poisoned words whose poison a tripped memory device gave (R388; 8,388,608 x 1) -/
  sliceHot : List Nat := []
  /-- word of each slice bank's last correctable error, and whether it has been written back since (R181; 128 x 24 bits) -/
  sliceCe : Tab (Nat × Bool) := []
  /-- redundancy rows in use per slice bank (R184; 128 x 6 bits) -/
  sliceRows : Tab Nat := []
  /-- GEN_SLC_RET_REQ_n (R185; 8 x 16 bits) -/
  retReq : Tab (BitVec 16) := []
  /-- retention state per slice bank; unlisted AWAKE (R174; 128 x 2 bits) -/
  ret : Tab RetState := []
  /-- GEN_SLC_FENCED (R185; 16 bits) -/
  fenced : BitVec 16 := 0
  /-- GEN_MEM_STATUS (R185; 16 bits) -/
  memStatus : BitVec 16 := 0
  /-- GEN_SLC_WAKE_COUNT (R185; 32 bits) -/
  wakeCount : BitVec 32 := 0
  /-- GEN_SPD_UE_COUNT (R185; 32 bits) -/
  spdUe : BitVec 32 := 0
  /-- GEN_SLC_UE_COUNT (R185; 32 bits) -/
  slcUe : BitVec 32 := 0
  /-- GEN_SPD_CE_COUNT (R185; 64 bits) -/
  spdCe : BitVec 64 := 0
  /-- GEN_SLC_CE_COUNT (R185; 64 bits) -/
  slcCe : BitVec 64 := 0
  /-- GEN_XBAR_MERGE_COUNT (R185; 64 bits) -/
  merges : BitVec 64 := 0
  /-- slice rows with a read whose merge window may be open: 512-byte row, Calendar time of the first request (R168; rows and ns) -/
  openReads : List (Nat × Nat) := []
  /-- retention cancelled by a late access (R176; 1 bit) -/
  cancelled : Bool := false
  /-- runs (tag, core) in progress when WAKE was cleared (R176; runs) -/
  rearmWait : Option (List (BitVec 32 × Nat)) := none
  /-- last measured offset from the master, CLK_CAL_OFFSET_f (R339; 8 bits signed) -/
  calOff : Int := 0
  /-- the field's Calendar counter less the master's count, ns (R339; 64 bits) -/
  calDiff : Int := 0
  /-- difference still to be slewed (R339; ns) -/
  slew : Int := 0
  /-- ns into the present 64 ns slew frame (R339; 6 bits) -/
  slewPhase : Nat := 0
  /-- path delay from the master (R339; ns) -/
  pathDelay : Nat := 0
  /-- Hallmark record queue, oldest first (R146; 256 x 64 bytes) -/
  hmQueue : List (List (BitVec 8)) := []
  /-- the head of the Hallmark queue has been sent and awaits its response (R435; 1 bit) -/
  hmSent : Bool := false
  /-- lost-record counter (R146; 32 bits) -/
  hmLost : BitVec 32 := 0
  /-- lost records already reported (R436; 32 bits) -/
  hmLostTold : BitVec 32 := 0
  /-- THM_HEAT_CAP_FIELD_f (R391; 16 bits) -/
  heatCap : BitVec 16 := 0
  /-- when firmware last set the heat cap (R386; 64 bits) -/
  heatAt : Option (BitVec 64) := none
  /-- since when every sensor of the field has read below 85 °C (R386; 64 bits) -/
  coolSince : Option (BitVec 64) := none
  /-- LPDDR5X poison table (R196; 16,384 word addresses) -/
  poisonTable : List Nat := []
  deriving DecidableEq, Repr, Inhabited

/-- What an EMPTY tile of a later work item leaves at a Loupe unit until that item opens. -/
structure EmptyTile where
  /-- WORK (R230; 32 bits) -/
  work : W32 := 0
  /-- the strand (R230; 12 bits) -/
  strand : Nat := 0
  /-- the source member (R230; 7 bits) -/
  member : Nat := 0
  /-- LAST (R230; 1 bit) -/
  last : Bool := false
  /-- SUSPECT (R228; 1 bit) -/
  suspect : Bool := false
  /-- ANCHOR_SAT (R228; 1 bit) -/
  anchorSat : Bool := false
  deriving DecidableEq, Repr, Inhabited

/-- One Loupe unit (12 of them). -/
structure LoupeSt where
  /-- LOU_STATE.POWERED (R233; 1 bit) -/
  powered : Bool := false
  /-- committed LOUPE station (BOUND) (R233; 10 bits) -/
  station : Option Nat := none
  /-- job of that station (R230; 16 bits) -/
  job : Nat := 0
  /-- tag of the open work item (BUSY, LOU_WORK) (R233; 32 bits) -/
  workTag : Option (BitVec 32) := none
  /-- top-k store: score bits and corpus id, best first, per query (R218; 2,048 x 1,024 x 64 bits) -/
  lists : Tab (List (BitVec 32 × BitVec 32)) := []
  /-- non-EMPTY score tiles consumed, per source member (R222; per member) -/
  ordinals : Tab Nat := []
  /-- sources that have delivered LAST (R230; strand and member) -/
  lastSeen : List (Nat × Nat) := []
  /-- EMPTY tiles of later work items, consumed after their member's LAST (R230; a tile each) -/
  ahead : List EmptyTile := []
  /-- an input tile was SUSPECT (R228; 1 bit) -/
  suspect : Bool := false
  /-- an input tile had ANCHOR_SAT (R228; 1 bit) -/
  anchorSat : Bool := false
  /-- the open work item's input has closed; its result tiles leave (R230; 1 bit) -/
  closed : Bool := false
  /-- result tiles that wait for a credit (R227; result tiles) -/
  outQ : List Tile := []
  /-- LOU_STATUS (R233; 16 bits) -/
  status : BitVec 16 := 0
  /-- LOU_WORK_COUNT (R233; 32 bits) -/
  workCount : BitVec 32 := 0
  /-- LOU_NAN_COUNT (R233; 32 bits) -/
  nanCount : BitVec 32 := 0
  /-- LOU_STRAY_COUNT (R233; 32 bits) -/
  strayCount : BitVec 32 := 0
  /-- LOU_STATE_CE_COUNT (R233; 32 bits) -/
  ceCount : BitVec 32 := 0
  /-- LOU_STATE_UE_COUNT (R233; 32 bits) -/
  ueCount : BitVec 32 := 0
  /-- LOU_CAND_COUNT (R233; 64 bits) -/
  candCount : BitVec 64 := 0
  /-- 26/64 floor of its uncore region (R368; 1 bit) -/
  capped : Bool := false
  /-- loop fraction of the unit: the device and field fractions (R381; 6 bits) -/
  loop : Nat := 0
  deriving DecidableEq, Repr, Inhabited

/-- A receive slot that is not free. -/
structure SlotRec where
  /-- credit group: destination member (SPREAD), source member (GATHER), else 0 (R65; 7 bits) -/
  group : Nat := 0
  /-- destination member that holds it (R64; 7 bits) -/
  member : Nat := 0
  /-- slot index in that member's buffer (R61; 13 bits) -/
  idx : Nat := 0
  /-- the tile (R61; 32 bytes and payload) -/
  tile : Tile := {}
  /-- 0 landed, 1 held by the program, 2 freed and awaiting its credit's return (R107; 2 bits) -/
  phase : Nat := 0
  /-- tag of the run that received it (R107; 32 bits) -/
  holder : Option (BitVec 32) := none
  /-- the item of its tile has ended: freed by the device once no run holds it (R76; 1 bit) -/
  gone : Bool := false
  deriving DecidableEq, Repr, Inhabited

/-- A fetch request waiting at a memory station. -/
structure FetchReq where
  /-- requesting member (R68; 7 bits) -/
  member : Nat := 0
  /-- OFFSET (R68; 32 bits) -/
  offset : BitVec 32 := 0
  /-- the shape named (R68; 16 bytes) -/
  shape : Shape := {}
  /-- tag of the run (R55; 32 bits) -/
  work : BitVec 32 := 0
  deriving DecidableEq, Repr, Inhabited

/-- A strand of a committed job. -/
structure StrandSt where
  /-- the job (R41; 16 bits) -/
  job : Nat := 0
  /-- the strand entry (R59; 32 bytes) -/
  entry : StrandE := {}
  /-- bound; LOCAL strands bind at commit (R83; 1 bit) -/
  bound : Bool := false
  /-- being bound or rebound across modules (R417; 1 bit) -/
  binding : Bool := false
  /-- its plans await recomputation after BOUND (R417; 1 bit) -/
  recompute : Bool := false
  /-- hop count H of its route (R410; 8 bits) -/
  hops : Nat := 0
  /-- axis on which its route goes the other way around (R411; 2 bits) -/
  altRoute : Option Nat := none
  /-- being rerouted: a RESYNC follows BOUND (R415; 1 bit) -/
  reroute : Bool := false
  /-- when its last bind was begun (R411; ns) -/
  tried : Option Nat := none
  /-- next SEQ to send per source member (R67; 32 bits per member) -/
  nextSeq : Tab (BitVec 32) := []
  /-- next SEQ expected per source member (R67; 32 bits per member) -/
  expSeq : Tab (BitVec 32) := []
  /-- credits held per credit group (R65; 7 bits per group) -/
  credits : Tab Nat := []
  /-- slots not free, in landing order (R61; DEPTH per group) -/
  slots : List SlotRec := []
  /-- next slot to fill per (group, member) (R61; 13 bits per buffer) -/
  rot : Tab Nat := []
  /-- tiles in flight, oldest first (R63; tiles) -/
  flight : List Tile := []
  /-- fetch requests in order (R68; requests) -/
  fetchQ : List FetchReq := []
  /-- GATHER rotation per destination member: the source member whose turn it is (R64; 7 bits) -/
  turn : Tab Nat := []
  /-- SEQ of the tile due from a source member in the GATHER rotation, keyed 128 x destination + source member (R64; 32 bits) -/
  due : Tab (BitVec 32) := []
  /-- SEQ at which every source member began: 0, or that of the last RESYNC (R415; 32 bits) -/
  baseSeq : BitVec 32 := 0
  /-- member count of the end on another module, from BIND or BOUND; 1 until then (R64; 7 bits) -/
  members : Nat := 1
  /-- tiles that each source member has emitted in the last 1 us: Calendar time in ns, bytes (R66; times and bytes) -/
  sent : Tab (List (Nat × Nat)) := []
  /-- tags of items that have ended here otherwise than DONE, whose tiles are discarded when they arrive over Clasp (R76; 32 bits each) -/
  ended : List (BitVec 32) := []
  /-- host tiles of started items waiting for a credit (R290; tiles) -/
  hostQ : List Tile := []
  /-- tiles in the hub's outbound buffer (HOST destination) (R258; DEPTH tiles) -/
  outbound : List Tile := []
  /-- (member, SEQ) received without a slot, ahead of the expected SEQ (R76; pairs) -/
  discard : List (Nat × BitVec 32) := []
  /-- (member, SEQ, WORK, time sent) of tiles sent across Clasp and not acknowledged (R413; tuples) -/
  unacked : List (Nat × BitVec 32 × BitVec 32 × Nat) := []
  deriving DecidableEq, Repr, Inhabited

/-- An open job. -/
structure JobSt where
  /-- state (R71; 2 bits) -/
  phase : JobPhase := .opened
  /-- station table (R51; 1,024 x 64 bytes) -/
  stations : Option (List StationE) := none
  /-- strand table (R51; 4,096 x 32 bytes) -/
  strands : Option (List StrandE) := none
  /-- values in force when each plan's windows were computed (R244; 16 plans) -/
  priced : Tab PlanPrice := []
  /-- plans being recomputed (R244; 4 bits each) -/
  stale : List Nat := []
  /-- the pending JOB_CLOSE (R71; 64 bits) -/
  closer : Option PendDesc := none
  deriving DecidableEq, Repr, Inhabited

/-- An admitted window. -/
structure Win where
  /-- station (R243; 10 bits) -/
  station : Nat := 0
  /-- t0 + S (R246; slot) -/
  first : Nat := 0
  /-- t0 + E (R246; slot) -/
  last : Nat := 0
  deriving DecidableEq, Repr, Inhabited

/-- What a halt under R245 or R258 ended an item on: a cause of R257 in the same cycle still takes its place (R259). -/
structure HaltMark where
  /-- the Calendar reading (R259; 88 bits) -/
  cal : BitVec 88 := 0
  /-- physical cores on which a run of it was in progress (R257; cores) -/
  cores : List Nat := []
  /-- fields whose Loupe unit had it open (R257; fields) -/
  loupes : List Nat := []
  /-- strands with tiles of it (R257; strands) -/
  strands : List Nat := []
  deriving DecidableEq, Repr, Inhabited

/-- An admitted, incomplete work item or Feast step. -/
structure Item where
  /-- WORK tag (R289; 32 bits) -/
  tag : BitVec 32 := 0
  /-- job (R286; 16 bits) -/
  job : Nat := 0
  /-- ring that carries its completion (R301; 13 bits) -/
  ring : Nat := 0
  /-- SQ_INDEX (R292; 16 bits) -/
  sqIndex : BitVec 16 := 0
  /-- interrupt requested (R297; 1 bit) -/
  irq : Bool := false
  /-- DEADLINE (R234; 64 bits) -/
  deadline : BitVec 64 := 0
  /-- RELEASE; 0 when not TIMED (R237; 64 bits) -/
  release : BitVec 64 := 0
  /-- RELEASE has passed (R247; 1 bit) -/
  released : Bool := true
  /-- PLAN; 15 for a step (R237; 4 bits) -/
  plan : Nat := 0
  /-- N (R237; 16 bits) -/
  batch : Nat := 0
  /-- earliest start (R246; slot) -/
  t0 : Nat := 0
  /-- completion slot (R246; slot) -/
  cslot : Nat := 0
  /-- its windows (R243; windows) -/
  wins : List Win := []
  /-- (station, member) whose run has ended (R247; pairs) -/
  runsDone : List (Nat × Nat) := []
  /-- stream of a Feast step (R213; 3 bits) -/
  step : Option Nat := none
  /-- step number since FEAST_BIND (R292; 64 bits) -/
  stepNo : Nat := 0
  /-- member slots of a step (R211; 11 bits each) -/
  slotsIn : List Nat := []
  /-- the step tile has left (R212; 1 bit) -/
  stepTileOut : Bool := true
  /-- status and DETAIL once it is ending otherwise than DONE (R21; 24 bits) -/
  status : Option (BitVec 8 × BitVec 16) := none
  /-- a run is suspect (R149; 1 bit) -/
  suspect : Bool := false
  /-- fields with no retention request when it was admitted (R174; 12 x 1 bit) -/
  unpriced : List Nat := []
  /-- ANCHOR_SAT on a tile written to its ring (R292; 1 bit) -/
  sat : Bool := false
  /-- tiles written to its ring's tile area (R292; 16 bits) -/
  tilesOut : Nat := 0
  /-- host tiles held and not yet in their strands (R290; up to 64 tiles) -/
  tiles : List Tile := []
  /-- a halt under R245 or R258 that ended it (R259; as HaltMark) -/
  halt : Option HaltMark := none
  deriving DecidableEq, Repr, Inhabited

/-- A completion: the 32 bytes less PHASE, which its CQ entry fixes. -/
structure Rec32 where
  /-- TAG (R292; 32 bits) -/
  tag : BitVec 32 := 0
  /-- SQ_INDEX (R292; 16 bits) -/
  sqIndex : BitVec 16 := 0
  /-- STATUS (R292; 8 bits) -/
  status : BitVec 8 := 0
  /-- KIND (R292; 2 bits) -/
  kind : Nat := 0
  /-- ANCHOR_SAT (R292; 1 bit) -/
  sat : Bool := false
  /-- TIME (R292; 64 bits) -/
  time : BitVec 64 := 0
  /-- DETAIL (R292; 16 bits) -/
  detail : BitVec 16 := 0
  /-- COUNT (R292; 16 bits) -/
  count : BitVec 16 := 0
  /-- TILE_TAIL (R292; 16 bits) -/
  tileTail : BitVec 16 := 0
  /-- TILE_COUNT (R292; 16 bits) -/
  tileCount : BitVec 16 := 0
  /-- VALUE (R292; 64 bits) -/
  value : BitVec 64 := 0
  /-- an interrupt is requested (R297; 1 bit) -/
  irq : Bool := false
  /-- the completion of an admitted item or step (R294; 1 bit) -/
  item : Bool := false
  /-- its CXL.cache write will fail (R269; 1 bit) -/
  bad : Bool := false
  /-- the slot and TOKEN_PERIOD of a SEQ_OPEN, whose DUE counts from the time of its completion (R209; slot and ns) -/
  opens : Option (Nat × Nat) := none
  deriving DecidableEq, Repr, Inhabited

/-- A ring pair (8,192 of them). -/
structure RingSt where
  /-- SQ_BASE (R327; 52 bits) -/
  sqBase : BitVec 64 := 0
  /-- CQ_BASE (R327; 52 bits) -/
  cqBase : BitVec 64 := 0
  /-- TILE_BASE (R327; 52 bits) -/
  tileBase : BitVec 64 := 0
  /-- RNG_SIZES (R327; 16 bits) -/
  sizes : BitVec 16 := 0
  /-- RNG_IRQ (R327; 16 bits) -/
  irqReg : BitVec 16 := 0
  /-- RNG_TILE_UNITS (R327; 16 bits) -/
  units : BitVec 16 := 0
  /-- ring state (R278; 2 bits) -/
  state : RingState := .off
  /-- RNG_STATUS bits 5..0 (R327; 6 bits) -/
  flags : BitVec 6 := 0
  /-- CFG_FAULT (R327; 4 bits) -/
  cfgFault : BitVec 4 := 0
  /-- SQ_TAIL of the last doorbell (R280; 16 bits) -/
  sqTail : BitVec 16 := 0
  /-- SQ head (R280; 16 bits) -/
  sqHead : BitVec 16 := 0
  /-- CQ_HEAD of the last doorbell (R280; 16 bits) -/
  cqHead : BitVec 16 := 0
  /-- CQ tail (R280; 16 bits) -/
  cqTail : BitVec 16 := 0
  /-- TILE_HEAD of the last doorbell (R280; 16 bits) -/
  tileHead : BitVec 16 := 0
  /-- tile tail (R280; 16 bits) -/
  tileTail : BitVec 16 := 0
  /-- descriptors fetched and not landed, oldest first (R285; descriptors) -/
  fetched : List Desc := []
  /-- OUTSTANDING (R327; 16 bits) -/
  outstanding : Nat := 0
  /-- the ring was HALTED when DISABLE was received: no completion is written on it (R279) (R278; 1 bit) -/
  disabled : Bool := false
  /-- HALTED out of STOPPING: DISABLE has been received (R278; 1 bit) -/
  disReq : Bool := false
  /-- a WORK descriptor of the ring waits for intake space (R284; 1 bit) -/
  waitIntake : Bool := false
  /-- held completions, oldest first (R294; completions) -/
  held : List Rec32 := []
  deriving DecidableEq, Repr, Inhabited

/-- A sequence slot record (2,048 of them). -/
structure SlotSt where
  /-- STATE (R209; 8 bits) -/
  state : SlotState := .free
  /-- STREAM (R209; 3 bits) -/
  stream : Nat := 0
  /-- TOKENS (R209; 32 bits) -/
  tokens : BitVec 32 := 0
  /-- MAX_TOKENS (R209; 32 bits) -/
  maxTokens : BitVec 32 := 0
  /-- LKT_BASE (R209; 21 bits) -/
  base : Nat := 0
  /-- PAGES (R209; 22 bits) -/
  pages : Nat := 0
  /-- TOKEN_PERIOD (R209; 32 bits) -/
  period : BitVec 32 := 0
  /-- DUE (R209; 64 bits) -/
  due : BitVec 64 := 0
  /-- the SEQ_PAUSE that waits (R210; 64 bits) -/
  pauseBy : Option PendDesc := none
  /-- the SEQ_CLOSE that waits (R210; 64 bits) -/
  closeBy : Option PendDesc := none
  deriving DecidableEq, Repr, Inhabited

/-- A bound Feast stream (8). -/
structure StreamSt where
  /-- job (R208; 16 bits) -/
  job : Nat := 0
  /-- ring that carried FEAST_BIND (R213; 13 bits) -/
  ring : Nat := 0
  /-- step strand (R208; 12 bits) -/
  strand : Nat := 0
  /-- STEP_MAX (R208; 12 bits) -/
  stepMax : Nat := 1
  /-- STEP_MIN (R208; 12 bits) -/
  stepMin : Nat := 1
  /-- STEP_WAIT, us (R208; 16 bits) -/
  stepWait : Nat := 0
  /-- STEP_BUDGET, us (R208; 16 bits) -/
  budget : Nat := 1
  /-- IN_FLIGHT_MAX (R208; 4 bits) -/
  inFlightMax : Nat := 1
  /-- next step number (R289; 64 bits) -/
  nextStep : Nat := 0
  /-- time of the last assembly (R211; 64 bits) -/
  lastAsm : BitVec 64 := 0
  /-- STEP_WAIT has passed since the last assembly (R211; 1 bit) -/
  waitOver : Bool := false
  /-- being unbound, and the FEAST_UNBIND that waits (R208; 64 bits) -/
  unbinding : Option (Option PendDesc) := none
  deriving DecidableEq, Repr, Inhabited

/-- A Locket entry (2,097,152 of them). -/
structure LktEntry where
  /-- STATE (R200; 3 bits) -/
  state : LktState := .free
  /-- PIN (R200; 1 bit) -/
  pin : Bool := false
  /-- OWNED (R200; 1 bit) -/
  owned : Bool := false
  /-- SLOT (R200; 11 bits) -/
  slot : Nat := 0
  /-- FIELD (R200; 4 bits) -/
  field : Nat := 0
  /-- TRAY_POS (R200; 2 bits) -/
  trayPos : Nat := 0
  /-- FRAME, 64 KiB units (R200; 22 bits) -/
  frame : Nat := 0
  /-- PEER_TIER (R200; 1 bit) -/
  peerTier : Nat := 0
  /-- AGE (R200; 16 bits) -/
  age : Nat := 0
  /-- a POISONED entry's frame lies in LPDDR5X (R207; 1 bit) -/
  lp : Bool := false
  /-- lender's epoch recorded by a PEER map (R419; 32 bits) -/
  peerEpoch : BitVec 32 := 0
  /-- a POISONED entry whose frame is a peer's (R419; 1 bit) -/
  wasPeer : Bool := false
  deriving DecidableEq, Repr, Inhabited

/-- A copy under way in a field's copy engine. -/
structure CopyJob where
  /-- entry index (R206; 21 bits) -/
  entry : Nat := 0
  /-- destination frame (R206; 22 bits) -/
  dst : Nat := 0
  /-- true: promotion (R206; 1 bit) -/
  up : Bool := false
  deriving DecidableEq, Repr, Inhabited

/-- Locket and the LKT_ block. -/
structure LktSt where
  /-- LKT_CFG (R216; 16 bits) -/
  cfg : BitVec 16 := 0
  /-- LKT_DEMOTE_AGE (R216; 16 bits) -/
  demoteAge : BitVec 16 := 0
  /-- LKT_HBM_LOW (R216; 16 bits) -/
  hbmLow : BitVec 16 := 0
  /-- LKT_HBM_HIGH (R216; 16 bits) -/
  hbmHigh : BitVec 16 := 0
  /-- LKT_LEND (R216; 12 bits) -/
  lend : BitVec 16 := 0
  /-- LKT_STATUS (R216; 16 bits) -/
  status : BitVec 16 := 0
  /-- LKT_PROMOTE_COUNT (R216; 64 bits) -/
  promoteCount : BitVec 64 := 0
  /-- LKT_DEMOTE_COUNT (R216; 64 bits) -/
  demoteCount : BitVec 64 := 0
  /-- LKT_POISON_COUNT (R216; 32 bits) -/
  poisonCount : BitVec 32 := 0
  /-- LKT_UNMAPPED_COUNT (R216; 32 bits) -/
  unmappedCount : BitVec 32 := 0
  /-- entries; unlisted FREE (R200; 2,097,152 x 64 bits) -/
  entries : Tab LktEntry := []
  /-- free pooled HBM3E frames per field, ascending (R201; 12 pools) -/
  hbmPool : Tab (List Nat) := []
  /-- free pooled LPDDR5X frames per field, ascending (R201; 12 pools) -/
  lpPool : Tab (List Nat) := []
  /-- the copy under way per field (R203; 12 engines) -/
  copies : Tab CopyJob := []
  /-- demotion has started and not reached LKT_HBM_HIGH (R205; 12 x 1 bit) -/
  demoting : Tab Bool := []
  /-- frames of this module's lent fields that peers have mapped (R190; field, requester, frame) -/
  peerMaps : List (Nat × Nat × Nat) := []
  deriving DecidableEq, Repr, Inhabited

/-- Feast and the FST_ block. -/
structure FeastSt where
  /-- FST_CFG (R217; 1 bit) -/
  cfg : BitVec 16 := 0
  /-- FST_STATUS (R217; 16 bits) -/
  status : BitVec 16 := 0
  /-- FST_STEP_COUNT (R217; 64 bits) -/
  stepCount : BitVec 64 := 0
  /-- FST_STEP_FAULT_COUNT (R217; 32 bits) -/
  stepFaults : BitVec 32 := 0
  /-- FST_STEP_REFUSED_COUNT (R217; 32 bits) -/
  stepRefused : BitVec 32 := 0
  /-- slots (R209; 2,048 records) -/
  slots : Tab SlotSt := []
  /-- bound streams, keyed by stream (R208; 8 streams) -/
  streams : Tab StreamSt := []
  /-- step tiles waiting for a credit (R212; strand and tile) -/
  stepTiles : List (Nat × Tile) := []
  deriving DecidableEq, Repr, Inhabited

/-- The Almanac and the ALM_ block. -/
structure AlmSt where
  /-- ALM_BETA_DEV (R260; 6 bits) -/
  betaDev : BitVec 16 := 0
  /-- ALM_BETA_FIELD_f (R260; 12 x 6 bits) -/
  betaField : Tab (BitVec 16) := []
  /-- ALM_STATUS (R260; 16 bits) -/
  status : BitVec 16 := 0
  /-- ALM_STATE.CAP_PENDING (R260; 1 bit) -/
  capPending : Bool := false
  /-- ALM_STATE.HOLDOVER (R260; 1 bit) -/
  holdover : Bool := false
  /-- ALM_VERDICT_MAX (R260; 8 bits) -/
  verdictMax : BitVec 8 := 0
  /-- ALM_ADMIT_COUNT (R260; 64 bits) -/
  admitCount : BitVec 64 := 0
  /-- ALM_LATE_COUNT (R260; 32 bits) -/
  lateCount : BitVec 32 := 0
  /-- ALM_OVERRUN_COUNT (R260; 32 bits) -/
  overrunCount : BitVec 32 := 0
  /-- ALM_HOST_ABORT_COUNT (R260; 32 bits) -/
  hostAbortCount : BitVec 32 := 0
  /-- admitted incomplete items, in admission order (R248; 32,768 items) -/
  items : List Item := []
  /-- station tails (R246; slot per station) -/
  tails : Tab Nat := []
  /-- admitted items per completion slot (R246; 8 bits per slot) -/
  cslots : Tab Nat := []
  deriving DecidableEq, Repr, Inhabited

/-- The Assay and the ASY_ block. -/
structure AsySt where
  /-- ASY_REF (R325; 32 bits) -/
  ref : BitVec 32 := 0
  /-- ASY_CRC (R325; 32 bits) -/
  crc : BitVec 32 := 0
  /-- ASY_FAULT_CRC (R325; 32 bits) -/
  faultCrc : BitVec 32 := 0
  /-- ASY_STATE (R320; 2 bits) -/
  state : AssayState := .opened
  /-- the sweep in progress began before the COMMIT (R319; 1 bit) -/
  waitSweep : Bool := false
  /-- the values that the sweep in progress has read so far, in canonical order (R319; 260 x 32 bits) -/
  seen : List Nat := []
  /-- ASY_STATUS (R325; 16 bits) -/
  status : BitVec 16 := 0
  /-- ASY_FAULT_BLOCKS (R325; 14 bits) -/
  faultBlocks : BitVec 32 := 0
  /-- ASY_FAULT_TIME (R325; 64 bits) -/
  faultTime : BitVec 64 := 0
  /-- ASY_WORDS (R325; 16 bits) -/
  words : BitVec 32 := 0
  /-- ASY_BLOCK_CRC_b (R325; 14 x 32 bits) -/
  blockCrc : Tab (BitVec 32) := []
  /-- ASY_SNAP_CRC_b (R325; 14 x 32 bits) -/
  snapCrc : Tab (BitVec 32) := []
  /-- ASY_FAULT_COUNT (R325; 32 bits) -/
  faultCount : BitVec 32 := 0
  /-- reference of the last successful commit (R476; 32 bits) -/
  lastRef : BitVec 32 := 0
  deriving DecidableEq, Repr, Inhabited

/-- Clocking and the CLK_ block. -/
structure ClkSt where
  /-- CLK_CFG (R356; 2 bits) -/
  cfg : BitVec 16 := 0
  /-- CLK_STATE.REF (R356; 2 bits) -/
  ref : RefState := .locked
  /-- CLK_STATE.REF_VALID (R356; 1 bit) -/
  refValid : Bool := false
  /-- CLK_STATE.EQUINOX_DONE (R356; 1 bit) -/
  equinoxDone : Bool := false
  /-- CLK_STATE.REALIGNING (R356; 1 bit) -/
  realigning : Bool := false
  /-- when the realignment under way ends (R353; 64 bits) -/
  realignEnd : BitVec 64 := 0
  /-- CLK_STATUS (R356; 16 bits) -/
  status : BitVec 16 := 0
  /-- CLK_DOMAIN_LOCK (R356; 296 x 1 bit) -/
  lock : Tab Bool := []
  /-- CLK_REF_LOSS_COUNT (R356; 32 bits) -/
  refLoss : BitVec 32 := 0
  /-- CLK_REALIGN_COUNT (R356; 32 bits) -/
  realign : BitVec 32 := 0
  /-- CLK_STRETCH_DENIED_COUNT (R356; 32 bits) -/
  denied : BitVec 32 := 0
  /-- CLK_DROOP_BREACH_COUNT (R356; 32 bits) -/
  breaches : BitVec 32 := 0
  /-- CLK_CTRL_RESEND_COUNT (R356; 32 bits) -/
  ctrlResend : BitVec 32 := 0
  /-- CLK_MAX_SLIP (R356; 4 bits) -/
  maxSlip : BitVec 4 := 0
  /-- CLK_STRETCH_COUNT (R356; 64 bits) -/
  stretch : BitVec 64 := 0
  /-- CLK_SLIP_HOLD_COUNT (R356; 64 bits) -/
  slipHold : BitVec 64 := 0
  /-- CLK_HOLDOVER_NS (R356; 64 bits) -/
  holdNs : BitVec 64 := 0
  /-- fraction of a ns not yet counted in CLK_HOLDOVER_NS (R356; 24 bits) -/
  holdFrac : Nat := 0
  /-- CLK_FIL_SEL (R356; 5 bits) -/
  filSel : BitVec 16 := 0
  /-- bulk bytes per link direction, keyed 2 x link + direction (R356; 32 x 64 bits) -/
  filBytes : Tab (BitVec 64) := []
  /-- cycle number in the present frame of 64 (R382; 6 bits) -/
  frame : Nat := 0
  deriving DecidableEq, Repr, Inhabited

/-- A low-water record. -/
structure LowWater where
  /-- lowest sensor minimum, mV (R364; 10 bits) -/
  mv : BitVec 10 := 1023
  /-- sensor index (R364; 4 bits) -/
  sensor : BitVec 4 := 0
  /-- setpoint code in force (R364; 8 bits) -/
  setpoint : BitVec 8 := 0
  /-- region (device and field records) (R376; 8 bits) -/
  region : BitVec 8 := 0
  /-- Calendar time (R364; 64 bits) -/
  time : BitVec 64 := 0
  /-- a sample has been taken since the last reset (R364; 1 bit) -/
  taken : Bool := false
  deriving DecidableEq, Repr, Inhabited

/-- A power region (132 of them). -/
structure RegionSt where
  /-- STATE (R370; 3 bits) -/
  state : RegionState := .off
  /-- DARK_CAUSE (R376; 3 bits) -/
  darkCause : BitVec 3 := 0
  /-- phases out of service, from Heirloom (R376; 12 x 1 bit) -/
  phasesOut : List Nat := []
  /-- CAPPED (R376; 1 bit) -/
  capped : Bool := false
  /-- SETPOINT, by part (R376; 8 bits) -/
  setpoint : BitVec 8 := 0
  /-- the code firmware asked for (R362; 8 bits) -/
  target : BitVec 8 := 0
  /-- VMIN_NOW (R376; 10 bits) -/
  vmin : BitVec 10 := 0
  /-- SENSOR_VALID (R376; 16 bits) -/
  sensorValid : BitVec 16 := 0xFFFF
  /-- region low-water record (R364; 96 bits) -/
  lw : LowWater := {}
  /-- TEMP (R376; 16 bits) -/
  temp : BitVec 16 := 0
  /-- PROC_0 (R376; 16 bits) -/
  proc0 : BitVec 16 := 0
  /-- PROC_1 (R376; 16 bits) -/
  proc1 : BitVec 16 := 0
  /-- CURRENT (R376; 16 bits) -/
  current : BitVec 16 := 0
  /-- RAMP_COUNT (R376; 32 bits) -/
  rampCount : BitVec 32 := 0
  /-- start of the last ramp (R371; 64 bits) -/
  rampStart : Option (BitVec 64) := none
  /-- when the last condition for RETENTION was met (R371; 64 bits) -/
  parkSince : Option (BitVec 64) := none
  /-- when the region began to wait (R373; 64 bits) -/
  waitSince : Option (BitVec 64) := none
  /-- the rail is up and the PLLs are locking (R373; 1 bit) -/
  rampDone : Bool := false
  /-- dark for heat, or about to be (R372; 1 bit) -/
  heat : Bool := false
  /-- TRIM (R391; 7 bits) -/
  trim : BitVec 7 := 64
  /-- when the trim was last set (R380; 64 bits) -/
  trimAt : Option (BitVec 64) := none
  /-- EST (R391; 16 bits) -/
  est : BitVec 16 := 0
  /-- loop fraction (R381; 6 bits) -/
  loop : Nat := 0
  /-- stretched time in the present frame of 64 cycles (R385; half periods) -/
  frameStretch : Nat := 0
  /-- neighbour at peak beside a ramp: floor 16/64 (R374; 1 bit) -/
  peak : Bool := false
  /-- BUBBLE, the applied fraction (R391; 6 bits) -/
  bubble : BitVec 6 := 0
  /-- FLOOR (R391; 1 bit) -/
  floor : Bool := false
  /-- THM_TRIPPED bit (R387; 1 bit) -/
  tripped : Bool := false
  /-- since when every sensor of the region has read below 95 °C (R387; 64 bits) -/
  coolSince : Option (BitVec 64) := none
  /-- thermal sensors that failed self-check (R366; 8 x 1 bit) -/
  sensorFailed : List Nat := []
  /-- numbers of the stretched periods of the last 32 (R349; periods) -/
  stretched : List Nat := []
  /-- the last stretched period and its stretch in half periods (R355; period and halves) -/
  lastStretch : Option (Nat × Nat) := none
  /-- when the setpoint last changed (R362; 64 bits) -/
  setAt : Option (BitVec 64) := none
  /-- the last period in which the detector was denied (R350; period) -/
  deniedAt : Option Nat := none
  /-- the present 1 ms window (R385; ms) -/
  msWin : Nat := 0
  /-- stretched time in it (R385; half periods) -/
  msStretch : Nat := 0
  /-- logical core the region powers up for, in spare substitution (R465; 7 bits) -/
  subst : Option Nat := none
  deriving DecidableEq, Repr, Inhabited

/-- Power delivery and the PWR_ block. -/
structure PwrSt where
  /-- PWR_PARK_n (R376; 6 x 16 bits) -/
  park : Tab (BitVec 16) := []
  /-- PWR_STATUS (R376; 16 bits) -/
  status : BitVec 16 := 0
  /-- PWR_CONV_OK (R376; 24 bits) -/
  convOk : BitVec 24 := 0xFFFFFF
  /-- regions (R360; 132 regions) -/
  regions : Tab RegionSt := []
  /-- PWR_LW_FIELD_f (R376; 12 records) -/
  lwField : Tab LowWater := []
  /-- PWR_LW_DEV (R376; 96 bits) -/
  lwDev : LowWater := {}
  /-- a power fault's cause persists (R359; 1 bit) -/
  faulted : Bool := false
  deriving DecidableEq, Repr, Inhabited

/-- Capping, heat and the THM_ block. -/
structure ThmSt where
  /-- THM_CFG (R391; 1 bit) -/
  cfg : BitVec 16 := 0
  /-- THM_CAP_DEV (R391; 16 bits) -/
  capDev : BitVec 16 := 6000
  /-- THM_CAP_FIELD_f (R391; 12 x 16 bits) -/
  capField : Tab (BitVec 16) := []
  /-- THM_CAP_REGION_r (R391; 120 x 16 bits) -/
  capRegion : Tab (BitVec 16) := []
  /-- THM_CAP_DEV_EFF (R391; 16 bits) -/
  capDevEff : BitVec 16 := 6000
  /-- field caps in force in the loop (R253; 12 x 16 bits) -/
  capFieldEff : Tab (BitVec 16) := []
  /-- region caps in force in the loop (R253; 120 x 16 bits) -/
  capRegionEff : Tab (BitVec 16) := []
  /-- THM_STATUS (R391; 16 bits) -/
  status : BitVec 16 := 0
  /-- THM_STATE.COOLANT_OK, the sampled level (R391; 1 bit) -/
  coolantOk : Bool := false
  /-- THM_STATE.COOLANT_STOP (R391; 1 bit) -/
  coolantStop : Bool := false
  /-- THM_MEM_TRIP_HBM (R391; 24 bits) -/
  memHbm : BitVec 24 := 0
  /-- THM_MEM_TRIP_LP_0 and _1 (R391; 48 bits) -/
  memLp : BitVec 48 := 0
  /-- since when a tripped memory device has read below 85 °C, keyed as devKey (R388; 72 x 64 bits) -/
  memCool : Tab (BitVec 64) := []
  /-- THM_EST_DEV (R391; 16 bits) -/
  estDev : BitVec 16 := 0
  /-- THM_FIELD_f.EST (R391; 12 x 16 bits) -/
  fieldEst : Tab (BitVec 16) := []
  /-- THM_FIELD_f.TEMP (R391; 12 x 8 bits) -/
  fieldTemp : Tab (BitVec 8) := []
  /-- THM_TRIP_COUNT (R391; 32 bits) -/
  trips : BitVec 32 := 0
  /-- THM_MEM_TRIP_COUNT (R391; 32 bits) -/
  memTrips : BitVec 32 := 0
  /-- THM_POWER_HALT_COUNT (R391; 32 bits) -/
  halts : BitVec 32 := 0
  /-- THM_STRETCH_EXCESS_COUNT (R391; 32 bits) -/
  excess : BitVec 32 := 0
  /-- THM_BUBBLE_CYCLES (R391; 64 bits) -/
  bubbles : BitVec 64 := 0
  deriving DecidableEq, Repr, Inhabited

/-- A block that waits for its turn on a link direction (R397). -/
structure WaitBlock where
  /-- TYPE (R396; 4 bits) -/
  type : Nat := 0
  /-- CHANNEL with FIRST and LAST (R395; 10 bits) -/
  channel : Nat := 0
  /-- PAYLOAD (R395; 240 bytes) -/
  payload : List (BitVec 8) := []
  /-- payload words that travel as poison (R179; 30 x 1 bit) -/
  poison : List Nat := []
  deriving DecidableEq, Repr, Inhabited

/-- A Clasp link (6, in R151 order). -/
structure LinkSt where
  /-- STATE (R424; 3 bits) -/
  state : LinkState := .off
  /-- OFF_CAUSE (R424; 3 bits) -/
  offCause : BitVec 3 := 0
  /-- lane pairs out of the reported width, from Heirloom (R424; 16 x 1 bit) -/
  pairsOut : List Nat := []
  /-- lanes in use (LANE_OK, LANES) (R424; 32 x 1 bit) -/
  lanes : List Nat := []
  /-- neighbour record of the present training (R408; as Neighbour) -/
  nbr : Option Neighbour := none
  /-- serial and link of the neighbour at the last UP (R408; 67 bits) -/
  lastUp : Option (BitVec 64 × Nat) := none
  /-- DELAY (R424; 8 bits) -/
  delay : BitVec 8 := 0
  /-- RETRY_EPISODE_COUNT (R424; 32 bits) -/
  episodes : BitVec 32 := 0
  /-- DOWN_COUNT (R424; 32 bits) -/
  downs : BitVec 32 := 0
  /-- CRC_FAIL (R424; 64 bits) -/
  crcFail : BitVec 64 := 0
  /-- TX_PAYLOAD (R424; 64 bits) -/
  txPayload : BitVec 64 := 0
  /-- LANE_FAULT_COUNT (R424; 32 bits) -/
  laneFaults : BitVec 32 := 0
  /-- BSEQ expected (R398; 16 bits) -/
  rxNext : BitVec 16 := 0
  /-- BSEQ of the next block to send (R398; 16 bits) -/
  txNext : BitVec 16 := 0
  /-- oldest BSEQ not acknowledged (R398; 16 bits) -/
  txAcked : BitVec 16 := 0
  /-- replay buffer, oldest first: the block, and the payload words that travel as poison (R398; 4,096 blocks) -/
  replay : List (List (BitVec 8) × List Nat) := []
  /-- how often each block of the replay buffer has been sent (R399; 4,096 counts) -/
  sends : List Nat := []
  /-- blocks that wait to be sent, in the order they came (R397; blocks) -/
  waiting : List WaitBlock := []
  /-- DATA and PEER blocks sent since the last CONTROL or MANAGEMENT block, up to 20 (R397; 5 bits) -/
  sinceCtl : Nat := 20
  /-- what PEER blocks have gathered of their share, in sixteenths of a block (R397; 4 bits) -/
  peerTurn : Nat := 0
  /-- DATA blocks sent of each channel since the channels began to wait together (R397; 256 counts) -/
  given : Tab Nat := []
  /-- what has passed of the next block's time, in bytes x 32 x 2^24 (R393; block share) -/
  budget : Nat := 0
  /-- a block has been accepted, or a NAK is due, and no block sent since says so (R398; 1 bit) -/
  ackDue : Bool := false
  /-- when the retry episode that runs began (R399; ns) -/
  episode : Option Nat := none
  /-- beginning and end of the retry episodes that ended in the last 1 ms (R399; times) -/
  episodeLog : List (Nat × Nat) := []
  /-- when ACK last made progress, or the oldest block outstanding was sent (R398; ns) -/
  ackAt : Nat := 0
  /-- when a block was last accepted (R399; ns) -/
  rxAt : Nat := 0
  /-- when the last retraining failed (R401; ns) -/
  failedAt : Option Nat := none
  /-- the next block carries NAK (R398; 1 bit) -/
  nakNext : Bool := false
  /-- part-received tile per incoming channel, with its words that arrived as poison (R396; bytes per channel) -/
  assembling : Tab (List (BitVec 8) × List Nat) := []
  /-- outgoing channels (R397; 256) -/
  outCh : Tab Channel := []
  /-- incoming channels (R397; 256) -/
  inCh : Tab Channel := []
  /-- when each lane was last charged with errors, newest first (R402; times) -/
  laneErr : Tab (List (BitVec 64)) := []
  /-- out of service (R404; 1 bit) -/
  outService : Bool := false
  /-- the neighbour takes its time from this module (R421; 1 bit) -/
  timeChild : Bool := false
  deriving DecidableEq, Repr, Inhabited

/-- Clasp and the CLS_ block. -/
structure ClsSt where
  /-- CLS_CFG (R424; 4 bits) -/
  cfg : BitVec 16 := 0
  /-- CLS_LINK_EN (R424; 6 bits) -/
  linkEn : BitVec 16 := 0x3F
  /-- CLS_STATUS (R424; 16 bits) -/
  status : BitVec 16 := 0
  /-- applied placement (CLS_PLACE_, CLS_TRAY_PEER_p) (R424; placement record) -/
  place : Option Placement := none
  /-- pending placement record (R407; placement record) -/
  pendingPlace : Option Placement := none
  /-- CLS_PLACE_EPOCH (R424; 32 bits) -/
  epoch : BitVec 32 := 0
  /-- CLS_LEND_EPOCH (R424; 32 bits) -/
  lendEpoch : BitVec 32 := 0
  /-- CLS_BIND_FAIL_COUNT (R424; 32 bits) -/
  bindFails : BitVec 32 := 0
  /-- CLS_RESYNC_COUNT (R424; 32 bits) -/
  resyncs : BitVec 32 := 0
  /-- links (R424; 6 links) -/
  links : Tab LinkSt := []
  /-- path delay to the time parent (R421; ns) -/
  timeDelay : Nat := 0
  /-- steering still to be slewed toward the parent (R421; 2^-24 ns) -/
  timeErr : Int := 0
  deriving DecidableEq, Repr, Inhabited

/-- A Skexayx processor (14 of them). -/
structure ProcSt where
  /-- STATE (R445; 3 bits) -/
  state : ProcState := .boot
  /-- CRASHES (R445; 16 bits) -/
  crashes : BitVec 16 := 0
  /-- operating minutes of the counted crashes of the last 60 (R428; minutes) -/
  recent : List (BitVec 32) := []
  /-- captured Keepsake record in the hub buffer (R430; 256 KiB) -/
  buffer : Option (List (BitVec 8)) := none
  /-- the record in the buffer is of a crash before the last KEEPSAKE_CLEAR (R430; 1 bit) -/
  bufOld : Bool := false
  /-- the image that it runs, loaded at its start (R438; image) -/
  image : List (BitVec 8) := []
  /-- registers, trace ring and data RAM as the last capture read them (R425; 8, 2 or 1 MiB and registers) -/
  inside : CrashInfo := {}
  deriving DecidableEq, Repr, Inhabited

/-- A queue of messages to the record sink. -/
structure SinkQ where
  /-- records not yet answered, oldest first (R435; records) -/
  queue : List Rec64 := []
  /-- the head has been sent and awaits its response (R435; 1 bit) -/
  sent : Bool := false
  deriving DecidableEq, Repr, Inhabited

/-- A PLDM firmware update in progress. -/
structure UpdSt where
  /-- the package that arrives (R439; package) -/
  pkg : FwPackage := {}
  /-- 0 its transfer, 1 staged and verified, 2 its apply (R439; 2 bits) -/
  stage : Nat := 0
  deriving DecidableEq, Repr, Inhabited

/-- An activation in progress. -/
structure ActSt where
  /-- processors still to be restarted into the new image; the first restarts now (R439; processors) -/
  left : List Nat := []
  /-- broadcast session that activates; none: a PLDM update (R443; 32 bits) -/
  session : Option (BitVec 32) := none
  /-- a target's root, to which it reports DONE; none: this module is the root (R443; coordinates) -/
  root : Option Coord := none
  /-- outcome that the root records at the end (R443; 8 bits) -/
  outcome : Nat := 0
  deriving DecidableEq, Repr, Inhabited

/-- The management port and the FW_ block. -/
structure MgmtSt where
  /-- processors (R425; 14 processors) -/
  procs : Tab ProcSt := []
  /-- FW_STATUS (R445; 16 bits) -/
  status : BitVec 16 := 0
  /-- I3C_ADDR (R445; 8 bits) -/
  i3cAddr : BitVec 8 := 0
  /-- EID_I3C (R445; 8 bits) -/
  eidI3c : BitVec 8 := 0
  /-- EID_ETH (R445; 8 bits) -/
  eidEth : BitVec 8 := 0
  /-- LINK bit 24 (R445; 1 bit) -/
  sgmiiUp : Bool := false
  /-- FW_IPV4 and LINK bit 25 (R445; 32 bits) -/
  ipv4 : Option (BitVec 32) := none
  /-- record sink, once SET_SINK has been received (R435; endpoint) -/
  sink : Option Nat := none
  /-- the record sink is reached over SGMII (R435; 1 bit) -/
  sinkEth : Bool := false
  /-- device master's fault-record queue (R435; 1,024 records) -/
  records : SinkQ := {}
  /-- RECORD_SEQ of the next record (R436; 32 bits) -/
  recordSeq : BitVec 32 := 0
  /-- FW_RECORD_LOST_COUNT (R445; 32 bits) -/
  lostCount : BitVec 32 := 0
  /-- lost records already reported (R435; 32 bits) -/
  lostTold : BitVec 32 := 0
  /-- FW_RECORD_SENT (R445; 64 bits) -/
  sentCount : BitVec 64 := 0
  /-- FW_KS_DROPPED_COUNT (R445; 32 bits) -/
  ksDropped : BitVec 32 := 0
  /-- FW_KS_SEL (R445; 11 bits) -/
  ksSel : BitVec 16 := 0
  /-- FW_KS_INFO.GEN of each Keepsake slot (R445; 28 x 8 bits) -/
  ksGen : Tab (BitVec 8) := []
  /-- manifest received since PERST_N (R458; 128 bytes) -/
  manifest : Option Manifest := none
  /-- manifest received after AGREEMENT was left, for the next bring-up (R458; 128 bytes) -/
  nextManifest : Option Manifest := none
  /-- staged, verified package (R438; 8 MiB) -/
  staging : Option FwPackage := none
  /-- PLDM firmware update in progress (R439; update) -/
  update : Option UpdSt := none
  /-- activation in progress (R439; activation) -/
  activation : Option ActSt := none
  /-- cause and region of a power fault whose record is still to be queued (R359; 16 bits) -/
  powerFault : Option (Nat × Nat) := none
  /-- broadcast session (R441; session) -/
  bcast : Option BcastSt := none
  /-- PLDM sensor values at the last update (R437; sensor readings) -/
  pldm : Tab Nat := []
  /-- present memory temperatures, HBM3E then LPDDR5X (R437; readings) -/
  sensors : List Nat := []
  deriving DecidableEq, Repr, Inhabited

/-- An attestation report being signed. -/
structure SignSt where
  /-- request (R476; header) -/
  hdr : VHdr := {}
  /-- nonce of the request (R476; 32 bytes) -/
  nonce : List (BitVec 8) := []
  /-- Calendar time at which it is signed (R476; 64 bits) -/
  due : BitVec 64 := 0
  deriving DecidableEq, Repr, Inhabited

/-- A LICENCE request being handled. -/
structure LicSt where
  /-- request (R478; header) -/
  hdr : VHdr := {}
  /-- file of an INSTALL; none: LIST (R478; 2,176 bytes) -/
  file : Option (List (BitVec 8)) := none
  /-- Calendar time at which it is answered (R478; 64 bits) -/
  due : BitVec 64 := 0
  deriving DecidableEq, Repr, Inhabited

/-- Security and the SEC_ block. -/
structure SecSt where
  /-- SEC_STATUS (R482; 16 bits) -/
  status : BitVec 16 := 0
  /-- SEC_LICENCE_REFUSED_COUNT (R482; 32 bits) -/
  licRefused : BitVec 32 := 0
  /-- SEC_SESSION_COUNT (R482; 32 bits) -/
  sessions : BitVec 32 := 0
  /-- the secured session (R475; keys and SEQ) -/
  session : Option Session := none
  /-- LICENCE_SLOTS (R482; 4 bits) -/
  slotsValid : BitVec 4 := 0
  /-- CXL.io IDE is on (R304; 1 bit) -/
  ideIo : Bool := false
  /-- CXL.cachemem IDE is on (R304; 1 bit) -/
  ideCm : Bool := false
  /-- IDE_KM messages accepted (R474; messages) -/
  kmIn : List (List (BitVec 8)) := []
  /-- attestation report being signed (R476; report) -/
  signing : Option SignSt := none
  /-- LICENCE request being handled (R478; request) -/
  licensing : Option LicSt := none
  deriving DecidableEq, Repr, Inhabited

/-- The CXL attachment and the CXL_ block. -/
structure CxlSt where
  /-- CXL_HDM_TARGET (R304; 15 bits) -/
  hdmTarget : BitVec 16 := 0
  /-- CXL_STATUS (R304; 16 bits) -/
  status : BitVec 16 := 0
  /-- CXL_LINK_STATE.WIDTH (R304; 8 bits) -/
  width : BitVec 8 := 0
  /-- CXL_LINK_STATE.SPEED (R304; 2 bits) -/
  speed : BitVec 2 := 0
  /-- CXL_DESC_COUNT (R304; 64 bits) -/
  descCount : BitVec 64 := 0
  /-- CXL_WINDOW_RD_COUNT (R304; 64 bits) -/
  winRd : BitVec 64 := 0
  /-- CXL_WINDOW_WR_COUNT (R304; 64 bits) -/
  winWr : BitVec 64 := 0
  /-- CXL_WINDOW_POISON_COUNT (R304; 32 bits) -/
  winPoison : BitVec 32 := 0
  /-- CXL_RING_HALT_COUNT (R304; 32 bits) -/
  haltCount : BitVec 32 := 0
  /-- committed HDM decoder: host base, size in bytes (R270; base and size) -/
  hdm : Option (Nat × Nat) := none
  /-- Error Not Committed (R270; 1 bit) -/
  hdmErr : Bool := false
  /-- D3hot (R264; 1 bit) -/
  d3 : Bool := false
  /-- the link has not trained to CXL at 8 or 16 lanes, so that no host access arrives (R261; 1 bit) -/
  down : Bool := false
  /-- memories in self-refresh after a COOLANT_OK stop (R275; 1 bit) -/
  selfRefresh : Bool := false
  /-- the model's own: how often the component registers and configuration space have changed, which their free contents depend on (R266; counter) -/
  compRev : Nat := 0
  deriving DecidableEq, Repr, Inhabited

/-- The rings and MSI-X. -/
structure RngSt where
  /-- rings (R277; 8,192 rings) -/
  rings : Tab RingSt := []
  /-- ring after which the round robin looks next (R283; 13 bits) -/
  rr : Nat := 0
  /-- MSI-X table words (R266; 2,048 x 16 bytes) -/
  msix : Tab (BitVec 32) := []
  /-- pending bit array (R266; 2,048 x 1 bit) -/
  pba : Tab Bool := []
  /-- per vector: a message was sent less than 1 us ago; true: a request waits (R297; 2,048) -/
  coalesce : Tab Bool := []
  /-- MSI-X Enable of message control (R297; 1 bit) -/
  msixOn : Bool := false
  /-- Function Mask of message control (R297; 1 bit) -/
  msixMask : Bool := false
  /-- rings that a failed completion write has put in HALTED and whose items are still to end (R279; rings) -/
  haltDue : List Nat := []
  deriving DecidableEq, Repr, Inhabited

/-- The device-level GEN_ registers. -/
structure GenSt where
  /-- GEN_STATE.STATE (R326; 3 bits) -/
  state : DevState := .reset
  /-- STOP_CAUSE ASSAY (R326; 1 bit) -/
  stopAssay : Bool := false
  /-- STOP_CAUSE COOLANT (R326; 1 bit) -/
  stopCoolant : Bool := false
  /-- STOP_CAUSE HOST and GEN_CTRL.HOST_STOP (R326; 1 bit) -/
  stopHost : Bool := false
  /-- STOP_CAUSE VIRAL (R326; 1 bit) -/
  stopViral : Bool := false
  /-- REPLACE_REQ (R19; 1 bit) -/
  replaceReq : Bool := false
  /-- GEN_LICENCE.CL (R326; 1 bit) -/
  cl : Bool := false
  /-- GEN_LICENCE.LP (R326; 1 bit) -/
  lp : Bool := false
  /-- GEN_EVENT_VECTOR (R326; 16 bits) -/
  eventVector : BitVec 16 := 0
  /-- GEN_EVENT_STATUS (R326; 16 bits) -/
  eventStatus : BitVec 16 := 0
  /-- GEN_HALLMARK_EVENTS (R326; 32 bits) -/
  hallmarks : BitVec 32 := 0
  /-- GEN_HALLMARK_RESOLVED (R326; 32 bits) -/
  resolved : BitVec 32 := 0
  /-- GEN_HALLMARK_SUSPECT (R326; 32 bits) -/
  suspects : BitVec 32 := 0
  /-- EVENT_SEQ of the next Hallmark event (R145; 32 bits) -/
  eventSeq : BitVec 32 := 0
  /-- GEN_FLOORPLAN_SEQ (R326; 32 bits) -/
  floorplanSeq : BitVec 32 := 0
  /-- current floor-plan report (R462; 11,296 bytes) -/
  report : List (BitVec 8) := []
  /-- HBM_FAIL (R462; 24 bits) -/
  hbmFail : BitVec 24 := 0
  /-- LPDDR_FAIL (R462; 12 bits) -/
  lpFail : BitVec 12 := 0
  /-- FILIGREE_FAIL (R462; 16 bits) -/
  filFail : BitVec 16 := 0
  /-- LOUPE_FAIL (R462; 12 bits) -/
  louFail : BitVec 12 := 0
  /-- HUB_FAIL (R462; 1 bit) -/
  hubFail : Bool := false
  /-- FAST (R462; 1 bit) -/
  fast : Bool := false
  /-- AGREE (R462; 8 bits) -/
  agree : BitVec 8 := 0
  /-- step of R448 that bring-up carries out or waits to start; 0: none (R448; 4 bits) -/
  bringStep : Nat := 0
  /-- what the present bring-up finds (R449; inputs) -/
  bringup : Option BringIn := none
  /-- physical core of each logical core; unlisted absent (R452; 96 x 7 bits) -/
  assign : Tab (Option Nat) := []
  /-- sampled STRAP (R405; 8 bits) -/
  straps : BitVec 8 := 0
  deriving DecidableEq, Repr, Inhabited

/-- A Heirloom record. -/
structure HRec where
  /-- KIND (R154; 8 bits) -/
  kind : Nat := 0
  /-- INDEX (R154; 32 bits) -/
  index : Nat := 0
  /-- STATE (R154; 8 bits) -/
  state : HState := .watch
  /-- EVENTS (R154; 32 bits) -/
  events : BitVec 32 := 0
  /-- MIN_1 (R154; 32 bits) -/
  min1 : BitVec 32 := 0
  /-- MIN_2 (R154; 32 bits) -/
  min2 : BitVec 32 := 0
  /-- MIN_3 (R154; 32 bits) -/
  min3 : BitVec 32 := 0
  /-- CAUSE (R154; 8 bits) -/
  cause : BitVec 8 := 0
  /-- operating time of the last event, for the 60 s rule (R152; ns) -/
  lastTime : Option Nat := none
  /-- its RECORD_CRC failed at bring-up (R155; 1 bit) -/
  crcBad : Bool := false
  deriving DecidableEq, Repr, Inhabited

/-- Module flash, fuses and what else outlives a reset. -/
structure FlashSt where
  /-- Heirloom records in flash (R155; 16,384 x 32 bytes) -/
  heirloom : List HRec := []
  /-- replacement record: causes 1 to 4 and the minutes (R157; 4 bits with minutes) -/
  replacement : List (Nat × BitVec 32) := []
  /-- operating minutes (R153; 32 bits) -/
  minutes : BitVec 32 := 0
  /-- assignment of the last build or substitution (R452; 96 x 7 bits) -/
  assign : Option (Tab (Option Nat)) := none
  /-- stored manifest; none is the shipped one (R458; 128 bytes) -/
  manifest : Option Manifest := none
  /-- licence slots (R478; 8 slots) -/
  licences : Tab Licence := []
  /-- Keepsake slots, keyed 2p + slot; empty: no record (R430; 28 x 256 KiB) -/
  keepsake : Tab (List (BitVec 8)) := []
  /-- crashes since manufacture (R431; 14 x 32 bits) -/
  crashSeq : Tab (BitVec 32) := []
  /-- firmware images MASTER, FIELD, POWER in flash (R438; 3 images) -/
  images : Tab (List (BitVec 8)) := []
  /-- minimum SVN of each type (blown fuses) (R473; 3 x 6 bits) -/
  svn : Tab Nat := []
  /-- saved settings: interface, band, neighbour serial, neighbour link (R454; settings) -/
  trained : List (Nat × Nat × BitVec 64 × Nat) := []
  /-- device chain (R469; 4,096 bytes) -/
  chain : List (BitVec 8) := []
  /-- converters that were lost at a power fault (R359; 24 x 1 bit) -/
  convLost : BitVec 24 := 0
  deriving DecidableEq, Repr, Inhabited

/-- What the factory fixes. -/
structure PartSt where
  /-- variant (R5; 8 bits) -/
  variant : Variant := .uz60
  /-- STEPPING (R326; 8 bits) -/
  stepping : BitVec 8 := 1
  /-- device serial (R326; 64 bits) -/
  serial : BitVec 64 := 1
  /-- private scalar of the identity key, as `scalar` reads it; only the signing engine uses it (R469; 384 bits) -/
  identity : Nat := 0
  /-- root public key in the boot ROM (R469; 97 bytes) -/
  rootKey : List (BitVec 8) := []
  /-- SEC_ROM_VERSION (R482; 32 bits) -/
  romVersion : BitVec 32 := 0
  /-- fused floor codes (R362; 132 x 8 bits) -/
  floors : Tab (BitVec 8) := []
  deriving DecidableEq, Repr, Inhabited

/-- The memory tiers. -/
structure MemSt where
  /-- HBM3E and LPDDR5X bytes by module memory address; unlisted: unwritten, no specified value (R189; 4.5 TiB) -/
  bytes : List Host.Cell := []
  /-- poisoned HBM3E words (address / 8) (R195; words) -/
  poison : List Nat := []
  /-- the model's own: resets so far, which the free contents of unwritten words depend on (R498; counter) -/
  epoch : Nat := 0
  deriving DecidableEq, Repr, Inhabited

/-- The HI shadows of R309. -/
structure ShadowSt where
  /-- shadows of BAR0 reads, keyed by the LO offset (R309; 32 bits per pair) -/
  host : Tab (BitVec 32) := []
  /-- shadows of the Skexayx port (R309; 32 bits per pair) -/
  fw : Tab (BitVec 32) := []
  deriving DecidableEq, Repr, Inhabited

/-- Pins and conditions that outlive RESET. -/
structure PinSt where
  /-- PERST_N is asserted (R446; 1 bit) -/
  perstLow : Bool := true
  /-- REFCLK is known not to be valid (R446; 1 bit) -/
  refBad : Bool := false
  /-- STRAP as sampled since the last PERST_N (R405; 8 bits) -/
  straps : Option (BitVec 8) := none
  deriving DecidableEq, Repr, Inhabited

/-- The whole module. -/
structure State where
  /-- factory values (R326; by part) -/
  part : PartSt := {}
  /-- module flash and fuses (R438; flash) -/
  flash : FlashSt := {}
  /-- pins that outlive RESET (R446; pins) -/
  pins : PinSt := {}
  /-- Calendar master, in units of 2^-24 ns (R338; 88 bits) -/
  cal : BitVec 88 := 0
  /-- GEN_ (R326; block) -/
  gen : GenSt := {}
  /-- shadows (R309; block) -/
  regsShadow : ShadowSt := {}
  /-- ASY_ (R325; block) -/
  asy : AsySt := {}
  /-- CLK_ (R356; block) -/
  clk : ClkSt := {}
  /-- PWR_ (R376; block) -/
  pwr : PwrSt := {}
  /-- THM_ (R391; block) -/
  thm : ThmSt := {}
  /-- ALM_ (R260; block) -/
  alm : AlmSt := {}
  /-- LKT_ (R216; block) -/
  lkt : LktSt := {}
  /-- FST_ (R217; block) -/
  fst : FeastSt := {}
  /-- LOU_ (R233; 12 units) -/
  lou : Tab LoupeSt := []
  /-- CXL_ (R304; block) -/
  cxl : CxlSt := {}
  /-- RNG_ (R327; block) -/
  rng : RngSt := {}
  /-- CLS_ (R424; block) -/
  cls : ClsSt := {}
  /-- FW_ (R445; block) -/
  mgmt : MgmtSt := {}
  /-- SEC_ (R482; block) -/
  sec : SecSt := {}
  /-- physical cores (R25; 120 cores) -/
  cores : Tab CoreSt := []
  /-- fields (R25; 12 fields) -/
  fields : Tab FieldSt := []
  /-- open jobs, keyed by job id (R71; 64 jobs) -/
  jobs : Tab JobSt := []
  /-- strands of committed jobs, keyed by strand id (R41; 4,096 strands) -/
  strands : Tab StrandSt := []
  /-- memory tiers (R189; 4.5 TiB) -/
  mem : MemSt := {}
  /-- Heirloom records as the device master holds them (R154; 16,384 records) -/
  heirloom : List HRec := []
  /-- saturating hardware event counter of each unit, keyed 2^32 x kind + index (R153; 8 bits per unit) -/
  hwCounts : Tab (BitVec 8) := []
  /-- operating time: Calendar time that has passed outside RESET (R153; ns) -/
  opTime : Nat := 0
  /-- Heirloom changes waiting for the flash write (R427; changes) -/
  hwQueue : List HRec := []
  /-- replacement causes waiting for the flash write (R157; causes) -/
  replaceDue : List (Nat × BitVec 32) := []
  /-- the model's own: what the module has put out, newest first (R268; messages) -/
  out : List Output := []
  /-- the model's own: counter the free values are applied to (R498; counter) -/
  free : Nat := 0
  /-- the model's own: the queue of waiting commands (R1; commands) -/
  pending : List Instr := []
  deriving DecidableEq, Repr, Inhabited

/-- How a command can end other than in a next state: in none. The spec gives the block an effect for every command in
every state, a request it does not serve being answered or ignored, so the type has no constructor. -/
inductive Fault where
  deriving DecidableEq, Repr

/-- Why a command has no meaning in this model. -/
inductive Refusal where
  /-- Raised by an arm of the dispatch for a command that has no meaning yet. Safe. -/
  | notModelled (mnemonic : String)
  deriving DecidableEq, Repr, Inhabited

/-- The module with PERST_N asserted and power applied: every register at the reset value of its table
(R305), memories unwritten (R498), no job, no ring on. The values the spec leaves to the part or to the
factory are those of the records' defaults, named in notes/assumptions/1.md. -/
def State.reset : State := {}

end Sys2Proof.Machine
end

