-- ==== Sys2Proof/Machine/Ops.lean ====
section
/-! DEFINITION. Named operations over the state: tables, bytes, memories, the units of the module, time,
flags and counters, what the module puts out, and the device events that reach the host. -/

namespace Sys2Proof.Machine

/-- The outcome of a command. -/
abbrev Result := Host.Outcome State Fault Refusal

/-! ## Tables -/

/-- The entry of a table at a number, if listed. -/
def tget? {α : Type} (t : Tab α) (k : Nat) : Option α := (t.find? (fun e => e.1 == k)).map (·.2)

/-- The entry of a table at a number, or the group's default. -/
def tget {α : Type} (t : Tab α) (k : Nat) (d : α) : α := (tget? t k).getD d

/-- Lists an entry, in place of the one listed at the same number, numbers rising. -/
def tput {α : Type} : Tab α → Nat → α → Tab α
  | [], k, v => [(k, v)]
  | e :: t, k, v => if k < e.1 then (k, v) :: e :: t else if k = e.1 then (k, v) :: t else e :: tput t k v

/-- Takes an entry out of a table. -/
def tdel {α : Type} (t : Tab α) (k : Nat) : Tab α := t.filter (fun e => e.1 != k)

/-- Changes the entry at a number. -/
def tmod {α : Type} (t : Tab α) (k : Nat) (d : α) (f : α → α) : Tab α := tput t k (f (tget t k d))

/-- Changes every listed entry. -/
def tmap {α β : Type} (t : Tab α) (f : Nat → α → β) : Tab β := t.map (fun e => (e.1, f e.1 e.2))

/-! ## Bytes -/

/-- The n bytes of a value, least significant first (R14). -/
def le (n v : Nat) : List Byte := (List.range n).map (fun i => BitVec.ofNat 8 (v >>> (8 * i)))

/-- The value of bytes, least significant first (R14). -/
def leNat (bs : List Byte) : Nat := bs.foldr (fun b a => b.toNat + 256 * a) 0

/-- The n bytes at an offset. -/
def cut {α : Type} (bs : List α) (off n : Nat) : List α := (bs.drop off).take n

/-- The n-byte field at an offset. -/
def fld (bs : List Byte) (off n : Nat) : Nat := leNat (cut bs off n)

/-- Bits [hi:lo] of a value. -/
def bits (v hi lo : Nat) : Nat := (v >>> lo) % 2 ^ (hi - lo + 1)

/-- The two's complement reading of n bits. -/
def signed (n v : Nat) : Int := if v % 2 ^ n < 2 ^ (n - 1) then (v % 2 ^ n : Nat) else (v % 2 ^ n : Nat) - (2 ^ n : Nat)

/-- The n-bit two's complement of an integer. -/
def unsignedOf (n : Nat) (i : Int) : Nat := (i % (2 ^ n : Nat)).toNat

/-- Whether n bytes at an offset are all 0. -/
def zeros (bs : List Byte) (off n : Nat) : Bool := (cut bs off n).all (· == 0)

/-- Bytes padded with zeros, or cut, to a length. -/
def padTo (n : Nat) (bs : List Byte) : List Byte := (bs ++ List.replicate (n - bs.length) 0).take n

/-- Bytes put over those at an offset. -/
def putBytes (bs : List Byte) (off : Nat) (new : List Byte) : List Byte :=
  bs.take off ++ new ++ bs.drop (off + new.length)

/-- One bit of a CRC-32C step (R318). -/
def crcBit (c : W32) : W32 := if c.getLsbD 0 then (c >>> 1) ^^^ 0x82F63B78#32 else c >>> 1

/-- One byte of a CRC-32C (R318). -/
def crcByte (c : W32) (b : Byte) : W32 :=
  crcBit (crcBit (crcBit (crcBit (crcBit (crcBit (crcBit (crcBit (c ^^^ b.setWidth 32))))))))

/-- The CRC-32C of bytes (R318). -/
def crc32c (bs : List Byte) : W32 := ~~~ (bs.foldl crcByte 0xFFFFFFFF#32)

/-- Bytes cut into pieces of n bytes, at most so many. -/
def pieces (n : Nat) : Nat → List Byte → List (List Byte)
  | 0, _ => []
  | k + 1, bs => if bs.isEmpty then [] else bs.take n :: pieces n k (bs.drop n)

/-- Bytes cut into pieces of n bytes, the last perhaps shorter. -/
def cutInto (n : Nat) (bs : List Byte) : List (List Byte) := pieces n (bs.length / n + 1) bs

/-- A record with its 4-byte CRC appended. -/
def withCrc (bs : List Byte) : List Byte := bs ++ le 4 (crc32c bs).toNat

/-- A structure of n bytes made of fields (offset, size, value); other bytes are 0. -/
def layout (n : Nat) (fs : List (Nat × Nat × Nat)) : List Byte :=
  fs.foldl (fun bs f => putBytes bs f.1 (le f.2.1 f.2.2)) (List.replicate n 0)

/-- A bit map of a list of bit numbers. -/
def bitmap (ns : List Nat) : Nat := ns.eraseDups.foldl (fun a n => a + 2 ^ n) 0

/-- The numbers of the bits set among the low n. -/
def bitList (n v : Nat) : List Nat := (List.range n).filter (fun i => v.testBit i)

/-! ## Memories -/

/-- The canonical form of a memory: addresses strictly rising, no entry equal to what an unlisted
address reads as. -/
def Memory.wf (dflt : Option Byte) : List Host.Cell → Bool
  | [] => true
  | [c] => dflt != some c.2
  | c :: d :: m => dflt != some c.2 && decide (c.1 < d.1) && Memory.wf dflt (d :: m)

/-- The byte listed at an address. -/
def Memory.get? (m : List Host.Cell) (a : Nat) : Option Byte := (m.find? (fun c => c.1 == a)).map (·.2)

/-- The bytes of a memory, an unlisted byte being given by `dflt`. -/
def Memory.read (dflt : Nat → Byte) (m : List Host.Cell) (a n : Nat) : List Byte :=
  let w := m.filter (fun c => decide (a ≤ c.1) && decide (c.1 < a + n))
  (List.range n).map (fun i => (Memory.get? w (a + i)).getD (dflt (a + i)))

/-- The cells that a run of bytes gives from an address on, less those an unlisted address reads as. -/
def Memory.cells (dflt : Option Byte) : Nat → List Byte → List Host.Cell
  | _, [] => []
  | a, b :: bs => if dflt = some b then Memory.cells dflt (a + 1) bs else (a, b) :: Memory.cells dflt (a + 1) bs

/-- Writes bytes from an address on, keeping the canonical form. -/
def Memory.write (dflt : Option Byte) (m : List Host.Cell) (a : Nat) (bs : List Byte) : List Host.Cell :=
  m.filter (fun c => decide (c.1 < a)) ++ (Memory.cells dflt a bs ++ m.filter (fun c => decide (a + bs.length ≤ c.1)))

/-- Bytes of a scratchpad or slice: unlisted is 0 (R498). -/
def zread (m : List Host.Cell) (a n : Nat) : List Byte := Memory.read (fun _ => 0) m a n

/-- Writes a scratchpad or slice. -/
def zwrite (m : List Host.Cell) (a : Nat) (bs : List Byte) : List Host.Cell := Memory.write (some 0) m a bs

/-- Host memory as a CXL.cache read finds it. -/
def hostRead (h : HostMem) (a n : Nat) : List Byte := Memory.read (fun _ => 0) h.cells a n

/-- Whether a CXL.cache read of these bytes meets a line that returns poison or an error (R269). -/
def hostFails (h : HostMem) (a n : Nat) : Bool :=
  h.bad.any (fun l => decide (a / 64 ≤ l) && decide (l * 64 < a + n))

/-! ## Units -/

/-- The field of a physical core (R343). -/
def coreField (c : Nat) : Nat := c / 10
/-- The field of a logical core (R13). -/
def lcoreField (l : Nat) : Nat := l / 8
/-- The row, counted over the die, of a physical core. -/
def coreRow (c : Nat) : Nat := c / 5
/-- The row, counted over the die, of a logical core. -/
def lcoreRow (l : Nat) : Nat := l / 4
/-- The field of a power region (R360). -/
def regionField (r : Nat) : Nat := if r < 120 then r / 10 else r - 120
/-- PHYS of a physical core: [3:0] field, [4] row, [7:5] position (R145). -/
def physByte (c : Nat) : Nat := c / 10 + 16 * (c % 10 / 5) + 32 * (c % 5)

def State.core (s : State) (c : Nat) : CoreSt := tget s.cores c {}
def State.setCore (s : State) (c : Nat) (v : CoreSt) : State := { s with cores := tput s.cores c v }
def State.modCore (s : State) (c : Nat) (f : CoreSt → CoreSt) : State := s.setCore c (f (s.core c))

def State.field (s : State) (f : Nat) : FieldSt := tget s.fields f {}
def State.setField (s : State) (f : Nat) (v : FieldSt) : State := { s with fields := tput s.fields f v }
def State.modField (s : State) (f : Nat) (g : FieldSt → FieldSt) : State := s.setField f (g (s.field f))

def State.loupe (s : State) (f : Nat) : LoupeSt := tget s.lou f {}
def State.setLoupe (s : State) (f : Nat) (v : LoupeSt) : State := { s with lou := tput s.lou f v }
def State.modLoupe (s : State) (f : Nat) (g : LoupeSt → LoupeSt) : State := s.setLoupe f (g (s.loupe f))

def State.ring (s : State) (n : Nat) : RingSt := tget s.rng.rings n {}
def State.setRing (s : State) (n : Nat) (v : RingSt) : State := { s with rng.rings := tput s.rng.rings n v }
def State.modRing (s : State) (n : Nat) (f : RingSt → RingSt) : State := s.setRing n (f (s.ring n))

def State.region (s : State) (r : Nat) : RegionSt := tget s.pwr.regions r {}
def State.setRegion (s : State) (r : Nat) (v : RegionSt) : State := { s with pwr.regions := tput s.pwr.regions r v }
def State.modRegion (s : State) (r : Nat) (f : RegionSt → RegionSt) : State := s.setRegion r (f (s.region r))

def State.link (s : State) (l : Nat) : LinkSt := tget s.cls.links l {}
def State.setLink (s : State) (l : Nat) (v : LinkSt) : State := { s with cls.links := tput s.cls.links l v }
def State.modLink (s : State) (l : Nat) (f : LinkSt → LinkSt) : State := s.setLink l (f (s.link l))

def State.proc (s : State) (p : Nat) : ProcSt := tget s.mgmt.procs p {}
def State.setProc (s : State) (p : Nat) (v : ProcSt) : State := { s with mgmt.procs := tput s.mgmt.procs p v }
def State.modProc (s : State) (p : Nat) (f : ProcSt → ProcSt) : State := s.setProc p (f (s.proc p))

def State.job? (s : State) (j : Nat) : Option JobSt := tget? s.jobs j
def State.setJob (s : State) (j : Nat) (v : JobSt) : State := { s with jobs := tput s.jobs j v }
def State.modJob (s : State) (j : Nat) (f : JobSt → JobSt) : State :=
  match s.job? j with
  | some v => s.setJob j (f v)
  | none => s

def State.strand? (s : State) (n : Nat) : Option StrandSt := tget? s.strands n
def State.setStrand (s : State) (n : Nat) (v : StrandSt) : State := { s with strands := tput s.strands n v }
def State.modStrand (s : State) (n : Nat) (f : StrandSt → StrandSt) : State :=
  match s.strand? n with
  | some v => s.setStrand n (f v)
  | none => s

def State.slot (s : State) (n : Nat) : SlotSt := tget s.fst.slots n {}
def State.setSlot (s : State) (n : Nat) (v : SlotSt) : State := { s with fst.slots := tput s.fst.slots n v }
def State.modSlot (s : State) (n : Nat) (f : SlotSt → SlotSt) : State := s.setSlot n (f (s.slot n))

def State.entry (s : State) (n : Nat) : LktEntry := tget s.lkt.entries n {}
def State.setEntry (s : State) (n : Nat) (v : LktEntry) : State := { s with lkt.entries := tput s.lkt.entries n v }

/-- The physical core that carries a logical core; none when it is absent (R32, R452). -/
def State.phys (s : State) (l : Nat) : Option Nat := (tget? s.gen.assign l).join

/-- The logical core that a physical core carries. -/
def State.logicalOf (s : State) (c : Nat) : Option Nat :=
  (s.gen.assign.find? (fun e => e.2 == some c)).map (·.1)

/-- Width of a physical core: its columns in service (R98). -/
def CoreSt.width (k : CoreSt) : Nat := 256 - k.colOut.length

/-- Width at which a logical core serves (R33, R78); 0 when absent. -/
def State.servedWidth (s : State) (l : Nat) : Nat :=
  match s.phys l with
  | none => 0
  | some c => ((s.core c).servedWidth).getD (s.core c).width

/-- Logical cores that are absent (R32). -/
def State.absent (s : State) : List Nat := (List.range 96).filter (fun l => (s.phys l).isNone)

/-! ## Time, flags, counters -/

/-- Calendar time in ns: bits above the fraction (R16, R338). -/
def State.now (s : State) : Nat := (s.cal >>> 24).toNat % 2 ^ 64
/-- A field's Calendar counter (R339). -/
def State.stampIn (s : State) (f : Nat) : W64 := BitVec.ofInt 64 ((s.now : Int) + (s.field f).calDiff)
/-- The 64-bit stamp of what happens in the hub or at the device level, which lie in F0 (R16, R341). -/
def State.stamp (s : State) : W64 := s.stampIn 0

/-- Core clock in MHz (R5, R37). -/
def clockMHz : Variant → Nat
  | .uz60 => 1300 | .uz48 => 1100 | .uz36 => 900

/-- Sets a flag bit of a 16-bit status (R311). -/
def setFlag (v : W16) (i : Nat) : W16 := v ||| BitVec.ofNat 16 (2 ^ i)
/-- Clears a flag bit. -/
def clrFlag (v : W16) (i : Nat) : W16 := v &&& ~~~ BitVec.ofNat 16 (2 ^ i)
/-- A flag bit. -/
def flag (v : W16) (i : Nat) : Bool := v.getLsbD i

/-- A counter that saturates (R312). -/
def sat {w : Nat} (c : BitVec w) (k : Nat := 1) : BitVec w := BitVec.ofNat w (min (c.toNat + k) (2 ^ w - 1))

/-- A free 32-bit value (R17: what the spec leaves unstated), and the state that has used it up. -/
def State.fresh32 (s : State) : W32 × State := (Config.free32 s.free, { s with free := s.free + 1 })

/-- Puts a message out. -/
def State.put (s : State) (o : Output) : State := { s with out := o :: s.out }

/-! ## Interrupts and device events -/

/-- Whether a vector is masked: bit 0 of its vector control word, 1 at reset, or the function mask, or MSI-X not
enabled (R297: the MSI-X standard). -/
def State.masked (s : State) (v : Nat) : Bool :=
  !s.rng.msixOn || s.rng.msixMask || (tget s.rng.msix (4 * v + 3) 1).getLsbD 0

/-- Sends a vector's message, which opens its 1 us of coalescing, or sets its pending bit while it is masked (R297). -/
def State.sendMsix (s : State) (v : Nat) : State :=
  if s.masked v then { s with rng.pba := tput s.rng.pba v true }
  else { s.put (.msix v) with rng.coalesce := tput s.rng.coalesce v false }

/-- A request for an interrupt on a vector, coalesced for 1 us after a message (R297). -/
def State.interrupt (s : State) (v : Nat) : State :=
  match tget? s.rng.coalesce v with
  | none => s.sendMsix v
  | some _ => { s with rng.coalesce := tput s.rng.coalesce v true }

/-- Sets a bit of GEN_EVENT_STATUS; on its change from 0 to 1 the event vector requests an interrupt while
enabled (R298, R326). -/
def State.event (s : State) (i : Nat) : State :=
  if flag s.gen.eventStatus i then s
  else
    let s := { s with gen.eventStatus := setFlag s.gen.eventStatus i }
    if flag s.gen.eventVector 15 then s.interrupt (s.gen.eventVector.toNat % 2048) else s

/-! ## Module memory (R189) -/

/-- Base of a field's HBM3E range. -/
def hbmBase (f : Nat) : Nat := f * 0x2000000000
/-- Base of a field's LPDDR5X range. -/
def lpBase (f : Nat) : Nat := 0x20000000000 + f * 0x4000000000
/-- Bytes of a field's HBM3E. -/
def hbmSize : Nat := 0x2000000000
/-- Bytes of a field's LPDDR5X. -/
def lpSize : Nat := 0x4000000000
/-- Whether an address names HBM3E. -/
def isHbm (a : Nat) : Bool := decide (a < 12 * 0x2000000000)
/-- Whether an address names LPDDR5X. -/
def isLp (a : Nat) : Bool := decide (0x20000000000 ≤ a) && decide (a < 0x20000000000 + 12 * 0x4000000000)
/-- The field whose home memory an address names. -/
def memField (a : Nat) : Nat := if isHbm a then a / 0x2000000000 else (a - 0x20000000000) / 0x4000000000

/-- Bytes of module memory; an unwritten byte reads as a free value (R498). -/
def State.memRead (s : State) (a n : Nat) : List Byte :=
  Memory.read (Config.unwrittenByte s.mem.epoch) s.mem.bytes a n

/-- Whether a word of module memory reads as poisoned: recorded as such, or an HBM3E word not written since
bring-up, which may (R195, R196, R498). -/
def State.wordPoison (s : State) (w : Nat) : Bool :=
  if isHbm (8 * w) then
    s.mem.poison.contains w ||
      ((List.range 8).all (fun i => (Memory.get? s.mem.bytes (8 * w + i)).isNone) && Config.unwrittenPoison s.mem.epoch w)
  else (s.field (memField (8 * w))).poisonTable.contains w

/-- Records a word as poisoned or clean. LPDDR5X keeps poison in its field's table of 16,384 words; the
result says whether the record was kept (R196). -/
def State.setPoison (s : State) (w : Nat) (p : Bool) : State × Bool :=
  if isHbm (8 * w) then
    let rest := s.mem.poison.filter (· != w)
    ({ s with mem.poison := if p then w :: rest else rest }, true)
  else
    let f := memField (8 * w)
    let t := (s.field f).poisonTable
    let rest := t.filter (· != w)
    if p then
      if t.contains w then (s, true)
      else if 16384 ≤ t.length then (s, false)
      else (s.modField f (fun k => { k with poisonTable := t ++ [w] }), true)
    else (s.modField f (fun k => { k with poisonTable := rest }), true)

end Sys2Proof.Machine
end

