-- ==== Sys2Proof/Machine/Flags.lean ====
section
/-! DEFINITION. Number formats, rounding and the flags that a result sets: the element encodings of R116,
exact values, correct rounding into every format (R134), the 72-bit grid with its clamp and anchor flag
(R123-R125), and the FP32 arithmetic of the vector unit and of FP32 pairs (R131, R132, R138). -/

namespace Sys2Proof.Machine

/-- An exact value: a NaN, an infinity, or (-1)^neg x m x 2^e, a zero keeping its sign. -/
inductive Num where
  | nan
  | inf (neg : Bool)
  | fin (neg : Bool) (m : Nat) (e : Int)
  deriving DecidableEq, Repr, Inhabited

/-- An integer times a power of two; zero is +0. -/
def Num.ofInt (i : Int) (e : Int) : Num := .fin (decide (i < 0)) i.natAbs e

/-- Whether the value is zero. -/
def Num.isZero : Num → Bool
  | .fin _ 0 _ => true
  | _ => false

/-- The sign. -/
def Num.neg? : Num → Bool
  | .nan => false
  | .inf n => n
  | .fin n _ _ => n

/-- The negated value. -/
def Num.negate : Num → Num
  | .nan => .nan
  | .inf n => .inf !n
  | .fin n m e => .fin (!n) m e

/-- m ÷ 2^k rounded to nearest, an exact tie to even (R123). -/
def rneDiv (m k : Nat) : Nat :=
  let q := m >>> k
  let r := m % 2 ^ k
  if 2 ^ k < 2 * r ∨ (2 * r = 2 ^ k ∧ q % 2 = 1) then q + 1 else q

/-- m x 2^d rounded to an integer. -/
def rneScale (m : Nat) (d : Int) : Nat := if 0 ≤ d then m <<< d.toNat else rneDiv m (-d).toNat

/-- A value with its sign. -/
def withSign (neg : Bool) (n : Nat) : Int := if neg then -(n : Int) else n

/-! ## Formats -/

/-- The parameters of a floating-point format: mantissa and exponent widths, bias, the code of the largest
finite magnitude, the code an overflow or infinity takes, the code of a NaN, and how the top exponent is
read: 0 as finite, 1 as IEEE 754, 2 as FP8 E4M3 (R116). -/
structure FFmt where
  mb : Nat
  eb : Nat
  bias : Nat
  maxCode : Nat
  ovf : Nat
  nan : Nat
  top : Nat
  deriving DecidableEq, Repr, Inhabited

def fp4 : FFmt := ⟨1, 2, 1, 0x7, 0x7, 0, 0⟩
def fp6e2 : FFmt := ⟨3, 2, 1, 0x1F, 0x1F, 0, 0⟩
def fp6e3 : FFmt := ⟨2, 3, 3, 0x1F, 0x1F, 0, 0⟩
def fp8e4 : FFmt := ⟨3, 4, 7, 0x7E, 0x7E, 0x7F, 2⟩
def fp8e5 : FFmt := ⟨2, 5, 15, 0x7B, 0x7C, 0x7F, 1⟩
def bf16 : FFmt := ⟨7, 8, 127, 0x7F7F, 0x7F80, 0x7FC0, 1⟩
def fp32 : FFmt := ⟨23, 8, 127, 0x7F7FFFFF, 0x7F800000, 0x7FC00000, 1⟩

/-- The exponent of the format's smallest quantum. -/
def FFmt.qmin (f : FFmt) : Int := 1 - (f.bias : Int) - f.mb

/-- The value an encoding stands for (R116, R117). -/
def FFmt.decode (f : FFmt) (raw : Nat) : Num :=
  let neg := raw.testBit (f.eb + f.mb)
  let e := (raw >>> f.mb) % 2 ^ f.eb
  let m := raw % 2 ^ f.mb
  if f.top = 1 ∧ e = 2 ^ f.eb - 1 then (if m = 0 then .inf neg else .nan)
  else if f.top = 2 ∧ e = 2 ^ f.eb - 1 ∧ m = 2 ^ f.mb - 1 then .nan
  else if e = 0 then .fin neg m f.qmin
  else .fin neg (2 ^ f.mb + m) (f.qmin + (e - 1 : Nat))

/-- The code of a magnitude m x 2^e, rounded once with RNE; subnormals are kept, and the quantum follows
the magnitude of the value (R134). -/
def FFmt.code (f : FFmt) (m : Nat) (e : Int) : Nat :=
  if m = 0 then 0
  else
    let q := max (e + (Nat.log2 m : Int) - f.mb) f.qmin
    let c := ((q - f.qmin).toNat <<< f.mb) + rneScale m (e - q)
    if f.maxCode < c then f.ovf else c

/-- The encoding of a value (R134): one RNE rounding, overflow and infinity to the format's own code. -/
def FFmt.encode (f : FFmt) : Num → Nat
  | .nan => f.nan
  | .inf neg => (if neg then 2 ^ (f.eb + f.mb) else 0) + f.ovf
  | .fin neg m e => (if neg then 2 ^ (f.eb + f.mb) else 0) + f.code m e

/-- The element format of a FORMAT code, MX forms included. -/
def ffmt (fmt : Nat) : FFmt :=
  match fmt % 128 with
  | 1 => fp4
  | 2 => fp6e2
  | 3 => fp6e3
  | 4 => fp8e4
  | 5 => fp8e5
  | 7 => bf16
  | _ => fp32

/-- Bits per element (R57). -/
def elemBits (fmt : Nat) : Nat :=
  match fmt % 128 with
  | 1 => 4
  | 2 => 6
  | 3 => 6
  | 7 => 16
  | 8 => 32
  | 9 => 32
  | 10 => 72
  | _ => 8

/-- Whether a FORMAT is an MX form (R57). -/
def isMx (fmt : Nat) : Bool := decide (128 ≤ fmt)

/-- Whether a FORMAT code is one that R57 lists. -/
def fmtKnown (fmt : Nat) : Bool := decide (fmt ≤ 0x0A) || (decide (0x81 ≤ fmt) && decide (fmt ≤ 0x86))

/-- PAYLOAD_BYTES of a tile of these rows and columns (R58, R135). -/
def payloadOf (fmt rows cols : Nat) : Nat :=
  let e := rows * cols
  (e * elemBits fmt / 8 + (if isMx fmt then e / 32 else 0) + 31) / 32 * 32

/-- Whether FORMAT, ROWS, COLS, ANCHOR and PAYLOAD_BYTES of a shape or tile header agree with R58, R111 and R122. -/
def shapeOk (fmt rows cols : Nat) (anchor : Int) (payload : Nat) : Bool :=
  fmtKnown fmt && decide (1 ≤ rows) && decide (rows ≤ 4096) && decide (1 ≤ cols) && decide (cols ≤ 4096) &&
  (!(isMx fmt || (decide (1 ≤ fmt) && decide (fmt ≤ 3))) || decide (cols % 32 = 0)) &&
  (if fmt = 10 then decide (-512 ≤ anchor) && decide (anchor ≤ 511) else decide (anchor = 0)) &&
  decide (payload = payloadOf fmt rows cols) && decide (payload ≤ 262144)

/-- The value of an element without its block scale. -/
def elemValue (fmt raw : Nat) : Num :=
  match fmt % 128 with
  | 6 => .ofInt (signed 8 raw) (if isMx fmt then -6 else 0)
  | 9 => .ofInt (signed 32 raw) 0
  | _ => (ffmt fmt).decode raw

/-- An element's value times its block scale; the scale 0xFF is the NaN scale (R118). -/
def scaled (v : Num) (scale : Nat) : Num :=
  match v with
  | .fin n m e => if scale = 255 then .nan else .fin n m (e + scale - 127)
  | v => if scale = 255 then .nan else v

/-- Element i of a packed area (R58): its bits, least significant first. -/
def packedElem (area : List Byte) (w i : Nat) : Nat :=
  bits (fld area (i * w / 8) ((w + 14) / 8)) (i * w % 8 + w - 1) (i * w % 8)

/-- An operand of a pass: its element's bits and its block scale (R58, R86). -/
def operand (fmt rows cols : Nat) (area : List Byte) (r k : Nat) : Nat × Nat :=
  let i := r * cols + k
  (packedElem area (elemBits fmt) i,
   if isMx fmt then fld area (rows * cols * elemBits fmt / 8 + i / 32) 1 else 127)

/-! ## The grid -/

/-- The bound S of the accumulator (R124). -/
def accS : Int := 0x7F7F7F7F7F7F7F7F7F

/-- Clamp to the accumulator's range, and whether it clamped (R124). -/
def clampS (i : Int) : Int × Bool :=
  if accS < i then (accS, true) else if i < -accS then (-accS, true) else (i, false)

/-- A finite value quantised onto the grid 2^a (R123). -/
def quantise (v : Num) (a : Int) : Int :=
  match v with
  | .fin n m e => withSign n (rneScale m (e - a))
  | _ => 0

/-- A product of two elements in an exact pair: its quantised value, and whether it is invalid (R120,
R121, R123). -/
def exactProduct (fa ra sa fb rb sb : Nat) (a : Int) : Int × Bool :=
  let va := elemValue fa ra
  let vb := elemValue fb rb
  if va.isZero || vb.isZero then (0, false)
  else
    match scaled va sa, scaled vb sb with
    | .fin n m e, .fin n' m' e' => (quantise (.fin (n != n') (m * m') (e + e')) a, false)
    | _, _ => (0, true)

/-- One accumulation step: the sum clamped, the flag with the step's own clamp and invalid products (R124). -/
def accStep (x : Int × Bool) (q : Int) (bad : Bool) : Int × Bool :=
  let c := clampS (x.1 + q)
  (c.1, x.2 || bad || c.2)

/-! ## FP32 arithmetic -/

/-- The FP32 encoding of a value. -/
def toFp32 (x : Num) : W32 := BitVec.ofNat 32 (fp32.encode x)

/-- The value of an FP32 encoding. -/
def ofFp32 (x : W32) : Num := fp32.decode x.toNat

/-- The exact product under IEEE 754: infinity times zero is NaN (R138). -/
def Num.mul : Num → Num → Num
  | .nan, _ => .nan
  | _, .nan => .nan
  | .inf n, y => if y.isZero then .nan else .inf (n != y.neg?)
  | x, .inf n => if x.isZero then .nan else .inf (x.neg? != n)
  | .fin n m e, .fin n' m' e' => .fin (n != n') (m * m') (e + e')

/-- The exact sum under IEEE 754: opposite infinities give NaN, an exact zero of terms that are not both
-0 is +0 (R132, R138). -/
def Num.add : Num → Num → Num
  | .nan, _ => .nan
  | _, .nan => .nan
  | .inf n, .inf n' => if n = n' then .inf n else .nan
  | .inf n, _ => .inf n
  | _, .inf n => .inf n
  | .fin n m e, .fin n' m' e' =>
    let q := min e e'
    let s := withSign n (m <<< (e - q).toNat) + withSign n' (m' <<< (e' - q).toNat)
    if s = 0 then .fin (n && n') 0 q else .ofInt s q

def fAdd (x y : W32) : W32 := toFp32 ((ofFp32 x).add (ofFp32 y))
def fSub (x y : W32) : W32 := toFp32 ((ofFp32 x).add (ofFp32 y).negate)
def fMul (x y : W32) : W32 := toFp32 ((ofFp32 x).mul (ofFp32 y))
/-- One rounding (R100). -/
def fFma (x y z : W32) : W32 := toFp32 (((ofFp32 x).mul (ofFp32 y)).add (ofFp32 z))

/-- Whether a value is below another, -0 below +0; NaN is below nothing. -/
def Num.lt (x y : Num) : Bool :=
  match x, y with
  | .nan, _ => false
  | _, .nan => false
  | .inf n, .inf n' => n && !n'
  | .inf n, _ => n
  | _, .inf n => !n
  | .fin n m e, .fin n' m' e' =>
    let q := min e e'
    let a := withSign n (m <<< (e - q).toNat)
    let b := withSign n' (m' <<< (e' - q).toNat)
    decide (a < b) || (decide (a = b) && n && !n')

/-- MAX: a NaN operand gives NaN, and +0 is above -0 (R138). -/
def fMax (x y : W32) : W32 :=
  let a := ofFp32 x
  let b := ofFp32 y
  if a = .nan ∨ b = .nan then 0x7FC00000 else if a.lt b then y else x

/-- MIN: a NaN operand gives NaN, and -0 is below +0 (R138). -/
def fMin (x y : W32) : W32 :=
  let a := ofFp32 x
  let b := ofFp32 y
  if a = .nan ∨ b = .nan then 0x7FC00000 else if b.lt a then y else x

/-- The largest r below 2^i with r^2 at most n, added to the part found. -/
def isqrtFrom (n : Nat) : Nat → Nat → Nat
  | 0, r => r
  | i + 1, r => isqrtFrom n i (if (r + 2 ^ i) * (r + 2 ^ i) ≤ n then r + 2 ^ i else r)

/-- The integer square root. -/
def isqrt (n : Nat) : Nat := isqrtFrom n (Nat.log2 n / 2 + 1) 0

/-- A value n x 2^e known to lie strictly between n and n + 1 quanta unless `exact`: an added odd bit keeps
every later rounding correct. -/
def sticky (neg : Bool) (n : Nat) (e : Int) (exact : Bool) : Num := .fin neg (2 * n + if exact then 0 else 1) (e - 1)

/-- RCP: the correctly rounded reciprocal (R100, R138). -/
def fRcp (x : W32) : W32 :=
  match ofFp32 x with
  | .nan => 0x7FC00000
  | .inf n => toFp32 (.fin n 0 0)
  | .fin n 0 _ => toFp32 (.inf n)
  | .fin n m e =>
    let k := Nat.log2 m + 40
    toFp32 (sticky n (2 ^ k / m) (-(k : Int) - e) (decide (2 ^ k % m = 0)))

/-- RSQRT: the correctly rounded reciprocal square root (R100, R138). -/
def fRsqrt (x : W32) : W32 :=
  match ofFp32 x with
  | .nan => 0x7FC00000
  | .inf true => 0x7FC00000
  | .inf false => toFp32 (.fin false 0 0)
  | .fin n 0 _ => toFp32 (.inf n)
  | .fin true _ _ => 0x7FC00000
  | .fin false m e =>
    let m' := if e % 2 = 0 then m else 2 * m
    let e' := if e % 2 = 0 then e else e - 1
    let k := Nat.log2 m' + 40
    let r := isqrt (2 ^ (2 * k) / m')
    toFp32 (sticky false r (-(k : Int) - e' / 2) (decide (r * r * m' = 2 ^ (2 * k))))

/-- Bits of precision of the working values of EXP2. -/
def exp2P : Nat := 200

/-- The product of 2^(2^-i) over the bits set in a fraction, most significant first; `c` is the present
root of 2 and `acc` the product, both in units of 2^-exp2P. -/
def exp2Frac : Nat → Nat → Nat → Nat → Nat
  | 0, _, _, acc => acc
  | i + 1, frac, c, acc =>
    let c' := isqrt (c <<< exp2P)
    exp2Frac i frac c' (if frac.testBit i then (acc * c') >>> exp2P else acc)

/-- EXP2: 2 to the value, correctly rounded. The working precision of 200 bits leaves the rounding of
every 24-bit argument decided (R100, R138). -/
def fExp2 (x : W32) : W32 :=
  match ofFp32 x with
  | .nan => 0x7FC00000
  | .inf true => 0
  | .inf false => 0x7F800000
  | .fin n m e =>
    if m = 0 then 0x3F800000
    else if (0 : Int) ≤ e + Nat.log2 m - 8 then (if n then 0 else 0x7F800000)
    else if 0 ≤ e then toFp32 (.fin false 1 (withSign n (m <<< e.toNat)))
    else
      let d := (-e).toNat
      let i := withSign n m / (2 ^ d : Nat)
      let frac := (withSign n m % (2 ^ d : Nat)).toNat
      if frac = 0 then toFp32 (.fin false 1 i)
      else toFp32 (sticky false (exp2Frac d frac (2 <<< exp2P) (1 <<< exp2P)) (i - exp2P) false)

/-! ## Conversions (R134-R136) -/

/-- The nine digits of an accumulator value (R135). -/
def fix72Digits (a : Int) : List Byte :=
  let step := fun (v : Int) (_ : Nat) =>
    let r := v % 256
    let r := if 128 ≤ r then r - 256 else r
    ((v - r) / 256, BitVec.ofInt 8 r)
  ((List.range 9).foldl (fun (x : Int × List Byte) i => let y := step x.1 i; (y.1, x.2 ++ [y.2])) (a, [])).2

/-- An integer clamped to n bits. -/
def clampInt (n : Nat) (i : Int) : Int := max (-(2 ^ (n - 1) : Nat)) (min i ((2 ^ (n - 1) : Nat) - 1))

/-- A value as the bits of an element of a VST or ADRAIN format other than FIX72 (R134). -/
def convert (fmt : Nat) (v : Num) : Nat :=
  let toInt := fun n =>
    match v with
    | .nan => (0 : Int)
    | .inf neg => clampInt n (withSign neg (2 ^ n))
    | v => clampInt n (quantise v 0)
  match fmt with
  | 6 => unsignedOf 8 (toInt 8)
  | 9 => unsignedOf 32 (toInt 32)
  | _ => (ffmt fmt).encode v

/-! ## Residues (R139, R140) -/

/-- The residue of an integer modulo 7, as its 3-bit code; 0b111 is never produced (R139). -/
def residue (x : Int) : Nat := (x % 7).toNat

/-- The significand integer of an encoding (R140): INT8 and MXINT8 the integer itself, a floating-point format its
hidden bit, 0 for a subnormal, and its mantissa bits with the sign. INT32, which VLD and VST carry too, is taken as
the integer. -/
def sigInt (fmt raw : Nat) : Int :=
  match fmt % 128 with
  | 6 => signed 8 raw
  | 9 => signed 32 raw
  | _ =>
    let f := ffmt fmt
    let m := raw % 2 ^ f.mb + (if (raw >>> f.mb) % 2 ^ f.eb = 0 then 0 else 2 ^ f.mb)
    withSign (raw.testBit (f.eb + f.mb)) m

/-- Whether an element encodes the value zero, whatever its block scale (R97). -/
def encodesZero (fmt raw : Nat) : Bool := (elemValue fmt raw).isZero

/-- Parity of the bits of a shift count (R142). -/
def parity (n : Nat) : Nat := (bitList 64 n).length % 2

/-- The integer whose residue an entry carries: the exact integer, or the significand of the FP32 value (R86, R140). -/
def AccEntry.significand (x : AccEntry) : Int := if x.fp then sigInt 8 x.bits.toNat else x.val

/-- An entry with its residue code (R86, R94). -/
def AccEntry.sealed (x : AccEntry) : AccEntry := { x with res := residue x.significand }

/-- The codes that a check compares when the integer that should be x is formed as x + delta; 0b111 is seen as such. -/
def codesOf (x delta : Int) (seven : Bool) : Nat × Nat := (residue x, if seven then 7 else residue (x + delta))

/-- The relation of the quantisation row of R141: p is shifted by t to the grid and rounded to q; `delta` is the error in
q as formed. Predicted and observed codes: for t of 0 or more, r(p) x 2^(t mod 3) and r(q); below, r(p), and
r(q) x 2^(-t mod 3) + r(d), d being the remainder that the rounding discarded. -/
def roundCodes (p t q delta : Int) (seven : Bool) : Nat × Nat :=
  if 0 ≤ t then (residue (residue p * (2 ^ (t.toNat % 3) : Nat)), if seven then 7 else residue (q + delta))
  else
    let n := (-t).toNat
    (residue p, if seven then 7 else
      residue (residue (q + delta) * (2 ^ (n % 3) : Nat) + residue (p - q * (2 ^ n : Nat))))

/-- The relation of a value x and its rounded form y (R141); a result that is clamped, or that is no number, is checked as it
stands. `align` is the count that aligned the addends of x. -/
def relOf (x y : Num) (align : Nat := 0) : CheckRel :=
  match x, y with
  | .fin n m e, .fin n' m' e' =>
    let q := withSign n' m'
    if withSign n (rneScale m (e - e')) = q then { p := withSign n m, t := e - e', q := q, align := align } else { p := q, q := q, align := align }
  | _, .fin n' m' _ => { p := withSign n' m', q := withSign n' m' }
  | _, _ => {}

/-- The count that aligns two addends (R142). -/
def alignOf (x y : Num) : Nat :=
  match x, y with
  | .fin _ _ e, .fin _ _ e' => (e - e').natAbs
  | _, _ => 0

/-- The relation of an FP32 sum of two values (R141, R142). -/
def relSum (x y : Num) (r : W32) : CheckRel := relOf (x.add y) (ofFp32 r) (alignOf x y)

/-- The codes of a sum or a product, or of its rounding (R141). -/
def CheckRel.codes (c : CheckRel) (rounding : Bool) (delta : Int) (seven : Bool) : Nat × Nat :=
  if rounding then roundCodes c.p c.t c.q delta seven else codesOf c.p delta seven

/-- The value of a bank entry under the anchor in force (R94, R95). -/
def AccEntry.value (x : AccEntry) (a : Int) : Num := if x.fp then ofFp32 x.bits else .ofInt x.val a

/-- A bank entry placed on the FIX72 grid 2^b, and whether that sets the run flag (R126, R134, R136). -/
def AccEntry.fix72 (x : AccEntry) (a b : Int) : Int × Bool :=
  match x.value a with
  | .nan => (0, true)
  | .inf n => (if n then -accS else accS, true)
  | v => clampS (quantise v b)

/-- A bank write (R94, R125): ACC 0 replaces; ACC 1 adds, the other kind counting as zero. -/
def bankAdd (acc : Bool) (old new : AccEntry) : AccEntry :=
  if acc then
    if new.fp then
      ({ fp := true, bits := fAdd (if old.fp then old.bits else 0) new.bits, val := 0, flag := false } : AccEntry).sealed
    else
      let o : AccEntry := if old.fp then {} else old
      let c := clampS (o.val + new.val)
      ({ fp := false, val := c.1, bits := 0, flag := o.flag || new.flag || c.2 } : AccEntry).sealed
  else new

/-- The rounded product of an FP32 pair (R120, R131). -/
def fpProduct (fa ra sa fb rb sb : Nat) : W32 :=
  let va := elemValue fa ra
  let vb := elemValue fb rb
  if va.isZero || vb.isZero then 0 else toFp32 ((scaled va sa).mul (scaled vb sb))

/-- The kind of a pair of formats (R87): none when the pair is not listed, else whether it sums in FP32. -/
def pairKind (fa fb : Nat) : Option Bool :=
  let a := fa % 128
  let b := fb % 128
  let narrow := fun x => decide (1 ≤ x) && decide (x ≤ 4)
  if narrow a && narrow b then some false
  else if a = 6 ∧ b = 6 then some false
  else if (a = 5 ∧ (b = 5 ∨ b = 4)) ∨ (a = 4 ∧ b = 5) then some true
  else if a = 7 ∧ b = 7 then some true
  else none

/-- Whether a pair is FP4 with FP4, at two products a step (R87, R124). -/
def isFp4Pair (fa fb : Nat) : Bool := decide (fa % 128 = 1) && decide (fb % 128 = 1)

end Sys2Proof.Machine
end

