-- ==== Sys2Proof/Machine/Operands.lean ====
section
/-! DEFINITION. Operand forms: the fields of an instruction word (R114), the address spaces an address
register names (R106), reading and writing an area of a scratchpad or of the field's slices with its
poison and locks, the element areas of VLD and VST, and tile headers (R55). -/

namespace Sys2Proof.Machine

/-! ## Instruction fields (R114) -/

def fOp (w : W64) : Nat := bits w.toNat 63 56
def fD (w : W64) : Nat := bits w.toNat 55 51
def fA (w : W64) : Nat := bits w.toNat 50 46
def fB (w : W64) : Nat := bits w.toNat 45 41
def fC (w : W64) : Nat := bits w.toNat 40 36
def fStrand (w : W64) : Nat := bits w.toNat 11 0
def fShape (w : W64) : Nat := bits w.toNat 19 12
def fShape2 (w : W64) : Nat := bits w.toNat 27 20

/-- The bits an instruction uses beside its opcode, by opcode (R114): the others are reserved. -/
def usedBits (op : Nat) : List (Nat × Nat) :=
  let d := (55, 51)
  let a := (50, 46)
  let b := (45, 41)
  let c := (40, 36)
  match op with
  | 0x02 => [d, (31, 0)]
  | 0x03 => [d, a, (23, 0)]
  | 0x04 => [d, a, b]
  | 0x05 => [d, a, b]
  | 0x06 => [d, (7, 0)]
  | 0x07 => [a, (35, 20), (13, 0)]
  | 0x08 => [a, (13, 0)]
  | 0x09 => [d, a, (20, 20), (19, 0)]
  | 0x10 => [d, (11, 0)]
  | 0x11 => [(11, 0)]
  | 0x12 => [a, (11, 0), (19, 12), (20, 20), (21, 21)]
  | 0x13 => [a, (11, 0), (19, 12)]
  | 0x14 => [a, b, (11, 0), (19, 12)]
  | 0x15 => [(11, 0)]
  | 0x18 => [(2, 0)]
  | 0x20 => [a, (19, 12)]
  | 0x22 => [a, b, (19, 12), (27, 20), (28, 28)]
  | 0x23 => [a, b, c, (19, 12), (27, 20), (28, 28), (29, 29)]
  | 0x24 => [(15, 0)]
  | 0x25 => [a, b, (19, 12)]
  | 0x30 => [d, a, b, c, (3, 0)]
  | 0x31 => [d, a, (7, 0)]
  | 0x32 => [d, a, (7, 0)]
  | 0x33 => [d, a]
  | 0x34 => [d, a, (1, 0)]
  | _ => []

/-- The opcodes of R114. -/
def opKnown (op : Nat) : Bool :=
  [0x00, 0x01, 0x02, 0x03, 0x04, 0x05, 0x06, 0x07, 0x08, 0x09, 0x10, 0x11, 0x12, 0x13, 0x14, 0x15, 0x18,
   0x20, 0x21, 0x22, 0x23, 0x24, 0x25, 0x30, 0x31, 0x32, 0x33, 0x34].contains op

/-- Whether every bit an instruction does not use is 0 (R114, R112). -/
def reservedZero (w : W64) : Bool :=
  let mask := (usedBits (fOp w)).foldl (fun m r => m ||| ((2 ^ (r.1 - r.2 + 1) - 1) <<< r.2)) (0xFF <<< 56)
  decide (w.toNat &&& mask = w.toNat)

/-! ## Areas (R106) -/

/-- A place in one of the two stores a core addresses: byte address within it. -/
structure Area where
  slices : Bool := false
  base   : Nat := 0
  deriving DecidableEq, Repr, Inhabited

/-- The area an address register value names: bit 31 selects the slices (R106). -/
def areaOf (v : Nat) : Area :=
  if v.testBit 31 then ⟨true, 8 * (v % 2 ^ 23)⟩ else ⟨false, 8 * (v % 98304)⟩

/-- Bytes of the store. -/
def Area.size (a : Area) : Nat := if a.slices then 67108864 else 786432

/-- An area some bytes further on, wrapping at the end of its store (R106). -/
def Area.plus (a : Area) (n : Nat) : Area := { a with base := (a.base + n) % a.size }

/-- The byte ranges of an access, in order: it wraps to the start of its store (R106). -/
def Area.parts (a : Area) (n : Nat) : List (Nat × Nat) :=
  let k := min n (a.size - a.base)
  if k = n then [(a.base, n)] else [(a.base, k), (0, n - k)]

/-- Whether two accesses share a byte. -/
def Area.meets (a : Area) (n : Nat) (b : Area) (m : Nat) : Bool :=
  (a.slices == b.slices) && (a.parts n).any (fun p => (b.parts m).any (fun q =>
    decide (p.1 < q.1 + q.2) && decide (q.1 < p.1 + p.2)))

/-- The slice of a slice byte address. -/
def sliceOf (a : Nat) : Nat := a / 0x400000
/-- The slice bank, slice x 8 + bank, of a slice byte address (R163). -/
def sliceBankOf (a : Nat) : Nat := a / 0x80000

/-- The request bit of a slice bank (R174, R185). -/
def FieldSt.retBit (k : FieldSt) (bank : Nat) : Bool := (tget k.retReq (bank / 16) 0).getLsbD (bank % 16)

/-- A late access wakes every ENTERING or RETAINED bank of the field and cancels its retention (R176). -/
def State.wakeField (s : State) (f : Nat) : State :=
  s.modField f (fun k => { k with
    ret := tmap k.ret (fun b r => if r = .entering ∨ r = .retained then (if k.retBit b then .pending else .awake) else r)
    wakeCount := sat k.wakeCount
    memStatus := setFlag k.memStatus 4
    cancelled := true
    rearmWait := none })

/-- Whether an access of n bytes reaches a bank that is ENTERING or RETAINED (R176). -/
def State.isLate (s : State) (f : Nat) (a n : Nat) : Bool :=
  (s.field f).ret.any (fun e => (e.2 == .entering || e.2 == .retained) &&
    decide (e.1 * 0x80000 < a + n) && decide (a < (e.1 + 1) * 0x80000))

/-- An access to slices: a late access first wakes the field (R176). -/
def State.touch (s : State) (f : Nat) (a n : Nat) : State := if s.isLate f a n then s.wakeField f else s

/-- The bytes of a range of slices; a fenced slice holds nothing (R183). -/
def State.sliceRead (s : State) (f a n : Nat) : List Byte := zread (s.field f).slice a n

/-- The poisoned words met by a read of slices, a fenced slice reading as poisoned (R179, R183). -/
def State.slicePoisoned (s : State) (f a n : Nat) : Bool :=
  let k := s.field f
  (k.slicePoison.any (fun w => decide (w * 8 < a + n) && decide (a < w * 8 + 8))) ||
  (k.fenced != 0 && (bitList 16 k.fenced.toNat).any (fun i => decide (i * 0x400000 < a + n) && decide (a < (i + 1) * 0x400000)))

/-- The words that a write of n bytes replaces whole: their poison clears (R179). -/
def wholeWord (a n w : Nat) : Bool := decide (a ≤ w * 8) && decide (w * 8 + 8 ≤ a + n)

/-- The 512-byte rows of a range of slices. -/
def sliceRows (a n : Nat) : List Nat := (List.range ((a % 512 + n + 511) / 512)).map (a / 512 + ·)

/-- Read requests at the slice ports: one for a row whose first request was at most 8 cycles ago, with no write of the
row since, is served by the access of that one and counts as a merge; the time of a request is that of its command
(R168, log 94). -/
def State.mergeReads (s : State) (f a n : Nat) : State :=
  s.modField f (fun k =>
    let live := k.openReads.filter (fun x => decide ((s.now - x.2) * clockMHz s.part.variant ≤ 8000))
    let rows := sliceRows a n
    let fresh := rows.filter (fun r => !live.any (fun x => x.1 == r))
    { k with openReads := live ++ fresh.map (·, s.now), merges := k.merges + BitVec.ofNat 64 (rows.length - fresh.length) })

/-- Writes a range within one slice; a write to a fenced slice is discarded (R183), and one to a row closes its merge
window (R168). -/
def State.sliceWrite1 (s : State) (f a : Nat) (bs : List Byte) : State :=
  if (s.field f).fenced.getLsbD (sliceOf a) then s
  else s.modField f (fun k => { k with
    slice := zwrite k.slice a bs
    slicePoison := k.slicePoison.filter (fun w => !wholeWord a bs.length w)
    openReads := k.openReads.filter (fun x => decide (x.1 < a / 512) || decide ((a + bs.length + 511) / 512 ≤ x.1)) })

/-- Writes a range of slices, each slice's part by itself. -/
def State.sliceWrite (s : State) (f a : Nat) (bs : List Byte) : State :=
  let s := s.touch f a bs.length
  let first := 0x400000 - a % 0x400000
  if bs.length ≤ first then s.sliceWrite1 f a bs
  else (s.sliceWrite1 f a (bs.take first)).sliceWrite1 f (a + first) (bs.drop first)

/-- The words that a tripped memory device's reads have poisoned, once some words `ws` have been poisoned anew, those in
`hot` by such a read (R388). -/
def hotAfter (old ws hot : List Nat) : List Nat := old.filter (fun w => !ws.contains w) ++ hot

/-- Marks words of slices as poisoned, those in `hot` by a read of a tripped memory device. -/
def State.slicePoisonAt (s : State) (f : Nat) (ws : List Nat) (hot : List Nat := []) : State :=
  s.modField f (fun k => { k with
    slicePoison := k.slicePoison ++ ws.filter (fun w => !k.slicePoison.contains w), sliceHot := hotAfter k.sliceHot ws hot })

/-- Marks words of a scratchpad as poisoned, those in `hot` by a read of a tripped memory device. -/
def CoreSt.spadPoisonAt (k : CoreSt) (ws : List Nat) (hot : List Nat := []) : CoreSt :=
  { k with spadPoison := k.spadPoison ++ ws.filter (fun w => !k.spadPoison.contains w), spadHot := hotAfter k.spadHot ws hot }

/-- Writes a range of a scratchpad. -/
def CoreSt.spadWrite (k : CoreSt) (a : Nat) (bs : List Byte) : CoreSt :=
  { k with spad := zwrite k.spad a bs, spadPoison := k.spadPoison.filter (fun w => !wholeWord a bs.length w) }

/-- Reads an area as seen by a core. -/
def State.areaRead (s : State) (c : Nat) (a : Area) (n : Nat) : List Byte :=
  (a.parts n).flatMap (fun p => if a.slices then s.sliceRead (coreField c) p.1 p.2 else zread (s.core c).spad p.1 p.2)

/-- Whether a read of an area meets a word that a tripped memory device gave as poison (R388). -/
def State.areaHot (s : State) (c : Nat) (a : Area) (n : Nat) : Bool :=
  let hit := fun (p : Nat × Nat) (poison hot : List Nat) =>
    hot.any (fun w => poison.contains w && decide (w * 8 < p.1 + p.2) && decide (p.1 < w * 8 + 8))
  (a.parts n).any (fun p =>
    if a.slices then hit p (s.field (coreField c)).slicePoison (s.field (coreField c)).sliceHot
    else hit p (s.core c).spadPoison (s.core c).spadHot)

/-- Whether a read of an area meets a poisoned word (R179). -/
def State.areaPoisoned (s : State) (c : Nat) (a : Area) (n : Nat) : Bool :=
  (a.parts n).any (fun p =>
    if a.slices then s.slicePoisoned (coreField c) p.1 p.2
    else (s.core c).spadPoison.any (fun w => decide (w * 8 < p.1 + p.2) && decide (p.1 < w * 8 + 8)))

/-- Counts an access to the scratchpad for the activity estimator, in words (R380). -/
def State.useSpad (s : State) (c : Nat) (a : Area) (n : Nat) : State :=
  if a.slices then s else s.modCore c (fun k => { k with act.spad := k.act.spad + (n + 7) / 8 })

/-- The access itself: a read of slices may be late (R176) and may merge with another (R168). -/
def State.areaTouch (s : State) (c : Nat) (a : Area) (n : Nat) : State :=
  if a.slices then (a.parts n).foldl (fun s p => (s.touch (coreField c) p.1 p.2).mergeReads (coreField c) p.1 p.2) s else s.useSpad c a n

/-- Writes an area as seen by a core. -/
def State.areaWrite (s : State) (c : Nat) (a : Area) (bs : List Byte) : State :=
  ((a.parts bs.length).foldl (fun (x : State × List Byte) p =>
    (if a.slices then x.1.sliceWrite (coreField c) p.1 (x.2.take p.2)
     else x.1.modCore c (fun k => k.spadWrite p.1 (x.2.take p.2)), x.2.drop p.2)) (s, bs)).1

/-- Locus of a consumed poisoned word: the logical core of a scratchpad, the field of a slice (R179). -/
def State.areaLocus (s : State) (c : Nat) (a : Area) : Nat :=
  if a.slices then 0x7300 + coreField c else 0x7000 + (s.logicalOf c).getD 0

/-- A shape of a core's program. -/
def CoreSt.shape (k : CoreSt) (i : Nat) : Shape := (((k.prog.map (fun (p : Program) => p.shapes)).getD [])[i]?).getD {}

/-- The source range of the weights in a plane, where a WLOAD gave them. -/
def CoreSt.loadRange (k : CoreSt) (p : Bool) : List (Nat × Nat) :=
  match if p then k.load1 else k.load0 with
  | some l => [(l.src, l.words)]
  | none => []

/-- What a walk along the array queue finds: the active plane, the source of the weights in each plane, and the ranges
locked so far. -/
structure QueueLocks where
  active : Bool := false
  src0 : List (Nat × Nat) := []
  src1 : List (Nat × Nat) := []
  held : List (Nat × Nat) := []

/-- One queued instruction: it locks what it will read, for an MMW the source of the weights it will use too (R105). -/
def CoreSt.queueLock (k : CoreSt) (x : QueueLocks) (op : ArrOp) : QueueLocks :=
  let words := fun (i : Nat) => (k.shape i).payload / 8
  let src := (op.a, words (fShape op.word))
  match fOp op.word with
  | 0x20 => if x.active then { x with src0 := [src], held := src :: x.held } else { x with src1 := [src], held := src :: x.held }
  | 0x21 => { x with active := !x.active }
  | 0x22 => { x with held := src :: (if x.active then x.src1 else x.src0) ++ x.held }
  | 0x23 => { x with held := src :: (op.b, words (fShape2 op.word)) :: x.held }
  | _ => x

/-- The ranges that the instructions in the array queue hold locked (R105). -/
def CoreSt.queuedLocks (k : CoreSt) : List (Nat × Nat) :=
  (k.arrQ.foldl k.queueLock { active := k.active, src0 := k.loadRange false, src1 := k.loadRange true }).held

/-- Whether an area meets a range that a pass in the array or a weight load of the core holds locked (R105). The rule does
not say whether a lock on a slice range holds off the other cores of the field; here a lock is the business of the core
whose pass or load holds it (DESIGN CHOICE, log 95). -/
def CoreSt.lockedNow (k : CoreSt) (a : Area) (n : Nat) : Bool :=
  let meets := fun (r : Nat × Nat) => a.meets n (areaOf r.1) (8 * r.2)
  k.passes.any (fun p => p.locks.any meets) ||
  (match k.load0 with | some l => l.lock && meets (l.src, l.words) | none => false) ||
  (match k.load1 with | some l => l.lock && meets (l.src, l.words) | none => false)

/-- The same, with the ranges of the passes and loads that wait in the array queue (R105). -/
def CoreSt.locked (k : CoreSt) (a : Area) (n : Nat) : Bool :=
  k.lockedNow a n || k.queuedLocks.any (fun r => a.meets n (areaOf r.1) (8 * r.2))

/-! ## Registers of a core -/

/-- Scalar register; g0 reads 0 (R103). -/
def CoreSt.gr (k : CoreSt) (r : Nat) : W32 := if r = 0 then 0 else tget k.g r 0
/-- Writes a scalar register; writes to g0 are ignored (R103). -/
def CoreSt.setG (k : CoreSt) (r : Nat) (v : W32) : CoreSt := if r = 0 then k else { k with g := tput k.g r v }
/-- One lane of a vector register. -/
def CoreSt.lane (k : CoreSt) (r i : Nat) : W32 := tget k.vregs (256 * r + i) 0
/-- The 256 lanes of a vector register. -/
def CoreSt.lanes (k : CoreSt) (r : Nat) : List W32 := (List.range 256).map (k.lane r)
/-- Writes a vector register. -/
def CoreSt.setV (k : CoreSt) (r : Nat) (v : List W32) : CoreSt :=
  { k with vregs := k.vregs.filter (fun e => decide (e.1 < 256 * r)) ++
      ((v.take 256).zipIdx (256 * r)).map (fun x => (x.2, x.1)) ++
      k.vregs.filter (fun e => decide (256 * r + 256 ≤ e.1)) }

/-! ## Vector areas (R101) -/

/-- Bytes of 256 elements of a format. -/
def vecBytes (fmt : Nat) : Nat := 32 * elemBits fmt

/-- The bytes of packed elements of w bits (R58). -/
def packElems (w : Nat) (es : List Nat) : List Byte :=
  le (es.length * w / 8) ((es.zipIdx).foldl (fun a e => a + (e.1 % 2 ^ w) <<< (e.2 * w)) 0)

/-! ## Tile headers (R55) -/

/-- FLAGS of a tile. -/
def tileFlags (t : Tile) : Nat :=
  (if t.last then 1 else 0) + (if t.empty then 2 else 0) + (if t.suspect then 4 else 0) + (if t.anchorSat then 8 else 0)

/-- The 32-byte header (R55). -/
def tileHeader (t : Tile) : List Byte :=
  layout 32 [(0, 2, t.strand), (2, 1, t.fmt.toNat), (3, 1, tileFlags t), (4, 4, t.seq.toNat), (8, 2, t.rows),
    (0xA, 2, t.cols), (0xC, 2, unsignedOf 16 t.anchor), (0xE, 2, t.srcStation), (0x10, 4, t.payload.length),
    (0x14, 2, t.slot.toNat), (0x16, 1, t.srcMember), (0x18, 4, t.work.toNat), (0x1C, 4, t.offset.toNat)]

/-- The tile that 32 header bytes and a payload spell. -/
def tileOfBytes (h payload : List Byte) : Tile :=
  { strand := fld h 0 2 % 4096, fmt := BitVec.ofNat 8 (fld h 2 1), last := (fld h 3 1).testBit 0
    empty := (fld h 3 1).testBit 1, suspect := (fld h 3 1).testBit 2, anchorSat := (fld h 3 1).testBit 3
    seq := BitVec.ofNat 32 (fld h 4 4), rows := fld h 8 2, cols := fld h 0xA 2, anchor := signed 16 (fld h 0xC 2)
    srcStation := fld h 0xE 2 % 1024, slot := BitVec.ofNat 16 (fld h 0x14 2), srcMember := fld h 0x16 1
    work := BitVec.ofNat 32 (fld h 0x18 4), offset := BitVec.ofNat 32 (fld h 0x1C 4), payload := payload }

/-- Bytes of a tile on a strand: header and payload. -/
def tileBytes (t : Tile) : Nat := 32 + t.payload.length

end Sys2Proof.Machine
end

