-- ==== Sys2Proof/Machine/Records.lean ====
section
/-! DEFINITION. Fault and Hallmark records with their queues, vendor responses, Heirloom events, the
replacement record, the floor-plan report and what it is made of. -/

namespace Sys2Proof.Machine

/-! ## Power regions as the report and the fabric see them -/

/-- Phases a region has lost. -/
def RegionSt.lost (r : RegionSt) : Nat := r.phasesOut.length

/-- Voltage sensors of a region that are valid (R363). -/
def RegionSt.sensors (r : RegionSt) : Nat := ((List.range 16).filter (fun i => r.sensorValid.getLsbD i)).length

/-- Whether a physical core is usable: it passed self-test, has at least 248 columns in service, has lost at most
2 phases (R452), and has 8 voltage sensors, fewer being as a third phase lost (R363). -/
def State.coreUsable (s : State) (c : Nat) : Bool :=
  (s.core c).usable && decide (248 ≤ (s.core c).width) && decide ((s.region c).lost ≤ 2) &&
  decide (8 ≤ (s.region c).sensors)

/-! ## The management port -/

/-- Whether the device master runs, so that the management port serves requests (R427). -/
def State.masterUp (s : State) : Bool := decide ((s.proc 0).state = .running)

/-- Whether the management port answers vendor messages: the master runs, and the device is neither in
RESET nor in RECOVERY, where the boot ROM answers PLDM and MCTP control only (R427, R440). -/
def State.portUp (s : State) : Bool :=
  s.masterUp && decide (s.gen.state ≠ .reset) && decide (s.gen.state ≠ .recovery)

/-- A message that the management port sends: on I3C an in-band interrupt announces it (R433). -/
def State.tell (s : State) (eth : Bool) (o : Output) : State := if eth then s.put o else (s.put .ibi).put o

/-- RESULT of a vendor response (R434). -/
def VResult.code : VResult → Byte
  | .ok => 0x00 | .unsupported => 0x01 | .badForm => 0x02 | .busy => 0x03 | .state => 0x04

/-- A vendor response: IANA with its most significant byte first, COMMAND, FLAGS with RESPONSE set, INSTANCE, RESULT and the
data of the command (R434). -/
def vendorBytes (cmd : Byte) (inst : W16) (r : VResult) (data : List Byte) : List Byte :=
  [0x00, 0x00, 0xD5, 0xA3, cmd, 0x01] ++ le 2 inst.toNat ++ [VResult.code r] ++ data

/-- A vendor response (R434). -/
def State.answer (s : State) (cmd : Byte) (h : VHdr) (r : VResult) (data : List Byte := []) : State :=
  s.tell h.eth (.vendor h.endpoint (vendorBytes cmd h.inst r data))

/-- The vendor commands of R434. -/
def vendorCommands : List Byte :=
  [0x01, 0x02, 0x03, 0x10, 0x11, 0x12, 0x13, 0x14, 0x20, 0x21, 0x30, 0x31, 0x40, 0x41, 0x42, 0x50]

/-- Whether what arrives is a vendor message: on SGMII in a datagram to port 5,177, and of MCTP message type 0x7F; any other
is none, and of a type that the device does not support it is dropped (R433). -/
def VHdr.isVendor (h : VHdr) : Bool := decide (h.msgType = 0x7F) && (!h.eth || decide (h.udpPort = 5177))

/-- What every vendor command does first: a port that is down answers nothing; a wrong IANA or an unknown COMMAND is answered
UNSUPPORTED, a non-zero reserved bit or a RESPONSE bit BAD_FORM, without effect (R427, R433, R434). -/
def vendor (cmd : Byte) (h : VHdr) (act : State → State) (s : State) : State :=
  if !s.portUp || !VHdr.isVendor h then s
  else if h.iana ≠ 0x0000D5A3 then s.answer cmd h .unsupported
  else
    match h.unknown.filter (fun c => !vendorCommands.contains c) with
    | some c => s.answer c h .unsupported
    | none => if h.flags ≠ 0 then s.answer cmd h .badForm else act s

/-- Sends the head of the fault-record queue, if it has not been sent (R435). -/
def State.sendRecord (s : State) : State :=
  match s.mgmt.records.queue with
  | r :: _ =>
    if s.mgmt.records.sent || !s.portUp then s
    else { s.tell s.mgmt.sinkEth (.record s.mgmt.sink r) with mgmt.records.sent := true }
  | [] => s

/-- The field in which what a processor reports happened: a field manager's own, else F0 (R341, R425). -/
def procField (p : Nat) : Nat := if 1 ≤ p ∧ p ≤ 12 then p - 1 else 0

/-- Queues a fault record, with the time of the field of its event: 1,024 at most, then it is discarded and counted
(R341, R435, R436). -/
def State.record (s : State) (kind procId locus : Nat) (data : List Byte) (field : Nat := procField procId) : State :=
  if 1024 ≤ s.mgmt.records.queue.length then
    { s with mgmt.lostCount := sat s.mgmt.lostCount, mgmt.status := setFlag s.mgmt.status 3 }
  else
    let bytes := withCrc (le 8 (s.stampIn field).toNat ++ le 4 s.mgmt.recordSeq.toNat ++ le 1 kind ++ le 1 procId ++ le 2 locus ++ padTo 44 data)
    ({ s with
      mgmt.recordSeq := s.mgmt.recordSeq + 1
      mgmt.records.queue := s.mgmt.records.queue ++ [({ hallmark := false, bytes := bytes } : Rec64)] } : State).sendRecord

/-- Queues a Hallmark record in its field: 256 at most, then it is discarded and counted (R146). -/
def State.queueHallmark (s : State) (f : Nat) (bytes : List Byte) : State :=
  s.modField f (fun k =>
    if 256 ≤ k.hmQueue.length then { k with hmLost := sat k.hmLost } else { k with hmQueue := k.hmQueue ++ [bytes] })

/-- The Hallmark record of an event with its outcome, 64 bytes (R145). -/
def HEvent.bytes (e : HEvent) (outcome : Nat) : List Byte :=
  withCrc (layout 60 [(0, 8, e.time.toNat), (8, 4, e.seq.toNat), (0xC, 1, e.unit.toNat), (0xD, 1, outcome), (0xE, 1, e.logical.toNat),
    (0xF, 1, e.phys.toNat), (0x10, 2, e.pcol.toNat), (0x12, 2, e.lcol.toNat), (0x14, 2, e.cellRow.toNat), (0x16, 1, e.expected.toNat),
    (0x17, 1, e.observed.toNat), (0x18, 8, e.cycle.toNat), (0x20, 4, e.passCycle.toNat), (0x24, 2, e.bankRow.toNat),
    (0x26, 2, e.heldRows.toNat), (0x28, 4, e.work.toNat), (0x2C, 2, e.job.toNat), (0x2E, 2, e.station.toNat), (0x30, 2, e.lane.toNat),
    (0x32, 2, e.instr.toNat)])

/-- Records the undecided events of a core's passes that a run's end overtakes (OUTCOME 0x06), and lets go of
what those passes hold: the held results are not written (R145, R149). -/
def State.overtake (s : State) (c : Nat) (dead : W32 → Bool) : State :=
  let gone := fun (p : Pass) => dead p.work && !p.events.isEmpty
  let k := s.core c
  if !k.passes.any gone then s
  else
    let s := ((k.passes.filter gone).flatMap (·.events)).foldl (fun s e => s.queueHallmark (coreField c) (e.bytes 6)) s
    let left := k.passes.map (fun p =>
      if gone p then { p with events := [], writes := p.writes.filter (fun w => !w.held), rerunWrites := [] } else p)
    s.modCore c (fun k => { k with passes := left, hstop := left.any (fun p => !p.events.isEmpty) })

/-! ## Heirloom (R151-R157) -/

/-- INDEX of a column: field, row, position and physical column (R151). -/
def colIndex (c col : Nat) : Nat := physByte c + 256 * col
/-- INDEX of a scratchpad bank (R151). -/
def bankIndex (c b : Nat) : Nat := physByte c + 256 * b
/-- INDEX of a slice (R151). -/
def sliceIndex (f sl : Nat) : Nat := f + 16 * sl
/-- INDEX of a Clasp receive lane (R151). -/
def laneIndex (l n : Nat) : Nat := l + 8 * n
/-- INDEX of a regulator phase (R151). -/
def phaseIndex (r p : Nat) : Nat := r + 256 * p
/-- The physical core that a PHYS code names. -/
def physCore (p : Nat) : Nat := (p % 16) * 10 + (p / 16 % 2) * 5 + p / 32 % 8

/-- The Heirloom record of a unit. -/
def State.heir? (s : State) (kind idx : Nat) : Option HRec :=
  s.heirloom.find? (fun r => r.kind == kind && r.index == idx)

/-- The WATCH record whose most recent event is oldest (R155); of several with the same MIN_1, between which the rule does not
choose, the first of the list (DESIGN CHOICE, log 127). -/
def oldestWatch (rs : List HRec) : Option HRec :=
  (rs.filter (fun r => r.state == .watch)).foldl (fun b r =>
    match b with
    | none => some r
    | some x => if r.min1.toNat < x.min1.toNat then some r else some x) none

/-- Replaces or adds the record of a unit and queues its flash write. When all 16,384 are taken a new
record takes the place of the oldest WATCH record; with none it is not kept (R155). -/
def State.setHeir (s : State) (r : HRec) : State :=
  let same := fun (x : HRec) => x.kind == r.kind && x.index == r.index
  let queued := s.hwQueue.filter (fun x => !same x) ++ [r]
  if s.heirloom.any same then
    { s with heirloom := s.heirloom.map (fun x => if same x then r else x), hwQueue := queued }
  else if s.heirloom.length < 16384 then { s with heirloom := s.heirloom ++ [r], hwQueue := queued }
  else
    match oldestWatch s.heirloom with
    | some o => { s with heirloom := s.heirloom.map (fun x => if x.kind == o.kind && x.index == o.index then r else x), hwQueue := queued }
    | none => s

/-- Makes a unit's record PERMANENT with a cause, creating it if need be (R153). -/
def State.makePermanent (s : State) (kind idx cause : Nat) : State :=
  let r : HRec := (s.heir? kind idx).getD { kind := kind, index := idx }
  if r.state = .watch then s.setHeir { r with state := .permanent, cause := BitVec.ofNat 8 cause } else s

/-- One Heirloom event of a unit, which its hardware counter counts: it is one event with the unit's event before it when
that lies less than 60 s of operating time back, so that a run of such events counts once; the third event within
1,000 operating hours makes the unit PERMANENT (R152, R153; the run: log 90). The rules do not say whether the 8-bit
hardware counter advances for an event that counts as one with the event before it: here it does, though the record's count
does not (DESIGN CHOICE, log 127). -/
def State.heirEvent (s : State) (kind idx : Nat) : State :=
  let s := { s with hwCounts := tmod s.hwCounts (2 ^ 32 * kind + idx) 0 sat }
  let r : HRec := (s.heir? kind idx).getD { kind := kind, index := idx }
  let near := match r.lastTime with
    | some t => decide (s.opTime < t + 60000000000)
    | none => false
  let r := { r with lastTime := some s.opTime }
  if near then s.setHeir r
  else
    let m := s.flash.minutes
    let r := { r with events := sat r.events, min3 := r.min2, min2 := r.min1, min1 := m }
    let third := decide (3 ≤ r.events.toNat) && decide (m.toNat ≤ r.min3.toNat + 60000)
    s.setHeir (if r.state = .watch ∧ third then { r with state := .permanent, cause := 1 } else r)

/-- Marks a unit's record RETIRED (R156). -/
def State.markRetired (s : State) (kind idx : Nat) : State :=
  match s.heir? kind idx with
  | some r => s.setHeir { r with state := .retired }
  | none => s

/-- The PERMANENT units of a kind that await retirement. -/
def State.pendingUnits (s : State) (kind : Nat) : List Nat :=
  (s.heirloom.filter (fun r => r.kind == kind && r.state == .permanent)).map (·.index)

/-- Whether a PERMANENT column or bank of a physical core awaits its boundary (R156). -/
def State.retirePending (s : State) (c : Nat) : Bool :=
  s.heirloom.any (fun r => (r.kind == 1 || r.kind == 2) && r.state == .permanent && physCore (r.index % 256) == c)

/-- The 32 bytes of a Heirloom record (R154); a record whose CRC failed keeps a failing one (R155). -/
def HRec.bytes (r : HRec) : List Byte :=
  withCrc (layout 28 [(0, 1, r.kind), (1, 1, match r.state with | .watch => 0 | .permanent => 1 | .retired => 2),
    (4, 4, r.index), (8, 4, r.events.toNat), (0xC, 4, r.min1.toNat), (0x10, 4, r.min2.toNat), (0x14, 4, r.min3.toNat),
    (0x18, 1, r.cause.toNat)])

/-! ## The floor-plan report (R461, R462) -/

def DevState.code : DevState → Nat
  | .reset => 0 | .booting => 1 | .training => 2 | .agreement => 3 | .ready => 4 | .stopped => 5 | .recovery => 6

def LinkState.code : LinkState → Nat
  | .off => 0 | .training => 1 | .up => 2 | .short => 3 | .down => 4 | .held => 5

/-- VARIANT of a part (R326). -/
def variantCode : Variant → Nat
  | .uz60 => 0x60 | .uz48 => 0x48 | .uz36 => 0x36

/-- The topology manifest of the present bring-up; none is the shipped one (R458). -/
def State.manifest (s : State) : Option Manifest := s.mgmt.manifest.orElse (fun _ => s.flash.manifest)

/-- A logical core entry of the report, 8 bytes. -/
def State.logicalEntry (s : State) (l : Nat) : List Byte :=
  match s.phys l with
  | none => le 1 l ++ le 1 0xFF ++ le 2 0 ++ le 1 1 ++ le 3 0
  | some c =>
    let k := s.core c
    let flags := (if k.outOfService then 2 else 0) + (if k.servedWidth.isSome && !k.outOfService then 4 else 0) +
      (if (s.region c).capped then 8 else 0) + (if s.retirePending c then 16 else 0)
    le 1 l ++ le 1 (physByte c) ++ le 2 (s.servedWidth l) ++ le 1 flags ++ le 3 0

/-- A physical core entry of the report, 72 bytes. -/
def State.physEntry (s : State) (c : Nat) : List Byte :=
  let k := s.core c
  let lg := s.logicalOf c
  let role := if lg.isSome then 0 else if s.coreUsable c then 1 else 2
  le 1 (physByte c) ++ le 1 role ++ le 1 (lg.getD 0xFF) ++ le 1 (s.region c).lost ++ le 2 k.width ++ le 2 k.vecEvents ++
    le 32 (2 ^ 256 - 1 - bitmap k.colOut) ++ ((List.range 32).flatMap (fun b => le 1 (tget k.bankRows b 0)))

/-- A field entry of the report, 144 bytes. -/
def State.fieldEntry (s : State) (f : Nat) : List Byte :=
  let k := s.field f
  le 1 f ++ le 1 0 ++ le 2 k.fenced.toNat ++ le 12 0 ++ (List.range 128).flatMap (fun b => le 1 (tget k.sliceRows b 0))

/-- A link entry of the report, 16 bytes. -/
def State.linkEntry (s : State) (l : Nat) : List Byte :=
  let k := s.link l
  le 1 l ++ le 1 k.state.code ++ le 1 (if k.outService then 5 else k.pairsOut.length) ++ le 1 k.lanes.length ++
    le 2 (0xFFFF - bitmap k.pairsOut) ++ le 2 0 ++ le 8 (match k.nbr with | some n => n.serial.toNat | none => 0)

/-- The report less its REPORT_CRC, which is taken as 0 (R462). -/
def State.reportBody (s : State) : List Byte :=
  let ws := ((List.range 96).filter (fun l => (s.phys l).isSome)).map s.servedWidth
  let minW := ws.foldl min 256
  layout 64 [(0, 1, 1), (1, 1, s.gen.state.code), (2, 2, 11296), (4, 4, s.gen.floorplanSeq.toNat), (8, 8, s.stamp.toNat),
    (0x10, 8, s.part.serial.toNat), (0x18, 1, variantCode s.part.variant),
    (0x19, 1, (if s.gen.replaceReq then 1 else 0) + (if s.gen.fast then 2 else 0)),
    (0x1A, 2, if ws.isEmpty then 0 else minW), (0x1C, 1, s.absent.length), (0x1D, 1, s.gen.agree.toNat),
    (0x20, 4, s.gen.hbmFail.toNat), (0x24, 2, s.gen.lpFail.toNat), (0x26, 2, s.gen.filFail.toNat),
    (0x28, 2, s.gen.louFail.toNat), (0x2A, 1, if s.gen.hubFail then 1 else 0),
    (0x2C, 4, match s.manifest with | some m => m.epoch.toNat | none => 0)] ++
  (List.range 96).flatMap s.logicalEntry ++ (List.range 120).flatMap s.physEntry ++
  (List.range 12).flatMap s.fieldEntry ++ (List.range 6).flatMap s.linkEntry

/-- Builds and publishes a new floor-plan report (R461). -/
def State.publish (s : State) : State :=
  let s := { s with gen.floorplanSeq := sat s.gen.floorplanSeq }
  let b := s.reportBody
  { s with gen.report := putBytes b 0x3C (le 4 (crc32c b).toNat) }

/-- REPLACE_REQ becomes set for a cause of R157: the cause goes to the replacement record the first time,
the event vector is raised and, once a first report exists, a report is published (R19, R461, R467). -/
def State.replaceFor (s : State) (cause : Nat) : State :=
  let known := s.flash.replacement.any (fun e => e.1 == cause) || s.replaceDue.any (fun e => e.1 == cause)
  let s := if known then s else { s with replaceDue := s.replaceDue ++ [(cause, s.flash.minutes)] }
  if s.gen.replaceReq then s
  else
    let s := ({ s with gen.replaceReq := true } : State).event 1
    if s.gen.floorplanSeq = 0 then s else s.publish

end Sys2Proof.Machine
end

