-- ==== Sys2Proof/Machine/Items.lean ====
section
/-! DEFINITION. Work items and what ends them: completions and completion rings (R292-R294), the landing of
a descriptor (R285-R287, R299), stations and strands of committed jobs, the discard of an item's tiles
(R76), the end of an item and of a Feast step (R210), ring halts (R279) and device states (R19, R326). -/

namespace Sys2Proof.Machine

/-! ## Status codes (R21) -/

def stDone : Byte := 0x00
def stSuspect : Byte := 0x01
def stLate : Byte := 0x10
def stState : Byte := 0x11
def stForm : Byte := 0x12
def stLicence : Byte := 0x13
def stAborted : Byte := 0x20
def stCoreLost : Byte := 0x30
def stLink : Byte := 0x31
def stMemory : Byte := 0x32
def stCoolant : Byte := 0x33
def stThermal : Byte := 0x34
def stReference : Byte := 0x35

/-! ## Stations and strands -/

/-- A station of a job, from the job's table. -/
def State.stn (s : State) (j id : Nat) : Option StationE :=
  ((s.job? j).bind (·.stations)).bind (fun t => t.find? (fun e => e.station == id))

/-- Member count of a station (R46). -/
def memberCount (e : StationE) : Nat := if e.kind = .core then e.cores.length else 1

/-- The logical core of a member. -/
def memberCore (e : StationE) (m : Nat) : Option Nat := e.cores[m]?

/-- The field a station lies in: its target, or its first member's field. -/
def stationField (e : StationE) : Nat :=
  match e.kind with
  | .core => lcoreField (e.cores.headD 0)
  | .host => 0
  | .kv => 0
  | _ => e.target

/-- The source station of a strand, when it lies on this module. -/
def State.srcStn (s : State) (k : StrandSt) : Option StationE :=
  if k.entry.place = .fromPeer then none else s.stn k.job k.entry.src
/-- The destination station of a strand, when it lies on this module. -/
def State.dstStn (s : State) (k : StrandSt) : Option StationE :=
  if k.entry.place = .toPeer then none else s.stn k.job k.entry.dst

/-- Members of a strand's source; on another module, the count that its BIND carried (log 92). -/
def State.srcCount (s : State) (k : StrandSt) : Nat := ((s.srcStn k).map memberCount).getD k.members
/-- Members of a strand's destination; on another module, the count that BOUND carried (log 92). -/
def State.dstCount (s : State) (k : StrandSt) : Nat := ((s.dstStn k).map memberCount).getD k.members

/-- The physical core that carries a member of a strand's destination. -/
def State.destCore (s : State) (k : StrandSt) (dm : Nat) : Nat :=
  (((s.dstStn k).bind (fun e => memberCore e dm)).bind s.phys).getD 0

/-- The link and channel on which a strand of this module sends or receives. -/
def State.ownChannel (s : State) (n : Nat) (out : Bool) : Option (Nat × Nat) :=
  s.cls.links.findSome? (fun e =>
    ((if out then e.2.outCh else e.2.inCh).find? (fun c => c.2.strand == n && c.2.other.isNone)).map (fun c => (e.1, c.1)))

/-- The link on which a strand of this module holds its own channel, outgoing or incoming. -/
def State.ownLinkOf (s : State) (n : Nat) (out : Bool) : Option Nat := (s.ownChannel n out).map (·.1)

/-- Whether a link carries DATA: UP or SHORT (R400). -/
def LinkSt.carries (k : LinkSt) : Bool := decide (k.state = .up) || decide (k.state = .short)

/-- Whether a link carries CONTROL: UP, SHORT or HELD (R400). -/
def LinkSt.serves (k : LinkSt) : Bool := k.carries || decide (k.state = .held)

/-- Queues a block on a link, to be sent when its turn comes (R396, R397). -/
def State.queueBlock (s : State) (l : Nat) (b : WaitBlock) : State :=
  s.modLink l (fun k => { k with waiting := k.waiting ++ [b] })

/-- Sends a message in a CONTROL or MANAGEMENT block on a link that is in service; the message is also put out as such,
since the spec gives its bytes no layout (R396, log 49). -/
def State.putOn (s : State) (l type : Nat) (o : Output) : State :=
  if (s.link l).serves then (s.put o).queueBlock l { type := type, payload := (Config.messageBytes o).take 64 } else s

/-- Sends bytes of Skexayx traffic in MANAGEMENT blocks on a link that is in service; the message is also put out as such
(R396). -/
def State.putManaged (s : State) (l : Nat) (o : Output) (bytes : List Byte) : State :=
  if (s.link l).serves then (cutInto 240 bytes).foldl (fun (s : State) p => s.queueBlock l { type := 4, payload := p }) (s.put o) else s

/-- Sends the acknowledgements and credits of a strand from another module to its origin (R413). -/
def State.ackPeer (s : State) (n : Nat) (landed credits : List Nat) : State :=
  match s.ownLinkOf n false with
  | some l => s.putOn l 3 (.claspAck l n landed credits)
  | none => s

/-- Kind of a station, or none when it lies on another module. -/
def State.dstKind (s : State) (k : StrandSt) : Option StationKind := (s.dstStn k).map (·.kind)
def State.srcKind (s : State) (k : StrandSt) : Option StationKind := (s.srcStn k).map (·.kind)

/-- Whether a kind is a memory station's (R68, R198). -/
def isMemKind (k : StationKind) : Bool := k == .hbm || k == .lpddr || k == .kv

/-- The destination members of a tile (R64). -/
def State.dests (s : State) (k : StrandSt) (seq : W32) : List Nat :=
  match k.entry.dstMode with
  | .member => [k.entry.dstMember]
  | .spread => [seq.toNat % s.dstCount k]
  | .broadcast => List.range (s.dstCount k)

/-- The credit group of a tile: its source member under GATHER, its destination member under SPREAD, else
0 (R61, R65). -/
def State.groupOf (s : State) (k : StrandSt) (srcMember : Nat) (seq : W32) : Nat :=
  if k.entry.srcMode = .gather then srcMember
  else if k.entry.dstMode = .spread then seq.toNat % s.dstCount k
  else 0

/-- The number of credit groups. -/
def State.groups (s : State) (k : StrandSt) : Nat :=
  if k.entry.srcMode = .gather then s.srcCount k else if k.entry.dstMode = .spread then s.dstCount k else 1

/-- Bytes of a receive slot (R61). -/
def slotBytes (e : StrandE) : Nat := e.maxKib * 1024 + 64

/-- Changes the credits of a group. -/
def StrandSt.addCredit (k : StrandSt) (g n : Nat) : StrandSt := { k with credits := tput k.credits g (tget k.credits g 0 + n) }
def StrandSt.takeCredit (k : StrandSt) (g : Nat) : StrandSt := { k with credits := tput k.credits g (tget k.credits g 0 - 1) }

/-- Passes over the SEQs that were received without a slot ahead of their turn (R76). -/
def skipDiscarded : Nat → Nat → StrandSt → StrandSt
  | 0, _, k => k
  | n + 1, m, k =>
    let e := tget k.expSeq m 0
    if k.discard.contains (m, e) then
      skipDiscarded n m { k with expSeq := tput k.expSeq m (e + 1), discard := k.discard.filter (· != (m, e)) }
    else k

/-- Counts a SEQ of a source member as received (R67, R76). -/
def StrandSt.receive (k : StrandSt) (m : Nat) (seq : W32) : StrandSt :=
  if seq = tget k.expSeq m 0 then
    skipDiscarded k.discard.length m { k with expSeq := tput k.expSeq m (seq + 1) }
  else { k with discard := k.discard ++ [(m, seq)] }

/-- The item with a tag, among those admitted and incomplete. -/
def State.item? (s : State) (tag : W32) : Option Item := s.alm.items.find? (fun i => i.tag == tag)

/-- Changes the item with a tag. -/
def State.modItem (s : State) (tag : W32) (f : Item → Item) : State :=
  { s with alm.items := s.alm.items.map (fun i => if i.tag = tag then f i else i) }

/-- The tags of the tiles a strand carries or holds, those sent to another module and not yet acknowledged among them. -/
def StrandSt.works (k : StrandSt) : List W32 :=
  (k.flight ++ k.hostQ ++ k.outbound).map (·.work) ++ (k.slots.filter (fun r => r.phase != 2)).map (·.tile.work) ++
  k.fetchQ.map (·.work) ++ k.unacked.map (fun u => u.2.2.1)

/-- Whether an item has a tile on a strand: one that the strand carries or holds, or one admitted for it that has not
left for it yet, a host tile of a TIMED item or a step tile (R77, R84, R414). -/
def State.tileOn (s : State) (i : Item) (n : Nat) (k : StrandSt) : Bool :=
  k.works.contains i.tag || i.tiles.any (fun t => t.strand == n) || s.fst.stepTiles.any (fun x => x.1 == n && x.2.work == i.tag)

/-- The mark of a halt under R245 or R258 that has ended an item in the present cycle (R259). -/
def State.haltNow (s : State) (i : Item) : Option HaltMark := i.halt.filter (fun h => h.cal == s.cal)

/-! ## Discards (R76) -/

/-- A Loupe unit drops the work item it has open: its lists and the result tiles not yet sent go (R231). -/
def LoupeSt.dropWork (l : LoupeSt) : LoupeSt :=
  { l with workTag := none, closed := false, lists := [], ordinals := [], lastSeen := [], suspect := false, anchorSat := false, outQ := [] }

/-- Whether the run that received a slot's tile, a run of another work item, is in progress. -/
def State.slotHeld (s : State) (k : StrandSt) (tag : W32) (r : SlotRec) : Bool :=
  decide (r.phase = 1) && (match r.holder with
    | some h => h != tag && (((s.core (s.destCore k r.member)).run.map (·.work)) == some h)
    | none => false)

/-- Takes the tiles of an ended item off a strand: those in flight are discarded, their SEQ received and their credit
returned; landed ones are freed once no run holds them; host tiles, outbound tiles and fetch requests of the item go.
What may still arrive over Clasp is discarded by its tag. -/
def State.discardOn (s : State) (job : Nat) (tag : W32) (k : StrandSt) : StrandSt :=
  let gone := k.flight.filter (fun t => t.work == tag)
  let out := k.outbound.filter (fun t => t.work == tag)
  let free := fun (r : SlotRec) =>
    if r.tile.work == tag || (r.gone && r.holder == some tag) then
      (if s.slotHeld k tag r then { r with gone := true } else { r with phase := 2 })
    else r
  let k := { k with
    flight := k.flight.filter (fun t => t.work != tag)
    slots := k.slots.map free
    outbound := k.outbound.filter (fun t => t.work != tag)
    hostQ := k.hostQ.filter (fun t => t.work != tag)
    fetchQ := k.fetchQ.filter (fun r => r.work != tag)
    ended := if k.entry.place = .fromPeer ∧ k.job = job ∧ ¬ tag ∈ k.ended then k.ended ++ [tag] else k.ended }
  let k := gone.foldl (fun k t =>
    let k := k.receive t.srcMember t.seq
    if k.entry.place = .fromPeer then k else k.addCredit (s.groupOf k t.srcMember t.seq) 1) k
  out.foldl (fun k t => if k.entry.place = .fromPeer then k else k.addCredit (s.groupOf k t.srcMember t.seq) 1) k

/-- The acknowledgements and credits that the discard of an ended item's tiles returns over Clasp (R76, R413). -/
def State.discardAcks (s : State) (tag : W32) (n : Nat) (k : StrandSt) : List (Nat × Output) :=
  if k.entry.place = .fromPeer then
    match s.ownLinkOf n false with
    | some l =>
      (k.flight.filter (fun t => t.work == tag)).map (fun t => (l, .claspAck l n [t.srcMember] [s.groupOf k t.srcMember t.seq])) ++
      (k.outbound.filter (fun t => t.work == tag)).map (fun t => (l, .claspAck l n [] [s.groupOf k t.srcMember t.seq]))
    | none => []
  else []

/-- Discards the tiles of an ended item everywhere (R76): queued in DMA engines, on strands, Feast's step
tiles, and the lists and result tiles of Loupe units (R231). -/
def State.discardWork (s : State) (tag : W32) : State :=
  let job := ((s.item? tag).map (·.job)).getD 0
  let acks := s.strands.flatMap (fun e => s.discardAcks tag e.1 e.2)
  acks.foldr (fun x (s : State) => s.putOn x.1 3 x.2) { s with
    cores := tmap s.cores (fun _ c => { c with dmaQ := c.dmaQ.filter (fun d => d.work != tag) })
    strands := tmap s.strands (fun _ k => s.discardOn job tag k)
    fst.stepTiles := s.fst.stepTiles.filter (fun t => t.2.work != tag)
    lou := tmap s.lou (fun _ l =>
      let l := { l with ahead := l.ahead.filter (fun t => t.work != tag) }
      if l.workTag = some tag then l.dropWork else l) }

/-! ## Runs -/

/-- Ends the run in progress on a core at once: nothing more of it issues, what it has queued goes; passes already in the
array run to completion (R144, R245). -/
def CoreSt.halt (k : CoreSt) : CoreSt :=
  match k.run with
  | some r => { k with run := none, loops := [], dmaQ := k.dmaQ.filter (fun d => d.work != r.work), arrQ := k.arrQ.filter (fun d => d.work != r.work)
                       drain := k.drain.filter (fun d => d.op.work != r.work) }
  | none => k

/-- Halts every run of an item, and overtakes the Hallmark decisions they await (R149). -/
def State.haltRuns (s : State) (tag : W32) : State :=
  let s := { s with cores := tmap s.cores (fun _ k =>
      match k.run with
      | some r => if r.work = tag then k.halt else k
      | none => k) }
  s.cores.foldl (fun s e => s.overtake e.1 (fun w => w == tag)) s

/-- Whether every run of an item's window at a station has ended (R247). -/
def State.winDone (s : State) (i : Item) (w : Win) : Bool :=
  let n := ((s.stn i.job w.station).map memberCount).getD 0
  i.status.isSome || (List.range n).all (fun m => i.runsDone.contains (w.station, m))

/-- Draws the tail of a station back to the current slot when it has no unfinished window left (R247). -/
def State.drawTail (s : State) (st : Nat) : State :=
  let busy := s.alm.items.any (fun i => i.wins.any (fun w => w.station == st && !s.winDone i w))
  if busy then s
  else
    let t := tget s.alm.tails st 0
    if s.now / 1000 < t then { s with alm.tails := tput s.alm.tails st (s.now / 1000) } else s

/-- Whether an item's last window has ended: every run, its host tiles entered, its step tile and every
result tile emitted (R295). -/
def State.itemEnded (s : State) (i : Item) : Bool :=
  i.wins.all (s.winDone i) && i.tiles.isEmpty && i.stepTileOut &&
  s.strands.all (fun e => e.2.hostQ.all (fun t => t.work != i.tag)) &&
  s.lou.all (fun e => e.2.outQ.all (fun t => t.work != i.tag))

/-- Whether tiles that an item sends to host memory are still to be written (R234). -/
def State.tilesDue (s : State) (i : Item) : Bool :=
  s.strands.any (fun e => s.dstKind e.2 == some .host &&
    (e.2.outbound.any (fun t => t.work == i.tag) || e.2.flight.any (fun t => t.work == i.tag)))

/-- Whether a status is one of the causes of R257. -/
def isFault (status : Byte) : Bool := decide (0x30 ≤ status.toNat) && decide (status.toNat ≤ 0x35)

/-- Whether a status and DETAIL are those of a halt under R245 or R258. -/
def isHalt (status : Byte) (detail : Nat) : Bool := status == stAborted && (detail == 0x1003 || detail == 0x1004)

/-- What a halt ends an item on (R259). -/
def State.haltMark (s : State) (i : Item) : HaltMark :=
  { cal := s.cal
    cores := (s.cores.filter (fun e => (e.2.run.map (·.work)) == some i.tag)).map (·.1)
    loupes := (s.lou.filter (fun e => e.2.workTag == some i.tag)).map (·.1)
    strands := (s.strands.filter (fun e => s.tileOn i e.1 e.2)).map (·.1) }

/-- Ends an incomplete item with a status unless an earlier cause has: its runs halt, its tiles are
discarded, the tails of its stations drawn back. A cause of R257 in the same cycle as a halt under R245 or R258 takes the
place of its ABORTED (R76, R247, R259). -/
def State.endItem (s : State) (tag : W32) (status : Byte) (detail : Nat) : State :=
  match s.item? tag with
  | some i =>
    if i.status.isSome then
      if (s.haltNow i).isSome ∧ isFault status = true then
        s.modItem tag (fun i => { i with status := some (status, BitVec.ofNat 16 detail), halt := none })
      else s
    else
      let mark := if isHalt status detail then some (s.haltMark i) else none
      let s := s.modItem tag (fun i => { i with
        status := some (status, BitVec.ofNat 16 detail), tiles := [], stepTileOut := true, halt := mark })
      let s := (s.haltRuns tag).discardWork tag
      i.wins.foldl (fun s w => s.drawTail w.station) s
  | none => s

/-- The status of an item that consumes a poisoned word of an area: FAULT_THERMAL where a tripped memory device gave the
poison, else FAULT_MEMORY (R179, R388). -/
def State.poisonStatus (s : State) (c : Nat) (a : Area) (n : Nat) : Byte := if s.areaHot c a n then stThermal else stMemory

/-- A poisoned word of an area is consumed: the work item ends (R179, R388). -/
def State.poisonStop (s : State) (c : Nat) (a : Area) (n : Nat) (work : W32) : State :=
  s.endItem work (s.poisonStatus c a n) (s.areaLocus c a)

/-- Ends an item that is still in flight: one whose last window has ended keeps the status its runs
produced (R76, R300). -/
def State.killItem (s : State) (tag : W32) (status : Byte) (detail : Nat) : State :=
  match s.item? tag with
  | some i => if s.itemEnded i then s else s.endItem tag status detail
  | none => s

/-- Ends every item that satisfies a condition. -/
def State.endItems (s : State) (p : Item → Bool) (status : Byte) (detail : Nat) : State :=
  (s.alm.items.filter p).foldl (fun s i => s.endItem i.tag status detail) s

/-- Whether an item has a run in progress on a core, or had one that a halt ended in this cycle (R259). -/
def State.runsOn (s : State) (i : Item) (c : Nat) : Bool :=
  (match (s.core c).run with
  | some r => r.work == i.tag
  | none => false) || (match s.haltNow i with | some h => h.cores.contains c | none => false)

/-! ## Completions -/

/-- log2 of the CQ's entries. -/
def RingSt.cqLog (k : RingSt) : Nat := bits k.sizes.toNat 7 4
/-- log2 of the SQ's entries. -/
def RingSt.sqLog (k : RingSt) : Nat := bits k.sizes.toNat 3 0
/-- log2 of the tile area's slots. -/
def RingSt.tileLog (k : RingSt) : Nat := bits k.sizes.toNat 11 8
/-- Free CQ entries (R283). -/
def RingSt.cqFree (k : RingSt) : Nat := 2 ^ k.cqLog - (k.cqTail - k.cqHead).toNat
/-- The interrupt vector of a ring. -/
def RingSt.vector (k : RingSt) : Nat := k.irqReg.toNat % 2048

/-- Removes an item once its completion is settled, and does what its end brings about elsewhere. -/
def State.dropItem (s : State) (tag : W32) : State :=
  { s with alm.items := s.alm.items.filter (fun i => i.tag != tag) }

/-- Whether a ring writes no completion: HALTED, or STOPPING since it was HALTED, or OFF (R278, R279). -/
def RingSt.silent (k : RingSt) : Bool :=
  decide (k.state = .halted) || decide (k.state = .off) || (decide (k.state = .stopping) && k.disabled)

/-- A ring leaves STOPPING, or HALTED once DISABLE has been received, when nothing of it is outstanding (R278, R279). -/
def State.settleRing (s : State) (n : Nat) : State :=
  let k := s.ring n
  if (k.state = .stopping ∨ (k.state = .halted ∧ k.disReq = true)) ∧ k.outstanding = 0 ∧ k.held = [] ∧
      (s.alm.items.all (fun i => i.ring != n)) = true then
    s.setRing n { k with state := .off, disabled := false, disReq := false }
  else s

/-- Bytes written to host memory over CXL.cache: the whole 64-byte lines, which start at an aligned address, with
ItoMWr and what is left of a last line with WOWrInv (R268; the part of a line: log 97). -/
def State.hostPut (s : State) (a : Nat) (bs : List Byte) : State :=
  let whole := bs.length / 64 * 64
  let s := if whole = 0 then s else s.put (.hostWrite .itoMWr a (bs.take whole))
  if bs.length = whole then s else s.put (.hostWrite .woWrInv (a + whole) (bs.drop whole))

/-- The 32 bytes of a completion written at CQ tail t with a PHASE (R292, R293). -/
def Rec32.bytes (r : Rec32) (phase : Nat) : List Byte :=
  layout 32 [(0, 4, r.tag.toNat), (4, 2, r.sqIndex.toNat), (6, 1, r.status.toNat),
    (7, 1, phase + 2 * r.kind + (if r.sat then 8 else 0)), (8, 8, r.time.toNat), (0x10, 2, r.detail.toNat),
    (0x12, 2, r.count.toNat), (0x14, 2, r.tileTail.toNat), (0x16, 2, r.tileCount.toNat), (0x18, 8, r.value.toNat)]

/-- Whether a status is one of refusal, whose TIME is that of the verdict (R292). -/
def refused (st : Byte) : Bool := decide (0x10 ≤ st.toNat) && decide (st.toNat ≤ 0x13)

/-- A SEQ_OPEN completes now: its slot's DUE, which the completion's VALUE states, is that time plus TOKEN_PERIOD, unless
the slot has gone on since (R209, R292). -/
def State.openDue (s : State) (r : Rec32) : State :=
  match r.opens with
  | some (n, p) => if (s.slot n).due = r.value then s.modSlot n (fun k => { k with due := s.stamp + BitVec.ofNat 64 p }) else s
  | none => s

/-- What a completion says of the time at which it is written: TIME, and the DUE that counts from it (R209, R292). -/
def Rec32.stamped (r : Rec32) (now : W64) : Rec32 :=
  if refused r.status then r
  else { r with time := now, value := match r.opens with | some (_, p) => now + BitVec.ofNat 64 p | none => r.value }

/-- Writes a completion to the next CQ entry of its ring and requests its interrupt (R293, R297). -/
def State.writeCpl (s : State) (n : Nat) (r : Rec32) : State :=
  let k := s.ring n
  let t := k.cqTail.toNat
  let s := s.openDue r
  let r := r.stamped s.stamp
  let addr := k.cqBase.toNat + 32 * (t % 2 ^ k.cqLog)
  let s := s.put (.hostWrite .woWrInv addr (r.bytes (1 - t / 2 ^ k.cqLog % 2)))
  let s := s.setRing n { k with cqTail := k.cqTail + 1, outstanding := k.outstanding - (if r.kind = 1 then 0 else 1) }
  if r.irq then s.interrupt k.vector else s

/-- Counts a fetched descriptor of a ring as completed without a completion being written (R279). -/
def State.loseCpl (s : State) (n : Nat) (r : Rec32) : State :=
  s.modRing n (fun k => { k with outstanding := k.outstanding - (if r.kind = 1 then 0 else 1) })

/-- The first part of a ring's halt: the cause (the bit of RNG_STATUS) is set, and a ring that is ON or STOPPING
enters HALTED, its fetched descriptors and held completions going; what R279 ends for it is left to
State.haltEnds. -/
def State.markHalt (s : State) (n : Nat) (cause : Nat) : State :=
  let k := s.ring n
  let s := s.setRing n { k with flags := k.flags ||| BitVec.ofNat 6 (2 ^ cause) }
  if k.state = .on ∨ k.state = .stopping then
    let lost := k.held.filter (fun r => r.kind != 1 && !r.item)
    let s := s.modRing n (fun r => { r with state := .halted, disReq := decide (k.state = .stopping), fetched := [], held := r.held.filter (·.item),
                                            outstanding := r.outstanding - k.fetched.length - lost.length })
    let s := ({ s with cxl.haltCount := sat s.cxl.haltCount } : State).event 3
    { s with rng.haltDue := s.rng.haltDue ++ [n] }
  else s

/-- The completion of a descriptor other than an admitted item: written, held behind those already held
or for want of a CQ entry, or discarded on a ring that is HALTED or OFF; a write that fails puts the ring in HALTED with
CPL_ERR (R269, R279, R293, R294). -/
def State.complete (s : State) (n : Nat) (r : Rec32) : State :=
  let k := s.ring n
  if k.silent then (s.loseCpl n r).settleRing n
  else if k.held.isEmpty && decide (0 < k.cqFree) then
    if r.bad then (s.loseCpl n r).markHalt n 3 else (s.writeCpl n r).settleRing n
  else s.setRing n { k with held := k.held ++ [r] }

/-- Completes a pending descriptor with a status, DETAIL, COUNT and VALUE; `opens`: the slot that a SEQ_OPEN has opened and
its TOKEN_PERIOD (R209, R292). -/
def State.finish (s : State) (p : PendDesc) (status : Byte) (detail : Nat) (count : Nat := 0) (value : Nat := 0)
    (opens : Option (Nat × Nat) := none) : State :=
  s.complete p.ring {
    tag := p.tag, sqIndex := p.index, status := status, time := s.stamp, detail := BitVec.ofNat 16 detail,
    count := BitVec.ofNat 16 count, tileTail := (s.ring p.ring).tileTail, value := BitVec.ofNat 64 value, irq := p.irq, bad := p.cplBad, opens := opens }

/-! ## Feast slots (R210) -/

/-- Whether a slot's page range holds a POISONED entry. -/
def State.rangePoisoned (s : State) (k : SlotSt) : Bool :=
  s.lkt.entries.any (fun e => decide (k.base ≤ e.1) && decide (e.1 < k.base + k.pages) && e.2.state == .poisoned)

/-- Makes a slot FREE: its entries lose OWNED and SLOT; a SEQ_PAUSE that waits is refused, a SEQ_CLOSE
that waits completes DONE (R210). -/
def State.freeSlot (s : State) (n : Nat) : State :=
  let k := s.slot n
  let s := { s with
    lkt.entries := tmap s.lkt.entries (fun _ e => if e.owned && e.slot == n then { e with owned := false, slot := 0 } else e)
    fst.slots := tdel s.fst.slots n }
  let s := match k.pauseBy with | some p => s.finish p stState 0x800A | none => s
  match k.closeBy with | some p => s.finish p stDone 0 | none => s

/-- What the end of a step does to one member slot (R210): `ok` for DONE and DONE_SUSPECT. -/
def State.slotStep (s : State) (ok : Bool) (n : Nat) : State :=
  let k := s.slot n
  let unbound := match tget? s.fst.streams k.stream with | some st => st.unbinding.isSome | none => true
  match k.state with
  | .closing => s.freeSlot n
  | .running =>
    let k := if ok then { k with tokens := k.tokens + 1, due := s.stamp + k.period.setWidth 64 } else k
    if unbound then (s.setSlot n k).freeSlot n
    else
      let next : SlotState :=
        if ok then (if k.tokens = k.maxTokens ∨ k.pauseBy.isSome then .paused else .ready)
        else if s.rangePoisoned k then .faulted
        else if k.pauseBy.isSome then .paused else .ready
      let s := s.setSlot n { k with state := next, pauseBy := none }
      let s := if next = .faulted then { s with fst.status := setFlag s.fst.status 1 } else s
      match k.pauseBy with
      | some p => if next = .paused then s.finish p stDone 0 else s.finish p stState 0x800A
      | none => s
  | _ => s

/-- Steps in flight of a stream. -/
def State.inFlight (s : State) (st : Nat) : Nat := (s.alm.items.filter (fun i => i.step == some st)).length

/-- Completes the unbinding of a stream once it has no step in flight: its slots become FREE (R208). -/
def State.settleStream (s : State) (st : Nat) : State :=
  match tget? s.fst.streams st with
  | some k =>
    match k.unbinding with
    | some by_ =>
      if 0 < s.inFlight st then s
      else
        let s := (s.fst.slots.filter (fun e => e.2.stream == st && e.2.state != .free)).foldl (fun s e => s.freeSlot e.1) s
        let s := { s with fst.streams := tdel s.fst.streams st }
        match by_ with
        | some p => s.finish p stDone 0
        | none => s
    | none => s
  | none => s

/-- Begins to unbind a stream: its slots that are in no step become FREE, the others at their step's end
(R208, R210). -/
def State.unbind (s : State) (st : Nat) (by_ : Option PendDesc) : State :=
  match tget? s.fst.streams st with
  | some k =>
    let s := { s with fst.streams := tput s.fst.streams st { k with unbinding := some by_ } }
    let s := (s.fst.slots.filter (fun e => e.2.stream == st && (e.2.state == .ready || e.2.state == .paused || e.2.state == .faulted))).foldl
      (fun s e => s.freeSlot e.1) s
    s.settleStream st
  | none => s

/-- The end of an admitted step: its members move under R210, ages under R200, counts under R217. -/
def State.stepEnd (s : State) (i : Item) (status : Byte) : State :=
  match i.step with
  | some st =>
    let ok := status == stDone || status == stSuspect
    let s := { s with lkt.entries := tmap s.lkt.entries (fun _ e =>
      if e.state = LktState.free then e
      else if e.owned && i.slotsIn.contains e.slot then { e with age := 0 } else { e with age := min 65535 (e.age + 1) }) }
    let s := i.slotsIn.foldl (fun s n => s.slotStep ok n) s
    let s := { s with fst.stepCount := s.fst.stepCount + 1 }
    let s := if ok then s else { s with fst.stepFaults := sat s.fst.stepFaults, fst.status := setFlag s.fst.status 0 }
    s.settleStream st
  | none => s

/-- Settles an item whose completion has been written or discarded. -/
def State.settleItem (s : State) (tag : W32) (status : Byte) : State :=
  match s.item? tag with
  | some i =>
    let s := s.dropItem tag
    let s := if status = stSuspect then { s with gen.suspects := sat s.gen.suspects } else s
    (s.stepEnd i status).settleRing i.ring
  | none => s

/-! ## Rings that halt (R279) -/

/-- Settles an item whose completion goes unwritten on a ring: its descriptor counts as completed (R279). -/
def State.loseItem (s : State) (n : Nat) (tag : W32) : State :=
  match s.item? tag with
  | some i => (s.loseCpl n { kind := if i.step.isSome then 1 else 0 }).settleItem tag ((i.status.map (·.1)).getD stAborted)
  | none => s

/-- What the halt of a ring ends (R279): its incomplete items, those whose completions were held among them, the items
with tiles bound for its tile area, and the streams bound through it. -/
def State.haltEnds (s : State) (n : Nat) : State :=
  let held := ((s.ring n).held.filter (·.item)).map (·.tag)
  let s := s.modRing n (fun r => { r with held := [] })
  let s := s.endItems (fun i => i.ring == n) stAborted 0x1005
  let s := held.foldl (fun s t => s.loseItem n t) s
  let toRing := s.strands.filter (fun e =>
    match s.dstStn e.2 with | some d => d.kind == .host && d.target == n | none => false)
  let works := toRing.flatMap (fun e => (e.2.outbound ++ e.2.flight ++ e.2.hostQ).map (·.work))
  let s := works.foldl (fun s w => s.endItem w stAborted 0x1005) s
  let s := (s.fst.streams.filter (fun e => e.2.ring == n && e.2.unbinding.isNone)).foldl (fun s e => s.unbind e.1 none) s
  s.settleRing n

/-- Ends what the rings that have just halted still have to end; a ring halts once at most before its next ENABLE, so
the number of rings bounds the rounds. -/
def State.runHalts : Nat → State → State
  | 0, s => s
  | k + 1, s =>
    match s.rng.haltDue with
    | [] => s
    | n :: rest => State.runHalts k (({ s with rng.haltDue := rest } : State).haltEnds n)

/-- Ends what the halts of this command have to end. -/
def State.finishHalts (s : State) : State := s.runHalts (s.rng.rings.length + 1)

/-- A ring that is ON or STOPPING enters HALTED for a cause (the bit of RNG_STATUS). -/
def State.ringHalt (s : State) (n : Nat) (cause : Nat) : State := (s.markHalt n cause).finishHalts

/-! ## The landing of a descriptor (R285-R287, R299) -/

/-- Opcodes that R287 lists. -/
def opcodes : List Nat :=
  [0x01, 0x02, 0x03, 0x10, 0x11, 0x12, 0x13, 0x14, 0x15, 0x20, 0x21, 0x22, 0x23, 0x24, 0x25,
   0x30, 0x31, 0x32, 0x33, 0x34, 0x35, 0x36, 0x37]

/-- Opcodes whose descriptors name a job (R286). -/
def jobOpcodes : List Nat := [0x02, 0x10, 0x11, 0x12, 0x13, 0x14, 0x15, 0x30]

/-- Opcodes that STOPPED refuses (R299). -/
def readyOpcodes : List Nat := [0x02, 0x10, 0x11, 0x12, 0x13, 0x20, 0x22, 0x24, 0x30, 0x33, 0x35, 0x37]

def descF (d : Desc) (off n : Nat) : Nat := fld d.bytes off n
def descOp (d : Desc) : Nat := descF d 0 1
def descJob (d : Desc) : Nat := descF d 2 2
def descTag (d : Desc) : W32 := BitVec.ofNat 32 (descF d 4 4)
/-- What its completion will need. -/
def descPend (d : Desc) : PendDesc :=
  { ring := d.ring, index := d.index, tag := descTag d, irq := (descF d 1 1).testBit 0, cplBad := d.cplBad }

/-- The reserved bytes of an opcode's operands: each unused byte is a field of its own (R286, R287). -/
def reservedBytes (op : Nat) : List Nat :=
  let from_ := fun n => (List.range (64 - n)).map (· + n)
  match op with
  | 0x02 => [0x1D, 0x1E, 0x1F] ++ from_ 0x28
  | 0x03 => from_ 0x0C
  | 0x11 => from_ 0x14
  | 0x12 => from_ 0x14
  | 0x20 => [0x0A, 0x0B] ++ from_ 0x14
  | 0x21 => [0x0A, 0x0B] ++ from_ 0x14
  | 0x22 => from_ 0x18
  | 0x23 => from_ 0x10
  | 0x24 => from_ 0x11
  | 0x25 => from_ 0x18
  | 0x30 => from_ 0x14
  | 0x31 => from_ 0x09
  | 0x32 => from_ 0x18
  | 0x33 => [0x0B] ++ from_ 0x20
  | 0x34 => from_ 0x0A
  | 0x35 => from_ 0x0A
  | 0x36 => from_ 0x0A
  | 0x37 => from_ 0x0A
  | _ => from_ 0x08

/-- The faults of a descriptor's own 64 bytes that every opcode shares: reserved FLAGS bits, JOB, and
reserved bytes, each with its offset (R15, R286). -/
def headerFaults (d : Desc) : List (Nat × Bool) :=
  [(0x01, decide (4 ≤ descF d 1 1)),
   (0x02, if jobOpcodes.contains (descOp d) then descJob d == 0 else descJob d != 0)] ++
  (reservedBytes (descOp d)).map (fun o => (o, descF d o 1 != 0))

/-- The offset of the first faulty field (R296, class 0x2). -/
def firstFault (fs : List (Nat × Bool)) : Option Nat :=
  ((fs.filter (·.2)).map (·.1)).foldl (fun b o => match b with | none => some o | some x => some (min x o)) none

/-- What landing finds: nothing to do yet, or a descriptor of the expected opcode, taken off its ring. -/
inductive Landing where
  | wait
  | refuse (d : Desc)
  | go (d : Desc)
  deriving DecidableEq, Repr, Inhabited

/-- The ring's oldest fetched descriptor, if it may land now: with FENCE every earlier descriptor of the
ring must have completed; an opcode that R287 does not list is refused (R285, R287). -/
def State.landing (s : State) (n op : Nat) : Landing :=
  match (s.ring n).fetched with
  | [] => .wait
  | d :: rest =>
    if (descF d 1 1).testBit 1 && (s.ring n).outstanding != rest.length + 1 then .wait
    else if !opcodes.contains (descOp d) then .refuse d
    else if descOp d = op then .go d else .wait

/-- Takes the oldest fetched descriptor of a ring as landed (R285, R304 CXL_DESC_COUNT). -/
def State.take (s : State) (n : Nat) : State :=
  { s.modRing n (fun k => { k with fetched := k.fetched.drop 1 }) with cxl.descCount := s.cxl.descCount + 1 }

/-- A descriptor of one opcode lands: form of its 64 bytes, then the device state, then what the operation
does (R52, R299). A ring whose oldest descriptor is another operation's is left alone. -/
def State.land (s : State) (n op : Nat) (faults : Desc → List (Nat × Bool)) (act : Desc → State → State) : State :=
  match s.landing n op with
  | .wait => s
  | .refuse d => ((s.take n).finish (descPend d) stForm 0x2000).finishHalts
  | .go d =>
    let s := s.take n
    match firstFault (headerFaults d ++ faults d) with
    | some o => (s.finish (descPend d) stForm (0x2000 + o)).finishHalts
    | none =>
      if readyOpcodes.contains op && s.gen.state != .ready then (s.finish (descPend d) stState 0x8001).finishHalts
      else (act d s).finishHalts

/-! ## Host addresses (R267) -/

/-- Whether a host range lies in the staging window. -/
def State.inWindow (s : State) (a n : Nat) : Bool :=
  match s.cxl.hdm with
  | some (b, z) => decide (a < b + z) && decide (b < a + n)
  | none => false

/-- Whether an operand is a good host address: below 2^52, aligned, outside the window (R267). -/
def State.hostAddrOk (s : State) (a align n : Nat) : Bool :=
  decide (a < 2 ^ 52) && decide (a % align = 0) && !s.inWindow a n

/-! ## Device states (R19, R321, R326) -/

/-- A ring returns to OFF with the device's state (R278). -/
def RingSt.turnOff (k : RingSt) : RingSt :=
  { k with state := .off, fetched := [], outstanding := 0, held := [], disabled := false, disReq := false }

/-- Enters a device state: STATE_CHANGE is raised, and outside READY and STOPPED every ring is OFF (R278,
R298). -/
def State.enter (s : State) (d : DevState) : State :=
  if s.gen.state = d then s
  else
    let s := ({ s with gen.state := d } : State).event 0
    if d = .ready ∨ d = .stopped then s
    else { s with rng.rings := tmap s.rng.rings (fun _ k => k.turnOff) }

/-- Whether a stop cause is present. -/
def GenSt.stopped (g : GenSt) : Bool := g.stopAssay || g.stopCoolant || g.stopHost || g.stopViral

/-- In service, the device is STOPPED while a stop cause is present, else READY (R326). -/
def State.refresh (s : State) : State :=
  if s.gen.state = .ready ∨ s.gen.state = .stopped then s.enter (if s.gen.stopped then .stopped else .ready) else s

/-- Whether the Almanac admits: READY, and no holdover (R255, R260). -/
def State.admitting (s : State) : Bool := decide (s.gen.state = .ready) && !s.alm.holdover

end Sys2Proof.Machine
end

