-- ==== Sys2Proof/Machine/Tables.lean ====
section
/-! DEFINITION. Table images in host memory: program images (R110-R112), cost cards (R238), station entries
(R45-R50, R219, R220) and strand entries (R59, R60), with the check that finds the first fault (R51). -/

namespace Sys2Proof.Machine

/-- Consecutive chunks of n bytes. -/
def chunks (n : Nat) : Nat → List Byte → List (List Byte)
  | 0, _ => []
  | k + 1, bs => bs.take n :: chunks n k (bs.drop n)

/-! ## Program images (R110-R112) -/

/-- A tile shape entry that meets R111. -/
def shapeOf (e : List Byte) : Option Shape :=
  let fmt := fld e 0 1
  let rows := fld e 2 2
  let cols := fld e 4 2
  let anchor := signed 16 (fld e 6 2)
  let p := fld e 8 4
  if zeros e 1 1 && zeros e 0xC 4 && shapeOk fmt rows cols anchor p then
    some { fmt := BitVec.ofNat 8 fmt, rows := rows, cols := cols, anchor := anchor, payload := p }
  else none

/-- Whether a pass names a pair of R87 with shapes that meet R88 (MMW: activations, weights) or R91 (MMO: A, B). -/
def passOk (mmo : Bool) (a b : Shape) (width : Nat) : Bool :=
  let fp4p := isFp4Pair a.fmt.toNat b.fmt.toNat
  (pairKind a.fmt.toNat b.fmt.toNat).isSome && decide (a.cols = b.cols) && decide (b.rows ≤ width) &&
  (!fp4p || decide (a.cols % 2 = 0)) &&
  (if mmo then decide (a.rows ≤ 256) else decide (a.rows ≤ 512) && decide (a.cols ≤ if fp4p then 512 else 256))

/-- Formats into which ADRAIN converts (R96). -/
def drainFmt (f : Nat) : Bool := [0x0A, 0x08, 0x07, 0x04, 0x05, 0x06].contains f

/-- Whether an instruction passes the checks that need no other instruction (R112, R114, R115, R122). -/
def insOk (shapes : List Shape) (width : Nat) (w : W64) : Bool :=
  let n := w.toNat
  let sh := fun i => (shapes[i]?).getD {}
  let have_ := fun i => decide (i < shapes.length)
  opKnown (fOp w) && reservedZero w &&
  match fOp w with
  | 0x06 => decide (bits n 7 0 ≤ 7)
  | 0x07 => decide (1 ≤ bits n 35 20) && decide (1 ≤ bits n 13 0)
  | 0x08 => decide (1 ≤ bits n 13 0)
  | 0x12 => have_ (fShape w) && (!n.testBit 21 || (decide (fShape w = 0) && decide (fA w = 0)))
  | 0x13 => have_ (fShape w)
  | 0x14 => have_ (fShape w)
  | 0x20 => have_ (fShape w)
  | 0x22 => have_ (fShape w) && have_ (fShape2 w) && passOk false (sh (fShape w)) (sh (fShape2 w)) width
  | 0x23 => have_ (fShape w) && have_ (fShape2 w) && passOk true (sh (fShape w)) (sh (fShape2 w)) width
  | 0x24 => decide (-512 ≤ signed 16 (bits n 15 0)) && decide (signed 16 (bits n 15 0) ≤ 511)
  | 0x25 => have_ (fShape w) && drainFmt (sh (fShape w)).fmt.toNat && decide ((sh (fShape w)).cols ≤ width)
  | 0x30 => decide (bits n 3 0 ≤ 0xA)
  | 0x31 => decide (1 ≤ bits n 7 0) && decide (bits n 7 0 ≤ 9)
  | 0x32 => decide (1 ≤ bits n 7 0) && decide (bits n 7 0 ≤ 9)
  | 0x34 => decide (bits n 1 0 ≤ 2)
  | _ => true

/-- The loop bodies of a program, first and last index each; none when a body leaves the one that encloses
it or nesting exceeds 8 levels (R103, R112). `open_` holds the ends of the bodies open at index i. -/
def loopBodies (last : Nat) : Nat → List Nat → List W64 → Option (List (Nat × Nat))
  | _, _, [] => some []
  | i, open_, w :: rest =>
    let open_ := open_.filter (fun e => decide (i ≤ e))
    if fOp w = 0x07 then
      let e := i + bits w.toNat 13 0
      if open_.headD last < e ∨ 8 ≤ open_.length then none
      else (loopBodies last (i + 1) (e :: open_) rest).map ((i + 1, e) :: ·)
    else loopBodies last (i + 1) open_ rest

/-- Whether a SKIPZ at index i that skips n instructions has a legal target (R112). -/
def skipOk (last : Nat) (bodies : List (Nat × Nat)) (i n : Nat) : Bool :=
  let t := i + n + 1
  let inside := fun (b : Nat × Nat) (k : Nat) => decide (b.1 ≤ k) && decide (k ≤ b.2)
  let limit := ((bodies.filter (inside · i)).map (·.2 + 1)).foldl min (last + 1)
  let encl := (bodies.filter (inside · i)).isEmpty
  decide (t ≤ if encl then last else limit) && bodies.all (fun b => !inside b t || inside b i)

/-- Loops and skips of a program (R112). -/
def flowOk (code : List W64) : Bool :=
  let last := code.length - 1
  match loopBodies last 0 [] code with
  | some bodies => (code.zipIdx).all (fun x => !decide (fOp x.1 = 0x08) || skipOk last bodies x.2 (bits x.1.toNat 13 0))
  | none => false

/-- The program that an image of PROGRAM_BYTES spells, if it passes every check of R112. -/
def programOf (width : Nat) (bs : List Byte) : Option Program :=
  let ns := fld bs 2 2
  let ni := fld bs 4 4
  if fld bs 0 1 = 1 ∧ zeros bs 1 1 ∧ 1 ≤ ns ∧ ns ≤ 256 ∧ 1 ≤ ni ∧ ni ≤ 15864 ∧ bs.length = 64 + 16 * ns + 8 * ni ∧
      fld bs 0xC 2 = width ∧ zeros bs 0xE 50 ∧ (crc32c (bs.drop 64)).toNat = fld bs 8 4 then
    let shapes := (chunks 16 ns (bs.drop 64)).map shapeOf
    if shapes.all Option.isSome then
      let shapes := shapes.filterMap id
      let code := (chunks 8 ni (bs.drop (64 + 16 * ns))).map (fun c => BitVec.ofNat 64 (leNat c))
      if code.all (insOk shapes width) ∧ code.getLast?.map fOp = some 1 ∧ flowOk code then
        some { width := width, shapes := shapes, code := code }
      else none
    else none
  else none

/-! ## Cost cards (R238) -/

/-- A strand record. -/
def cardStrandOf (e : List Byte) : Option CardStrand :=
  if fld e 0 2 < 4096 ∧ zeros e 2 2 ∧ zeros e 0xC 4 then
    some { strand := fld e 0 2, base := fld e 4 4, perUnit := fld e 8 4 }
  else none

/-- The plan records with their strand records; plan numbers rise. -/
def cardPlansOf : Option Nat → List (List Byte) → List Byte → Option (List CardPlan)
  | _, [], rest => if rest.isEmpty then some [] else none
  | prev, p :: ps, rest =>
    let plan := fld p 0 1
    let n := fld p 1 1
    let recs := (chunks 16 n rest).map cardStrandOf
    if plan ≤ 15 ∧ prev.all (fun q => decide (q < plan)) ∧ n ≤ 64 ∧ zeros p 2 2 ∧ zeros p 0x14 12 ∧
        16 * n ≤ rest.length ∧ recs.all Option.isSome then
      (cardPlansOf (some plan) ps (rest.drop (16 * n))).map
        ({ plan := plan, busyBase := fld p 4 4, busyPer := fld p 8 4, tail := fld p 0xC 4, wait := fld p 0x10 4,
           inputs := recs.filterMap id } :: ·)
    else none

/-- The cost card that CARD_BYTES spell, if it meets R238. -/
def cardOf (bs : List Byte) : Option Card :=
  let np := fld bs 1 1
  let wp := fld bs 2 2
  if 64 ≤ bs.length ∧ fld bs 0 1 = 1 ∧ 1 ≤ np ∧ np ≤ 16 ∧ 1 ≤ wp ∧ wp ≤ 400 ∧ zeros bs 0xC 52 ∧
      (crc32c (bs.drop 64)).toNat = fld bs 4 4 ∧ 64 + 32 * np ≤ bs.length then
    (cardPlansOf none (chunks 32 np (bs.drop 64)) (bs.drop (64 + 32 * np))).map
      (fun ps => { wPeak := wp, rerun := fld bs 8 4, plans := ps })
  else none

/-- The plan record of a card. -/
def cardPlan? (c : Card) (p : Nat) : Option CardPlan := c.plans.find? (fun x => x.plan == p)

/-! ## Station entries (R45-R50) -/

/-- KIND of a station entry. -/
def kindOf : Nat → Option StationKind
  | 1 => some .core | 2 => some .loupe | 3 => some .hbm | 4 => some .lpddr | 5 => some .kv | 6 => some .host
  | _ => none

/-- Whether a LOUPE configuration meets R219 and R220. -/
def loupeOk (c : LoupeCfg) : Bool :=
  decide (1 ≤ c.queries) && decide (c.queries ≤ 2048) && decide (1 ≤ c.k) && decide (c.k ≤ 1024) &&
  ((decide (c.corpusBase = 0) && decide (c.shardRows = 0) && decide (c.tileRows = 0) && decide (c.qcols = 0)) ||
   (decide (c.shardRows ≠ 0) && decide (1 ≤ c.tileRows) && decide (c.tileRows ≤ 4096) && decide (1 ≤ c.qcols) &&
    decide (c.qcols ≤ 2048) && decide (c.queries % c.qcols = 0)))

/-- A station entry that meets the rules of its KIND, before its program and card are fetched; `addrOk`
judges a host address of some bytes. -/
def stationOf (addrOk : Nat → Nat → Bool) (e : List Byte) : Option StationE :=
  let z := zeros e
  let width := fld e 4 2
  let target := fld e 6 2
  let cores := bitList 96 (fld e 8 12)
  let rb := fld e 0x14 2
  let rl := fld e 0x16 2
  let key := fld e 0x18 8
  match kindOf (fld e 2 1) with
  | none => none
  | some kind =>
    let res := (fld e 3 1).testBit 0
    let common := decide (fld e 0 2 < 1024) && z 0x38 8 && decide (fld e 3 1 < 2)
    let noCore := !res && z 4 2 && z 8 12 && z 0x14 12
    let st : StationE := { station := fld e 0 2, kind := kind, resident := res, width := width, target := target, cores := cores,
                           resBase := rb, resLen := rl, key := BitVec.ofNat 64 key }
    let ok (b : Bool) (st : StationE) : Option StationE := if common && b then some st else none
    match kind with
    | .core =>
      ok (decide (1 ≤ width) && decide (width ≤ 256) && decide (target = 0) && !cores.isEmpty &&
          (if res then decide (rb ≤ 191) && decide (1 ≤ rl) && decide (rl ≤ 160) && decide (rb + rl ≤ 192) && decide (key ≠ 0)
           else decide (rb = 0) && decide (rl = 0) && decide (key = 0)) &&
          decide (1 ≤ fld e 0x28 4) && decide (fld e 0x28 4 ≤ 131072) && decide (1 ≤ fld e 0x2C 4) && decide (fld e 0x2C 4 ≤ 16384) &&
          addrOk (fld e 0x20 8) (fld e 0x28 4) && addrOk (fld e 0x30 8) (fld e 0x2C 4)) st
    | .loupe =>
      let c : LoupeCfg := { corpusBase := fld e 0x20 4, shardRows := fld e 0x24 4, tileRows := fld e 0x28 2, qcols := fld e 0x2A 2,
                            queries := fld e 0x2C 2, k := fld e 0x2E 2 }
      ok (noCore && decide (target ≤ 11) && z 0x30 8 && loupeOk c) { st with loupe := c }
    | .kv => ok (noCore && decide (target = 0) && z 0x20 0x18) st
    | .host => ok (noCore && decide (target ≤ 8191) && z 0x20 0x18) st
    | k =>
      let base := fld e 0x20 8
      let len := fld e 0x28 4
      ok (noCore && decide (target ≤ 11) && z 0x2C 12 && decide (base % 65536 = 0) && decide (1 ≤ len) &&
          decide (base + len * 65536 ≤ if k = .hbm then hbmSize else lpSize))
        { st with regionBase := base, regionLen := len }

/-- Whether two stations of one table clash: one id, a shared logical core, one Loupe unit, one ring (R51). -/
def stationsClash (a b : StationE) : Bool :=
  a.station == b.station ||
  (a.kind == b.kind && (match a.kind with
    | .core => a.cores.any b.cores.contains
    | .loupe => a.target == b.target
    | .host => a.target == b.target
    | _ => false))

/-- Fetches the program and card that a CORE entry names; none when a read fails or a check does (R47, R269). -/
def loadCore (mem : HostMem) (e : List Byte) (st : StationE) : Option StationE :=
  if st.kind ≠ .core then some st
  else
    let get := fun (a n : Nat) => if hostFails mem a n then none else some (hostRead mem a n)
    match (get (fld e 0x20 8) (fld e 0x28 4)).bind (programOf st.width), (get (fld e 0x30 8) (fld e 0x2C 4)).bind cardOf with
    | some p, some c => some { st with program := p, card := c }
    | _, _ => none

/-- The entries of a station table, or the DETAIL of the first fault (R51); `done` holds the earlier entries. The rule gives
no order between a form fault of one entry and a program or card fault of another: the entries are taken in index order,
each with its own program and card, so the entry of lower index is the one reported (DESIGN CHOICE, log 114). -/
def stationsOf (addrOk : Nat → Nat → Bool) (mem : HostMem) : Nat → List StationE → List (List Byte) → Nat ⊕ List StationE
  | _, done, [] => .inr done
  | i, done, e :: rest =>
    match stationOf addrOk e with
    | none => .inl (0x3000 + i)
    | some st =>
      if done.any (stationsClash st) then .inl (0x3000 + i)
      else
        match loadCore mem e st with
        | none => .inl (0x4000 + i)
        | some st => stationsOf addrOk mem (i + 1) (done ++ [st]) rest

/-! ## Strand entries (R59, R60) -/

/-- A strand entry that meets the rules that need no station (R59, R60). -/
def strandOf (e : List Byte) : Option StrandE :=
  let b := fun o => fld e o 1
  let sm := b 6
  let dm := b 7
  let place := b 0xB
  let kib := fld e 0xC 2
  let rate := fld e 0xE 2
  if fld e 0 2 < 4096 ∧ fld e 2 2 < 1024 ∧ fld e 4 2 < 1024 ∧ sm ≤ 1 ∧ dm ≤ 2 ∧ place ≤ 2 ∧ b 0x13 ≤ 1 ∧ zeros e 0x18 8 ∧
      (sm = 0 ∨ b 8 = 0) ∧ (dm = 0 ∨ b 9 = 0) ∧ 1 ≤ b 0xA ∧ b 0xA ≤ 64 ∧ 1 ≤ kib ∧ kib ≤ 256 ∧ 1 ≤ rate ∧ rate ≤ 8000 ∧
      (place ≠ 0 ∨ zeros e 0x10 3) ∧ (sm = 0 ∨ dm = 0) ∧ (b 0x13 = 0 ∨ dm = 0) then
    some { strand := fld e 0 2, src := fld e 2 2, dst := fld e 4 2, srcMode := if sm = 1 then .gather else .member
           dstMode := if dm = 0 then .member else if dm = 1 then .spread else .broadcast
           srcMember := b 8, dstMember := b 9, depth := b 0xA, place := if place = 0 then .locl else if place = 1 then .toPeer else .fromPeer
           maxKib := kib, rate := rate, peer := { x := b 0x10, y := b 0x11, z := b 0x12 }, slices := decide (b 0x13 = 1), bufBase := fld e 0x14 4 }
  else none

/-- The entries of a strand table, or the DETAIL of the first fault (R51). -/
def strandsOf : Nat → List StrandE → List (List Byte) → Nat ⊕ List StrandE
  | _, done, [] => .inr done
  | i, done, e :: rest =>
    match strandOf e with
    | none => .inl (0x3000 + i)
    | some k => if done.any (fun x => x.strand == k.strand) then .inl (0x3000 + i) else strandsOf (i + 1) (done ++ [k]) rest

/-! ## The image (R49) -/

/-- Whether TABLE_BYTES fits its kind of table (R51): entries of `size` bytes, `most` at the most. -/
def tableBytesOk (size most n : Nat) : Bool := decide (64 ≤ n) && decide (n ≤ 64 + size * most) && decide ((n - 64) % size = 0)

/-- Whether the header of an image is good: kind, job, COUNT, reserved bytes, length and CRC (R49, R51). -/
def imageOk (kind size most job : Nat) (bs : List Byte) : Bool :=
  let c := fld bs 4 2
  decide (fld bs 0 1 = kind) && zeros bs 1 1 && decide (fld bs 2 2 = job) && decide (1 ≤ c) && decide (c ≤ most) &&
  zeros bs 6 2 && zeros bs 0xC 52 && decide (bs.length = 64 + size * c) && decide ((crc32c (bs.drop 64)).toNat = fld bs 8 4)

/-- The entries of an image whose header is good, as byte chunks. -/
def imageEntries (size : Nat) (bs : List Byte) : List (List Byte) := chunks size ((bs.length - 64) / size) (bs.drop 64)

end Sys2Proof.Machine
end

