-- ==== Sys2Proof/Machine/Pricing.lean ====
section
/-! DEFINITION. Routes and prices: Filigree and Clasp routes (R332, R410), the rates of paths, and the
windows of a plan (R240-R243, R250). -/

namespace Sys2Proof.Machine

/-! ## Non-negative fractions -/

/-- A non-negative fraction n ÷ d; times in ns and rates in bytes per ns are exact. -/
structure Q where
  n : Nat := 0
  d : Nat := 1
  deriving DecidableEq, Repr, Inhabited

/-- A fraction in lowest terms. -/
def Q.mk' (n d : Nat) : Q := ⟨n / Nat.gcd n d, d / Nat.gcd n d⟩
def qn (n : Nat) : Q := ⟨n, 1⟩
def Q.plus (a b : Q) : Q := Q.mk' (a.n * b.d + b.n * a.d) (a.d * b.d)
def Q.times (a b : Q) : Q := Q.mk' (a.n * b.n) (a.d * b.d)
def Q.divBy (a b : Q) : Q := Q.mk' (a.n * b.d) (a.d * b.n)
/-- The difference, 0 when negative. -/
def Q.minus (a b : Q) : Q := Q.mk' (a.n * b.d - b.n * a.d) (a.d * b.d)
def Q.le (a b : Q) : Bool := decide (a.n * b.d ≤ b.n * a.d)
def Q.max (a b : Q) : Q := if a.le b then b else a
def Q.min (a b : Q) : Q := if a.le b then a else b
def Q.floor (a : Q) : Nat := a.n / a.d
def Q.ceil (a : Q) : Nat := (a.n + a.d - 1) / a.d

/-! ## Clocks and ports -/

/-- Rate of a port of some bytes per cycle, in bytes per ns (R165). -/
def portRate (v : Variant) (width : Nat) : Q := Q.mk' (width * clockMHz v) 1000

/-- The factor k of R240, in ns per cycle. -/
def kFactor (v : Variant) (beta : Nat) : Q :=
  (Q.mk' (1000 * 17 * 64) (clockMHz v * 16 * (64 - beta))).times (Q.mk' 10005 10000)

/-! ## Filigree routes (R332, R333, R35) -/

/-- A path whose capacity a commit checks (R73, R249, R333). -/
inductive Path where
  | core (logical : Nat)
  | link (n : Nat) (back : Bool)
  | inject (field : Nat)
  | eject (field : Nat)
  | hbm (field : Nat)
  | lpddr (field : Nat)
  | clasp (link : Nat) (inward : Bool)
  deriving DecidableEq, Repr, Inhabited

/-- The horizontal links between columns a and b of a row, eastward (`back` false) or westward. -/
def rowLinks (row a b : Nat) : List Path :=
  if a ≤ b then (List.range (b - a)).map (fun i => .link (5 * row + a + i) false)
  else (List.range (a - b)).map (fun i => .link (5 * row + b + i) true)

/-- The paths from field a to field b: injection, the row, the vertical link (10 + column, southward
`back` false), ejection; none within one field. -/
def filRoute (a b : Nat) : List Path :=
  if a = b then []
  else [.inject a] ++ rowLinks (a / 6) (a % 6) (b % 6) ++
    (if a / 6 = b / 6 then [] else [.link (10 + b % 6) (decide (a / 6 = 1))]) ++ [.eject b]

/-! ## Clasp routes (R410) -/

/-- The opposite link: X- with X+, Y- with Y+, Z- with Z+ (R151 order). -/
def oppLink (l : Nat) : Nat := if l % 2 = 0 then l + 1 else l - 1

/-- Hops along one axis: links 2 x axis (negative) or 2 x axis + 1 (positive); `flip` takes the other way
around, possible only on a wrapped axis. -/
def axisHops (axis a b ext : Nat) (wrap flip : Bool) : List Nat :=
  if a = b then []
  else
    let pos := (b + ext - a) % ext
    let neg := (a + ext - b) % ext
    let up := if wrap then (decide (pos ≤ neg)) != flip else decide (a < b)
    List.replicate (if wrap then (if up then pos else neg) else (b - a) + (a - b)) (2 * axis + if up then 1 else 0)

/-- The links by which a route from one module to another leaves each module on the way (R410);
`alt` names the axis that goes the other way around. -/
def claspRoute (p : Placement) (a b : Coord) (alt : Option Nat := none) : List Nat :=
  axisHops 0 a.x b.x p.extent.x p.wrapX (alt == some 0) ++ axisHops 1 a.y b.y p.extent.y p.wrapY (alt == some 1) ++
  axisHops 2 a.z b.z p.extent.z p.wrapZ (alt == some 2)

/-- Whether an axis of the block wraps. -/
def Placement.wraps (p : Placement) (axis : Nat) : Bool := if axis = 0 then p.wrapX else if axis = 1 then p.wrapY else p.wrapZ

/-- Whether coordinates lie in the block. -/
def Placement.holds (p : Placement) (c : Coord) : Bool :=
  decide (c.x < p.extent.x) && decide (c.y < p.extent.y) && decide (c.z < p.extent.z)

/-- The route of a cross-module strand entry from its sender to its receiver, as this module knows it. -/
def strandRoute (p : Placement) (e : StrandE) (alt : Option Nat := none) : List Nat :=
  match e.place with
  | .toPeer => claspRoute p p.coord e.peer alt
  | .fromPeer => claspRoute p e.peer p.coord alt
  | .locl => []

/-- This module's own link on that route: the one the route leaves by, or arrives on. -/
def ownLink (e : StrandE) (route : List Nat) : Option Nat :=
  match e.place with
  | .toPeer => route.head?
  | .fromPeer => route.getLast?.map oppLink
  | .locl => none

/-- The fields whose halves a link's lanes lie in (R393): which two fields hold the serializer halves of a
link. Link l has its lanes 0-15 in field claspFields l .1 and lanes 16-31 in .2 (R28). -/
def claspFields (l : Nat) : Nat × Nat :=
  match l with
  | 0 => (0, 6) | 1 => (5, 11) | 2 => (1, 7) | 3 => (4, 10) | 4 => (2, 8) | _ => (3, 9)

/-- The width W of a link: its lanes in use, or while it has none 32 less the pairs out of use (R393). -/
def LinkSt.width (k : LinkSt) : Nat := if k.lanes = [] then 32 - 2 * k.pairsOut.length else k.lanes.length

/-- Strand capacity of a link direction in bytes per ns: 400 x (16 - PEER_SHARE) ÷ 16 x W ÷ 32 (R393). -/
def State.strandCap (s : State) (l : Nat) : Q :=
  Q.mk' (400 * (16 - s.cls.cfg.toNat % 16) * (s.link l).width) (16 * 32)

/-- Peer rate of a link direction (R393). -/
def State.peerRate (s : State) (l : Nat) : Q :=
  Q.mk' (400 * (s.cls.cfg.toNat % 16) * (s.link l).width) (16 * 32)

/-- The axis on which the route of a strand of a committed job goes the other way around (R411, R415). -/
def State.altOf (s : State) (e : StrandE) : Option Nat := (s.strand? e.strand).bind (·.altRoute)

/-- This module's own link on the route of a strand: that on which it is bound, or is to be. -/
def State.routeLink (s : State) (e : StrandE) : Option Nat :=
  s.cls.place.bind (fun p => ownLink e (strandRoute p e (s.altOf e)))

/-- HBM3E rate left by the migration share: 2,150.4 x (64 - share) ÷ 64 (R191, R203, R249). R191 gives a second, lower
rate for random accesses of 256 bytes; no rule says when an access is priced at it, and here none is (DESIGN CHOICE,
log 100). -/
def State.hbmRate (s : State) : Q := Q.mk' (21504 * (64 - bits s.lkt.cfg.toNat 9 4)) 640
/-- LPDDR5X rate left by the migration share: 218.45 x (64 - share) ÷ 64. -/
def State.lpRate (s : State) : Q := Q.mk' (21845 * (64 - bits s.lkt.cfg.toNat 15 10)) 6400

/-- Capacity of a path in bytes per ns (R73, R249, R333). -/
def State.pathCap (s : State) : Path → Q
  | .core _ => portRate s.part.variant 1024
  | .link n _ => qn (if n < 10 then 6000 else 4500)
  | .inject _ => portRate s.part.variant 8192
  | .eject _ => portRate s.part.variant 8192
  | .hbm _ => s.hbmRate
  | .lpddr _ => s.lpRate
  | .clasp l _ => s.strandCap l

/-! ## Legs and effective rates (R242) -/

/-- The fields a station's given member lies in, or all its members' fields. -/
def fieldsAt (e : StationE) (m : Option Nat) : List Nat :=
  match e.kind, m with
  | .core, some m => ((memberCore e m).map lcoreField).toList
  | .core, none => (e.cores.map lcoreField).eraseDups
  | _, _ => [stationField e]

/-- The stations at the two ends of a strand entry in a job's table; none at an end on another module. -/
def endsOf (sts : List StationE) (e : StrandE) : Option StationE × Option StationE :=
  (if e.place = .fromPeer then none else sts.find? (fun x => x.station == e.src),
   if e.place = .toPeer then none else sts.find? (fun x => x.station == e.dst))

/-- Source and destination fields of a strand. The KV station lies in the other end's field, where its
pages are priced first (R249, R250). -/
def strandFields (sts : List StationE) (e : StrandE) : List Nat × List Nat :=
  let (a, b) := endsOf sts e
  let fa := (a.map (fun x => fieldsAt x (if e.srcMode = .member then some e.srcMember else none))).getD []
  let fb := (b.map (fun x => fieldsAt x (if e.dstMode = .member then some e.dstMember else none))).getD []
  let kv := fun (x : Option StationE) => (x.map (·.kind)) == some StationKind.kv
  (if kv a then fb else fa, if kv b then fa else fb)

/-- Where the pages of a step's members lie, seen from one destination field (R250): parts in HBM3E, in
LPDDR5X and on peers out of `all`, whether any lies in another field, and the hops to the farthest lender. -/
structure KvMix where
  hbm   : Nat := 0
  lpddr : Nat := 0
  peer  : Nat := 0
  far   : Bool := false
  hops  : Nat := 0
  rate  : Q := qn 1
  deriving DecidableEq, Repr, Inhabited

/-- Crossbar port width of a destination (R165). -/
def destWidth : Option StationKind → Nat
  | some .hbm => 2048
  | some .lpddr => 512
  | some .kv => 512
  | _ => 1024

/-- A strand's leg λ in ns (R242). -/
def legNs (sts : List StationE) (e : StrandE) (hops : Nat) (far : Bool) : Nat :=
  if e.place ≠ .locl then 200 + 300 * hops
  else
    let (a, b) := strandFields sts e
    if far || decide (1 < (a ++ b).eraseDups.length) then 200 else 100

/-- The capacity of a strand's own link that a plan's values hold. -/
def planCap (pp : PlanPrice) (n : Nat) : Option Q :=
  (pp.caps.find? (fun c => c.1 == n)).map (fun c => { n := c.2.1, d := c.2.2 })

/-- A strand's first-tile latency in ns and effective rate in bytes per ns; `cap` is the capacity of its own link on
the bound route (R242). -/
def State.legRate (s : State) (sts : List StationE) (e : StrandE) (hops : Nat) (cap : Option Q) (mix : Option KvMix) : Nat × Q :=
  let (a, b) := endsOf sts e
  let lam := legNs sts e hops (match mix with | some m => m.far | none => false)
  let size := e.maxKib * 1024 + 32
  let port := portRate s.part.variant (destWidth (b.map (·.kind)))
  let mem := match a.map (·.kind) with
    | some .hbm => some (2 * lam + 640)
    | some .lpddr => some (2 * lam + 780)
    | some .kv => some (2 * lam + 1230 + (match mix with | some m => 300 * m.hops | none => 0))
    | _ => none
  let (first, loop) := match mem with
    | some f => (f, (qn f).plus ((qn size).divBy port))
    | none =>
      let (fa, fb) := strandFields sts e
      let onDie := (fa.flatMap (fun x => fb.flatMap (filRoute x))).map s.pathCap
      let slow := (onDie ++ cap.toList).foldl Q.min port
      (lam, (qn (2 * lam)).plus ((qn size).divBy slow))
  (first, (qn e.rate).min ((qn (Nat.max (e.depth - 1) 1 * size)).divBy loop))

/-! ## The priced bubble fraction (R240, R252, R254, R368) -/

/-- β of a field: the larger of the device and the field value. -/
def State.beta (s : State) (f : Nat) : Nat :=
  Nat.max (s.alm.betaDev.toNat % 64) ((tget s.alm.betaField f 0).toNat % 64)

/-- β of a station, raised to 26 where a member's region, or its field's uncore region, is capped. -/
def State.stationBeta (s : State) (e : StationE) : Nat :=
  let field := fun f => Nat.max (s.beta f) (if (s.region (120 + f)).capped then 26 else 0)
  match e.kind with
  | .core => e.cores.foldl (fun b l =>
      let own := match s.phys l with | some c => if (s.region c).capped then 26 else 0 | none => 0
      Nat.max b (Nat.max (field (lcoreField l)) own)) 0
  | .loupe => field e.target
  | _ => 0

/-- Whether any slice bank of a field has its request bit set (R177). -/
def FieldSt.requested (k : FieldSt) : Bool := k.retReq.any (fun e => e.2 != 0)

/-! ## Plans -/

/-- The core stations of a plan (R239). -/
def planCores (sts : List StationE) (p : Nat) : List Nat :=
  (sts.filter (fun e => e.kind == .core && (cardPlan? e.card p).isSome)).map (·.station)

/-- Adds the LOUPE stations that a set of stations feeds, n times over (R239). -/
def addLoupes (sts : List StationE) (sks : List StrandE) : Nat → List Nat → List Nat
  | 0, l => l
  | n + 1, l =>
    addLoupes sts sks n (l ++ (sts.filter (fun e => e.kind == .loupe && !l.contains e.station &&
      sks.any (fun k => k.place != .toPeer && k.dst == e.station && (k.place == .locl && l.contains k.src)))).map (·.station))

/-- The stations that take part in a plan (R239). -/
def planStations (sts : List StationE) (sks : List StrandE) (p : Nat) : List Nat := addLoupes sts sks 12 (planCores sts p)

/-- The result tiles of a LOUPE configuration: queries per tile, number of tiles (R227). -/
def loupeTiles (c : LoupeCfg) : Nat × Nat :=
  let q := Nat.min c.queries (32768 / c.k)
  (q, (c.queries + q - 1) / q)

/-- The payloads of the result tiles of a LOUPE configuration (R227). -/
def resultPayloads (c : LoupeCfg) : List Nat :=
  let (q, n) := loupeTiles c
  (List.range n).map (fun i => Nat.min q (c.queries - i * q) * 8 * c.k)

/-- Bytes and Loupe cycles of one input strand of a LOUPE station for one work item: the whole shard on a
score strand, the whole result, tile by tile, on a merge strand (R222, R227, R232). -/
def loupeInput (sts : List StationE) (c : LoupeCfg) (e : StrandE) : Nat × Nat :=
  match (endsOf sts e).1 with
  | some a =>
    if a.kind = .loupe then
      let ps := resultPayloads a.loupe
      ((ps.map (· + 32)).sum, (ps.map (fun p => (p + 1023) / 1024)).sum)
    else
      let members := if e.srcMode = .gather then memberCount a else 1
      let n := members * ((c.shardRows + c.tileRows - 1) / c.tileRows) * (c.queries / c.qcols)
      let p := payloadOf 8 c.tileRows c.qcols
      (n * (p + 32), n * ((p + 1023) / 1024))
  | none => (0, 0)

/-- The priced input strands of a station in a plan, each with its bytes at N (R243). -/
def pricedInputs (sts : List StationE) (sks : List StrandE) (p n : Nat) (st : StationE) : List (StrandE × Nat) :=
  match st.kind with
  | .core =>
    match cardPlan? st.card p with
    | some r => r.inputs.filterMap (fun i => (sks.find? (fun k => k.strand == i.strand)).map (·, i.base + i.perUnit * n))
    | none => []
  | .loupe => (sks.filter (fun k => k.place != .toPeer && k.dst == st.station)).map (fun k => (k, (loupeInput sts st.loupe k).1))
  | _ => []

/-- A station's window [S, E] relative to t0, in ns (R243). -/
structure Window where
  station : Nat := 0
  s       : Q := {}
  e       : Q := {}
  deriving DecidableEq, Repr, Inhabited

/-- A strand's bytes ÷ rate: a KV strand of a step by where its pages lie (R250). -/
def State.drainTime (s : State) (r : Q) (bytes : Nat) (mix : Option KvMix) : Q :=
  match mix with
  | none => (qn bytes).divBy r
  | some m =>
    let all := m.hbm + m.lpddr + m.peer
    if all = 0 then (qn bytes).divBy r
    else
      let part := fun (k : Nat) (rate : Q) => if k = 0 then qn 0 else ((qn (bytes * k)).divBy (qn all)).divBy rate
      (part m.hbm r).plus ((part m.lpddr (r.min s.lpRate)).plus (part m.peer (r.min m.rate)))

/-- The window of one station, given those of its producers (R241, R243). -/
def State.windowOf (s : State) (sts : List StationE) (sks : List StrandE) (p n : Nat) (pp : PlanPrice)
    (mix : Option (Nat → KvMix)) (done : List Window) (st : StationE) : Window :=
  let ins := pricedInputs sts sks p n st
  let prod := fun (k : StrandE) => if k.place = .locl then done.find? (fun w => w.station == k.src) else none
  let prods := ins.filterMap (fun i => prod i.1)
  let s0 : Q := if prods.isEmpty || ins.any (fun i => (prod i.1).isNone) then qn 0 else (prods.map (·.s)).foldl Q.min ((prods.headD {}).s)
  let hops := fun (k : StrandE) => tget pp.hops k.strand 0
  let arrive := ins.foldl (fun (a : Q) i =>
    let m := if ((endsOf sts i.1).1.map (·.kind)) = some StationKind.kv then mix.map (fun f => f ((strandFields sts i.1).2.headD 0)) else none
    let (first, r) := s.legRate sts i.1 (hops i.1) (planCap pp i.1.strand) m
    let o := match prod i.1 with | some w => w.e | none => s0
    a.max (o.plus ((qn first).plus (s.drainTime r i.2 m)))) s0
  let k := kFactor s.part.variant (tget pp.beta st.station 0)
  let base := match st.kind with
    | .core =>
      let r := (cardPlan? st.card p).getD {}
      let b := r.busyBase + r.busyPer * n + st.card.rerun
      let t := r.tail + st.card.rerun
      let late := if pp.late.contains st.station then 1700 else 0
      (((s0.plus ((qn b).times k)).max (arrive.plus ((qn t).times k))).plus ((qn r.wait).times k)).plus (qn late)
    | _ =>
      let emit := (st.loupe.queries * 8 * st.loupe.k + 1023) / 1024
      let eat := (ins.map (fun (i : StrandE × Nat) => (loupeInput sts st.loupe i.1).2)).foldl (· + ·) 0
      (s0.plus ((qn (eat + 96 + emit)).times k)).max (arrive.plus ((qn (96 + emit)).times k))
  let len := base.minus s0
  let ramp := if st.kind = .core then 6000 * (len.floor / 10000000 + 1) else 0
  let own := sks.filter (fun x => (x.place == .fromPeer && x.dst == st.station) || (x.place == .toPeer && x.src == st.station))
  let retry := (own.map (fun x => 3000 * hops x * ((len.divBy (qn 1000000)).ceil))).foldl (· + ·) 0
  { station := st.station, s := s0, e := base.plus (qn (ramp + retry)) }

/-- Windows in topological order: each round adds the stations whose producers in the plan are done (R243). -/
def State.windowRounds (s : State) (sts : List StationE) (sks : List StrandE) (p n : Nat) (pp : PlanPrice)
    (mix : Option (Nat → KvMix)) (plan : List Nat) : Nat → List Window → List Window
  | 0, done => done
  | fuel + 1, done =>
    let isDone := fun id => done.any (fun w => w.station == id)
    let ready := sts.filter (fun st => plan.contains st.station && !isDone st.station &&
      (pricedInputs sts sks p n st).all (fun i => i.1.place != .locl || !plan.contains i.1.src || isDone i.1.src))
    s.windowRounds sts sks p n pp mix plan fuel (done ++ ready.map (s.windowOf sts sks p n pp mix done))

/-- The windows of a plan at N (R243, R244). -/
def State.windows (s : State) (sts : List StationE) (sks : List StrandE) (p n : Nat) (pp : PlanPrice)
    (mix : Option (Nat → KvMix) := none) : List Window :=
  let plan := planStations sts sks p
  s.windowRounds sts sks p n pp mix plan plan.length []

/-- The hop count of a cross-module strand: of its bound route, else of the route of R410 (R85, R417). -/
def State.hopsOf (s : State) (e : StrandE) : Nat :=
  match s.strand? e.strand with
  | some k => if k.bound then k.hops else ((s.cls.place.map (fun p => (strandRoute p e).length)).getD 0)
  | none => (s.cls.place.map (fun p => (strandRoute p e).length)).getD 0

/-- The strands a plan uses: those its stations' inputs name, and those its stations feed across Clasp. -/
def planStrands (sts : List StationE) (sks : List StrandE) (p : Nat) : List Nat :=
  let plan := planStations sts sks p
  ((sts.filter (fun e => plan.contains e.station)).flatMap (fun st => (pricedInputs sts sks p 0 st).map (·.1.strand))) ++
  (sks.filter (fun k => k.place == .toPeer && plan.contains k.src)).map (·.strand)

/-- The values in force when the windows of a plan are computed (R244). -/
def State.planPrice (s : State) (sts : List StationE) (sks : List StrandE) (p : Nat) : PlanPrice :=
  let inPlan := sts.filter (fun e => (planStations sts sks p).contains e.station)
  let across := sks.filter (fun k => inPlan.any (fun e =>
    (k.place == .fromPeer && k.dst == e.station) || (k.place == .toPeer && k.src == e.station)))
  { beta := inPlan.map (fun e => (e.station, s.stationBeta e))
    late := (inPlan.filter (fun e => e.kind == .core && e.cores.any (fun l => (s.field (lcoreField l)).requested))).map (·.station)
    hops := across.map (fun k => (k.strand, s.hopsOf k))
    caps := across.filterMap (fun k => (s.routeLink k).map (fun l => (k.strand, (s.strandCap l).n, (s.strandCap l).d))) }

/-- Whether the values of R244 whose change makes a plan be recomputed are the same. -/
def samePrice (a b : PlanPrice) : Bool := decide (a.beta = b.beta ∧ a.late = b.late ∧ a.hops = b.hops)

/-- The plans of a job's cards. -/
def plansOf (sts : List StationE) : List Nat :=
  (List.range 16).filter (fun p => !(planCores sts p).isEmpty)

/-- Computes the windows' values of every plan of a job (R244). -/
def State.reprice (s : State) (sts : List StationE) (sks : List StrandE) : Tab PlanPrice :=
  (plansOf sts).map (fun p => (p, s.planPrice sts sks p))

/-- A change of a floor, of a retention request or of a binding leaves every plan it affects to be recomputed
(R244, R417): the plans of committed jobs whose values in force now differ from those they were priced with. -/
def State.markStale (s : State) : State :=
  { s with jobs := tmap s.jobs (fun _ j =>
      match j.phase, j.stations, j.strands with
      | .committed, some sts, some sks =>
        { j with stale := (plansOf sts).filter (fun p => !samePrice (s.planPrice sts sks p) (tget j.priced p {})) }
      | _, _, _ => j) }

end Sys2Proof.Machine
end

