-- ==== Sys2Proof/Machine/Boundary.lean ====
section
/-! DEFINITION. What happens at a job boundary and at the loss of a core: receive buffers (R61), zeroing
(R75, R109, R171), retirement (R54, R156, R182, R404), release (R75, R76, R84), spare substitution (R31, R77,
R78, R465, R466) and the requests that send a region to RETENTION (R371). -/

namespace Sys2Proof.Machine

/-! ## Receive buffers (R61) -/

/-- A receive buffer in one member's scratchpad, or in its field's slices. -/
structure Buffer where
  entry  : Nat := 0
  slices : Bool := false
  unit   : Nat := 0
  base   : Nat := 0
  len    : Nat := 0
  deriving DecidableEq, Repr, Inhabited

/-- Slots that each destination member's buffer holds (R61); `peers` gives the source members of a strand from another
module, which its BIND tells (log 92). -/
def bufferSlots (sts : List StationE) (e : StrandE) (peers : Nat → Nat := fun _ => 1) : Nat :=
  e.depth * (if e.srcMode = .gather then ((endsOf sts e).1.map memberCount).getD (peers e.strand) else 1)

/-- The receive buffers of a job's strands; `unit` is the logical core, or the field for slices. -/
def buffersOf (sts : List StationE) (sks : List StrandE) (peers : Nat → Nat := fun _ => 1) : List Buffer :=
  sks.zipIdx.flatMap (fun x =>
    match (endsOf sts x.1).2 with
    | some d =>
      if d.kind = .core then
        (fieldsAtCores d x.1).map (fun l =>
          { entry := x.2, slices := x.1.slices, unit := if x.1.slices then lcoreField l else l
            base := 64 * x.1.bufBase, len := bufferSlots sts x.1 peers * slotBytes x.1 })
      else []
    | none => [])
where
  /-- The logical cores of the destination members. -/
  fieldsAtCores (d : StationE) (e : StrandE) : List Nat :=
    if e.dstMode = .member then (memberCore d e.dstMember).toList else d.cores

/-- Whether a job holds resources: COMMITTED, CLOSING or KILLING. -/
def JobSt.holds (j : JobSt) : Bool := j.phase != .opened

/-- The member count at the other module's end of each strand here (log 92). -/
def State.peerMembers (s : State) (n : Nat) : Nat := ((s.strand? n).map (·.members)).getD 1

/-- The slice buffers of a field that jobs hold: base and bytes. -/
def State.sliceBuffers (s : State) (f : Nat) : List (Nat × Nat) :=
  s.jobs.flatMap (fun e =>
    if e.2.holds then
      ((buffersOf (e.2.stations.getD []) (e.2.strands.getD []) s.peerMembers).filter (fun b => b.slices && b.unit == f)).map (fun b => (b.base, b.len))
    else [])

/-- Whether a job's buffer lies in some bytes of a field's slices. -/
def State.sliceHeld (s : State) (f a n : Nat) : Bool :=
  (s.sliceBuffers f).any (fun b => decide (b.1 < a + n) && decide (a < b.1 + b.2))

/-! ## Strands of a core -/

/-- The logical cores of one member of a station, or of all. -/
def coresAt (e : StationE) (m : Option Nat) : List Nat :=
  match e.kind, m with
  | .core, some m => (memberCore e m).toList
  | .core, none => e.cores
  | _, _ => []

/-- The logical cores that a strand runs to or from. -/
def State.strandCores (s : State) (k : StrandSt) : List Nat :=
  ((s.srcStn k).map (fun e => coresAt e (if k.entry.srcMode = .member then some k.entry.srcMember else none))).getD [] ++
  ((s.dstStn k).map (fun e => coresAt e (if k.entry.dstMode = .member then some k.entry.dstMember else none))).getD []

/-- A strand emptied and unbound: SEQ, credits and slots start anew when it binds (R77, R84). -/
def StrandSt.empty (k : StrandSt) : StrandSt :=
  { job := k.job, entry := k.entry, hops := k.hops, members := k.members, tried := k.tried }

/-- A strand binds with SEQ 0 and a credit for every slot (R65, R67). -/
def State.bindStrand (s : State) (k : StrandSt) : StrandSt :=
  { k.empty with bound := true, credits := (List.range (s.groups k)).map (fun g => (g, k.entry.depth)) }

/-- Gives up the channel of a strand of this module: its reservations go and RELEASE is sent (R84, R411). -/
def State.dropChannel (s : State) (n : Nat) : State :=
  let own := fun (c : Nat × Channel) => c.2.strand == n && c.2.other.isNone
  s.cls.links.foldl (fun s e =>
    if (e.2.outCh ++ e.2.inCh).any own then
      (s.modLink e.1 (fun k => { k with outCh := k.outCh.filter (fun c => !own c), inCh := k.inCh.filter (fun c => !own c) })).putOn
        e.1 3 (.claspRelease e.1 n)
    else s) s

/-! ## Parking (R371) -/

/-- Whether a committed job binds a physical core. -/
def State.coreBound (s : State) (c : Nat) : Bool := decide ((s.core c).job ≠ 0)

/-- The PARK bit of a logical core. -/
def State.parkBit (s : State) (l : Nat) : Bool := (tget s.pwr.park (l / 16) 0).getLsbD (l % 16)

/-- Whether every condition for entering RETENTION holds but the waiting times. -/
def State.parkWanted (s : State) (c : Nat) : Bool :=
  decide ((s.region c).state = .on) && !s.coreBound c &&
  ((s.region c).heat || (match s.logicalOf c with | some l => s.parkBit l | none => false))

/-- Starts or clears the wait of a region for RETENTION. -/
def State.lookPark (s : State) (c : Nat) : State :=
  let r := s.region c
  if s.parkWanted c then (if r.parkSince.isNone then s.setRegion c { r with parkSince := some s.stamp } else s)
  else if r.parkSince.isSome then s.setRegion c { r with parkSince := none } else s

/-- Requests power-up of a core region that is OFF or in RETENTION (R372, R373); after a COOLANT_OK stop every region
stays dark until PERST_N (R371, R389). -/
def State.powerUp (s : State) (c : Nat) : State :=
  let r := s.region c
  if s.thm.coolantStop then s
  else match r.state with
  | .off => s.setRegion c { r with state := .waiting, darkCause := 0, waitSince := some s.stamp }
  | .retention => s.setRegion c { r with state := .waiting, darkCause := 0, waitSince := some s.stamp }
  | _ => s

/-! ## Applied fractions (R374, R381, R385) -/

/-- The floor of a core's applied fraction but for uniform mode: a ramp beside it, a capped region (R368, R374). -/
def State.floorOf (s : State) (c : Nat) : Nat :=
  let r := s.region c
  Nat.max (if r.peak then 16 else 0) (if r.capped || (s.region (120 + coreField c)).capped then 26 else 0)

/-- The bubbles that uniform mode adds at the end of a frame in which b are applied: 2 - b - s, s being the frame's
stretched time in cycles; half a cycle counts as one bubble (R385, log 102). -/
def State.uniformAdd (s : State) (c b : Nat) : Nat :=
  if s.thm.cfg.getLsbD 0 then (5 - (2 * b + (s.region c).frameStretch)) / 2 else 0

/-- Sets a core's applied fraction from its loop fraction and floors (R381). -/
def State.rebubble (s : State) (c : Nat) : State :=
  let b := Nat.max (s.region c).loop (s.floorOf c)
  let b := b + s.uniformAdd c b
  s.modRegion c (fun r => { r with bubble := BitVec.ofNat 6 b, floor := decide (r.loop < b) })

/-- Whether a cycle of the 64-cycle frame is a bubble at a fraction b/64 (R382). -/
def isBubble (b n : Nat) : Bool := decide (n * b / 64 < (n + 1) * b / 64)

/-- Whether a core stands in a bubble in cycle n of the frame: those of the applied fraction without what uniform mode
adds, and the added ones, which are the last of the frame that are not bubbles already (R382, R385). -/
def State.inBubble (s : State) (c n : Nat) : Bool :=
  let r := s.region c
  let b := Nat.max r.loop (s.floorOf c)
  let a := s.uniformAdd c b
  isBubble b n || (decide (a ≠ 0) && decide (64 ≤ n + a + b))

/-- Whether a core stands in a bubble now, or is being realigned: its sequencer issues nothing, its feeder feeds nothing, and
its array, bank adder and vector unit hold their state (R353, R382). -/
def State.bubbled (s : State) (c : Nat) : Bool := s.inBubble c s.clk.frame || (s.core c).realigning

/-- The same for the ten cores of a field. -/
def State.rebubbleField (s : State) (f : Nat) : State :=
  (List.range 10).foldl (fun s i => s.rebubble (10 * f + i)) s

/-- The neighbours of a core region (R374). -/
def neighbours (c : Nat) : List Nat :=
  (List.range 10).map (10 * coreField c + ·) |>.filter (fun d =>
    (decide (d / 5 = c / 5) && (decide (d = c + 1) || decide (c = d + 1))) || (decide (d / 5 ≠ c / 5) && decide (d % 5 = c % 5)))

/-- The ramp of a region is over: its neighbours leave the ramp floor (R374, R381). -/
def State.endRampFloor (s : State) (c : Nat) : State :=
  (neighbours c).foldl (fun s d => (s.modRegion d (fun x => { x with peak := false })).rebubble d) s

/-! ## Substitution (R31, R77, R78, R465, R466) -/

/-- What is left of a physical core whose contents are lost: what self-test and Heirloom know of it. -/
def CoreSt.hollow (k : CoreSt) : CoreSt :=
  { usable := k.usable, colOut := k.colOut, bankRows := k.bankRows, bankEvents := k.bankEvents, vecEvents := k.vecEvents
    cycles := k.cycles, aligned := false }

/-- The spare of a row, counted over the die: its lowest usable position that no logical core holds. -/
def State.spare? (s : State) (row : Nat) : Option Nat :=
  ((List.range 5).map (5 * row + ·)).find? (fun c => s.coreUsable c && (s.logicalOf c).isNone)

/-- A cause of REPLACE_REQ and an event of R461 at once: one report tells both. -/
def State.replaceAnd (s : State) (cause : Nat) : State :=
  if s.gen.replaceReq then (s.replaceFor cause).publish else s.replaceFor cause

/-- A logical core becomes absent (R32, R157). -/
def State.loseLogical (s : State) (l : Nat) : State :=
  ({ s with gen.assign := tdel s.gen.assign l, flash.assign := some (tdel s.gen.assign l) } : State).replaceAnd 1

/-- The binding of a job's member, taken from one core to another; nothing else of the old core comes. -/
def CoreSt.takeBinding (k old : CoreSt) : CoreSt :=
  { k.hollow with prog := old.prog, station := old.station, job := old.job, member := old.member, members := old.members
                  cwidth := old.cwidth }

/-- A logical core moves to a physical core, which powers up for it. A job that binds the core is served at
the lost core's width if the spare is as wide, and is out of service otherwise (R78). -/
def State.substitute (s : State) (l c width : Nat) (old : CoreSt) : State :=
  let s := { s with gen.assign := tput s.gen.assign l (some c) }
  let bound := decide (old.job ≠ 0)
  let s := s.modCore c (fun k =>
    { k.takeBinding old with
      servedWidth := if bound then some width else none
      outOfService := bound && decide (k.width < width) })
  let s := s.powerUp c
  s.modRegion c (fun r => { r with subst := some l })

/-- Whether every core of a strand is present and none is being replaced: until then the strand does not bind (R77). -/
def State.coresPlaced (s : State) (k : StrandSt) : Bool :=
  (s.strandCores k).all (fun l => match s.phys l with | some c => (s.region c).subst.isNone | none => false)

/-- The substitution that ends when a spare's region is ON: assignment to flash, strands rebound, report (R465). -/
def State.endSubst (s : State) (c : Nat) : State :=
  match (s.region c).subst with
  | some l =>
    let s := s.modRegion c (fun r => { r with subst := none })
    let s := { s with flash.assign := some s.gen.assign }
    let s := { s with strands := tmap s.strands (fun _ k =>
      if !k.bound && (s.strandCores k).contains l && s.coresPlaced k then
        (if k.entry.place = Place.locl then s.bindStrand k else { k with binding := true })
      else k) }
    s.publish
  | none => s

/-- Finds a place for a logical core whose physical core is gone: the row's spare, or the spare that a
higher logical core is being moved to (R466); none: it is absent. -/
def State.replaceCore (s : State) (l width : Nat) (old : CoreSt) : State :=
  match s.spare? (lcoreRow l) with
  | some c => s.substitute l c width old
  | none =>
    let rival := ((List.range 5).map (5 * lcoreRow l + ·)).find? (fun c =>
      match (s.region c).subst with | some m => decide (l < m) | none => false)
    match rival with
    | some c =>
      let m := (s.region c).subst.getD 0
      let s := s.modRegion c (fun r => { r with subst := none })
      let s := s.loseLogical m
      s.substitute l c width old
    | none => s.loseLogical l

/-- Whether an item is hit by the loss of a logical core: a run of it there has not ended, or a tile of it
lies on the core, in its buffers or on a strand to or from it (R77, R257). -/
def State.itemAtCore (s : State) (i : Item) (l : Nat) : Bool :=
  i.wins.any (fun w =>
    match s.stn i.job w.station with
    | some e => e.kind == .core && e.cores.zipIdx.any (fun x => x.1 == l && !i.runsDone.contains (w.station, x.2))
    | none => false) ||
  s.strands.any (fun e => (s.strandCores e.2).contains l && (e.2.works.contains i.tag ||
    (match s.haltNow i with | some h => h.strands.contains e.1 | none => false)))

/-- Unbinds a strand and empties it (R77, R173). -/
def State.unbindStrand (s : State) (n : Nat) : State :=
  (s.dropChannel n).modStrand n (fun k => { k.empty with binding := k.entry.place != Place.locl })

/-- The loss of a physical core in service, with the 16-bit DETAIL of the items it ends. -/
def State.loseCore (s : State) (c detail : Nat) : State :=
  let old := s.core c
  let width := match s.logicalOf c with | some l => s.servedWidth l | none => 0
  let s : State := match s.logicalOf c with
    | some l =>
      let s := s.endItems (fun i => s.itemAtCore i l) stCoreLost detail
      let hit := s.strands.filter (fun (e : Nat × StrandSt) => (s.strandCores e.2).contains l)
      hit.foldl (fun (s : State) (e : Nat × StrandSt) => s.unbindStrand e.1) s
    | none => s
  let s := s.overtake c (fun _ => true)
  let s := if (s.region c).state = .ramping ∧ (s.region c).rampDone = false then s.endRampFloor c else s
  let subst := (s.region c).subst
  let s := s.modCore c (fun k => { k.hollow with usable := false })
  let s := s.modRegion c (fun r => { r with state := .lost, subst := none, parkSince := none, waitSince := none, rampStart := r.rampStart })
  match s.logicalOf c with
  | some l =>
    if subst.isSome then s.loseLogical l
    else ({ s with gen.assign := tdel s.gen.assign l } : State).replaceCore l width old
  | none => s

/-! ## Retirement at a core's boundary (R54, R156, R182) -/

/-- Whether the field manager that retires a core's units runs (R427). -/
def State.managerUp (s : State) (f : Nat) : Bool := decide ((s.proc (1 + f)).state = .running)

/-- Takes the PERMANENT columns of a physical core out of service. -/
def State.retireCols (s : State) (c : Nat) : State :=
  let cols := if !s.managerUp (coreField c) then [] else ((s.pendingUnits 1).filter (fun i => physCore (i % 256) == c)).map (· / 256)
  let s := cols.foldl (fun s col => s.markRetired 1 (colIndex c col)) s
  s.modCore c (fun k => { k with colOut := k.colOut ++ cols.filter (fun x => !k.colOut.contains x) })

/-- Remaps one bank of a core: the rows of its last four events, and the further rows that the test finds,
which are a free number. More rows than are left retire the core whole (R182). The scratchpad is zeroed; the 32 banks
interleave in words of 8 bytes, four to a bank, so that every 4 KiB of a resident region has rows in each of them: the
region and its key are lost (R80, R158). -/
def State.remapBank (s : State) (c b : Nat) : State :=
  let (extra, s) := s.fresh32
  let k := s.core c
  let rows := tget k.bankRows b 0 + (tget k.bankEvents b []).eraseDups.length + extra.toNat
  let k := { k with bankEvents := tdel k.bankEvents b, resident := none, spad := [], spadPoison := [], spadHot := [] }
  let k := if 16 < rows then { k with usable := false } else { k with bankRows := tput k.bankRows b rows }
  (s.setCore c k).markRetired 2 (bankIndex c b)

/-- The banks of a core to remap: PERMANENT ones, and RETIRED ones with a later event. -/
def State.banksDue (s : State) (c : Nat) : List Nat :=
  if !s.managerUp (coreField c) then [] else (List.range 32).filter (fun b =>
    match s.heir? 2 (bankIndex c b) with
    | some r => r.state == .permanent || (r.state == .retired && !(tget (s.core c).bankEvents b []).isEmpty)
    | none => false)

/-- Whether a unit of a core is to be retired, by a manager that runs. -/
def State.unitsDue (s : State) (c : Nat) : Bool := (s.managerUp (coreField c) && s.retirePending c) || !(s.banksDue c).isEmpty

/-- Whether a core serves at a width held since a substitution (R78). -/
def CoreSt.widthHeld (k : CoreSt) : Bool := k.servedWidth.isSome || k.outOfService

/-- Whether the field manager reaches a core: its region is ON, with no substitution under way. What waits for a core that
is not ON is applied once it is (R372). -/
def State.coreReached (s : State) (c : Nat) : Bool := decide ((s.region c).state = .on) && (s.region c).subst.isNone

/-- Takes the units of a core that are due out of service. -/
def State.retireUnits (s : State) (c : Nat) : State := (s.banksDue c).foldl (fun s b => s.remapBank c b) (s.retireCols c)

/-- Retires a core whole; its row spare takes its position, and the change is published before another commit is judged
(R156, R461). -/
def State.retireWhole (s : State) (l c : Nat) : State :=
  let old := s.core c
  let s := s.modCore c (fun k => k.hollow)
  let s := s.modRegion c (fun r => { r with state := .off, darkCause := 3, parkSince := none })
  let s := ({ s with gen.assign := tdel s.gen.assign l } : State).replaceCore l old.width {}
  if (s.phys l).isSome then s.publish else s

/-- A logical core's boundary (R54): its true width takes over (R78, R465), retirements are applied if its core is ON
(R372), and the change is published; a core that may no longer serve is retired whole (R156). -/
def State.boundary (s : State) (l : Nat) : State :=
  match s.phys l with
  | none => s
  | some c =>
    let now := s.coreReached c && s.unitsDue c
    if !now && !(s.core c).widthHeld then s
    else
      let s := if now then s.retireUnits c else s
      let s := s.modCore c (fun k => { k with servedWidth := none, outOfService := false })
      if !now || s.coreUsable c then s.publish else s.retireWhole l c

/-- A unit of a core that no job binds retires at once, its core being ON: no boundary is to come. A column of an unused
spare, which is powered off, retires at once; its banks wait until it is ON (R31, R156). -/
def State.settleCore (s : State) (c : Nat) : State :=
  if s.coreBound c then s
  else
    match s.logicalOf c with
    | some l => s.boundary l
    | none =>
      if s.coreReached c && s.unitsDue c then (s.retireUnits c).publish
      else
        let t := s.retireCols c
        if (t.core c).colOut = (s.core c).colOut then s else t.publish

/-! ## Clasp lane pairs (R404) -/

/-- Whether a job that holds resources has a strand on a link: one bound over it, or one whose route takes it (R156). -/
def State.linkUsed (s : State) (l : Nat) : Bool :=
  ((s.link l).outCh ++ (s.link l).inCh).any (fun c => c.2.other.isNone) ||
  s.jobs.any (fun e => e.2.holds && (e.2.strands.getD []).any (fun k => s.routeLink k == some l))

/-- The pairs of a link with a PERMANENT receive lane (R393). -/
def State.pairsDue (s : State) (l : Nat) : List Nat :=
  ((s.pendingUnits 4).filter (fun i => i % 8 == l)).map (fun i => i / 8 % 16)

/-- Clears a link's stream: blocks queued and held for replay, part-received tiles and retry state. What the lanes have
been charged with stays, 1 s being longer than a retraining (R402). -/
def LinkSt.wipe (k : LinkSt) : LinkSt :=
  { k with replay := [], sends := [], waiting := [], sinceCtl := 20, peerTurn := 0, given := [], budget := 0, ackDue := false
           episode := none, episodeLog := [], nakNext := false, assembling := [], rxNext := 0, txNext := 0, txAcked := 0, timeChild := false }

/-- Whether the notice of a link's loss can go the other way around its axis (R410, R414). -/
def State.wayAround (s : State) (l : Nat) : Bool :=
  (s.cls.place.map (fun p => Placement.wraps p (l / 2))).getD false && (s.link (oppLink l)).serves

/-- Tells the modules on the paths of a link's channels that it is down (R414): the other hop of each one in transit, and
what lies beyond the link by the alternate route; the reservations stay until their RELEASE. -/
def State.notifyTransit (s : State) (l : Nat) : State :=
  ((s.link l).outCh ++ (s.link l).inCh).foldl (fun (s : State) c =>
    let m : DownMsg := { strand := c.2.strand, alt := c.2.alt, axis := l / 2 }
    let s := match c.2.other with
      | some (h, _) => s.putOn h 3 (.claspLinkDown h m)
      | none => s
    if s.wayAround l then s.putOn (oppLink l) 3 (.claspLinkDown (oppLink l) { m with round := true }) else s) s

/-- Whether a link is between going down and its return to service. -/
def LinkSt.retraining (k : LinkSt) : Bool := decide (k.state = .down) || decide (k.state = .training)

/-- Retires the pairs of a link that are due at a boundary of every job with a strand on the link, or of none; of a link
that is DOWN, at its retraining (R156, R404, R423): reported width, and the link's state. A link that runs without
them already is UP again; one that uses them goes to retrain; beyond four pairs it leaves service. -/
def State.retirePairs (s : State) (l : Nat) (retrain : Bool := false) : State :=
  let due := (s.pairsDue l).eraseDups
  if due.isEmpty || s.linkUsed l || ((s.link l).retraining && !retrain) then s
  else
    let lanes := (s.pendingUnits 4).filter (fun i => i % 8 == l)
    let s := lanes.foldl (fun s i => s.markRetired 4 i) s
    let k := s.link l
    let out := k.pairsOut ++ due.filter (fun p => !k.pairsOut.contains p)
    let inUse := due.any (fun p => k.lanes.contains p || k.lanes.contains (p + 16))
    if 4 < out.length then
      ((s.notifyTransit l).modLink l (fun k => { k.wipe with outService := true, state := .off, offCause := 4, lanes := [] })).replaceAnd 3
    else
      let st : LinkState :=
        if k.state = .short ∧ k.lanes.length = 32 - 2 * out.length then .up
        else if inUse ∧ k.serves = true then .down else k.state
      let falls := decide (st = .down) && k.serves
      let s := if falls then s.notifyTransit l else s
      (s.modLink l (fun k => { (if falls then { k.wipe with lanes := [] } else k) with pairsOut := out, state := st })).publish

/-! ## Release of a job (R75, R76) -/

/-- A plane with its weights and scales zeroed (R109). -/
def Plane.zeroed : Plane := { unlisted := 0 }

/-- Zeroes what a job boundary zeroes on a core: the scratchpad outside the resident region, and the arrays
(R75, R109). -/
def CoreSt.zero (k : CoreSt) : CoreSt :=
  let kept := fun (a n : Nat) => match k.resident with
    | some r => decide (4096 * r.base ≤ a) && decide (a + n ≤ 4096 * (r.base + r.len))
    | none => false
  { k with
    spad := k.spad.filter (fun x => kept x.1 1), spadPoison := k.spadPoison.filter (fun w => kept (8 * w) 8)
    spadHot := k.spadHot.filter (fun w => kept (8 * w) 8)
    plane0 := .zeroed, plane1 := .zeroed, repair := .zeroed, load0 := none, load1 := none, arrQ := [], drain := none, passes := [], actReg := [], psum := [], cellAcc := [], shadowAcc := []
    accFresh := true, bank := [], anchor := 0, vregs := [], run := none, loops := [], dmaQ := [], hstop := false }

/-- A core that no job binds any more. -/
def CoreSt.unbind (k : CoreSt) : CoreSt :=
  { k.zero with prog := none, station := none, job := 0, member := 0, members := 0, cwidth := 0 }

/-- Zeroes the bytes of a range of a field's slices. -/
def FieldSt.zeroSlices (k : FieldSt) (a n : Nat) : FieldSt :=
  { k with slice := k.slice.filter (fun x => decide (x.1 < a) || decide (a + n ≤ x.1))
           slicePoison := k.slicePoison.filter (fun w => decide (8 * w < a) || decide (a + n ≤ 8 * w))
           sliceHot := k.sliceHot.filter (fun w => decide (8 * w < a) || decide (a + n ≤ 8 * w)) }

/-- Releases what a job holds, its work having ended: zeroing, unbinding at both ends, retirements, ids,
cores, Loupe units, rings and buffers (R75, R84, R171). -/
def State.releaseJob (s : State) (j : Nat) : State :=
  match s.job? j with
  | none => s
  | some jb =>
    if !jb.holds then { s with jobs := tdel s.jobs j }
    else
      let sts := jb.stations.getD []
      let sks := jb.strands.getD []
      let cores := (s.cores.map (·.1)).eraseDups.filter (fun c => decide ((s.core c).job = j))
      let s := cores.foldl (fun s c => (s.overtake c (fun _ => true)).modCore c CoreSt.unbind) s
      let s := ((buffersOf sts sks s.peerMembers).filter (·.slices)).foldl (fun s b => s.modField b.unit (fun k => k.zeroSlices b.base b.len)) s
      let s := (sks.filter (fun e => e.place != .locl)).foldl (fun s e => s.dropChannel e.strand) s
      let s := { s with
        strands := s.strands.filter (fun e => e.2.job != j)
        lou := tmap s.lou (fun _ l => if l.job = j ∧ l.station.isSome then
          { l.dropWork with station := none, job := 0, ahead := [] }
          else l)
        alm.tails := s.alm.tails.filter (fun e => !sts.any (fun st => st.station == e.1))
        jobs := tdel s.jobs j }
      let s := cores.foldl (fun s c => match s.logicalOf c with | some l => s.boundary l | none => s) s
      let s := (List.range 6).foldl (fun s l => s.retirePairs l) s
      cores.foldl (fun s c => s.lookPark c) s

end Sys2Proof.Machine
end

