-- ==== Sys2Proof/Machine/Link.lean ====
section
/-! DEFINITION. The block layer of a Clasp link (R393, R395-R399): blocks and the lanes they are dealt to, the choice of
the next block, the replay buffer, going back, and tiles cut into DATA blocks. -/

namespace Sys2Proof.Machine

/-! ## Blocks (R395) -/

/-- A block (R395). -/
def blockBytes (type : Nat) (nak : Bool) (bseq ack : W16) (channel lanePar : Nat) (payload : List Byte) : List Byte :=
  withCrc (layout 12 [(0, 1, type + if nak then 16 else 0), (1, 1, payload.length), (2, 2, bseq.toNat), (4, 2, ack.toNat),
    (6, 2, channel), (8, 4, lanePar)] ++ padTo 240 payload)

/-- The lane that carries byte i of a block whose first byte goes to the active lane numbered `phase`: bytes are dealt to
the active lanes in ascending order, one at a time (R395). -/
def dealtLane (lanes : List Nat) (phase i : Nat) : Nat := (lanes[(phase + i) % lanes.length]?).getD 0

/-- LANE_PAR of a block: bit l is the even parity over the bits dealt to lane l. The field itself and the CRC, which are
formed after it, count as 0 (DESIGN CHOICE, log 12). -/
def lanePar (lanes : List Nat) (phase : Nat) (block : List Byte) : Nat :=
  let bs := putBytes (putBytes block 8 (le 4 0)) 252 (le 4 0)
  bitmap (lanes.filter (fun l => (((bs.zipIdx.filter (fun b => dealtLane lanes phase b.2 == l)).map (fun b => b.1.toNat)).foldl Nat.xor 0 |> parity) == 1))

/-- The active lanes of a link, ascending. -/
def LinkSt.active (k : LinkSt) : List Nat := (List.range 32).filter k.lanes.contains

/-- Sends a block on a link: it takes the next BSEQ, carries ACK and a NAK that is due, and is kept for replay. The dealing
goes on across blocks, those of the idle stream among them, so that where on the lanes a block begins is free (R395, R398,
log 12). -/
def State.sendBlock (s : State) (l : Nat) (w : WaitBlock) : State :=
  let (ph, s) := s.fresh32
  let k := s.link l
  let form := fun (par : Nat) => blockBytes w.type k.nakNext k.txNext k.rxNext w.channel par w.payload
  let b := form (lanePar k.active (ph.toNat % k.active.length) (form 0))
  let data := decide (w.type = 1) || decide (w.type = 2)
  (s.setLink l { k with
    replay := k.replay ++ [(b, w.poison)], sends := k.sends ++ [1], txNext := k.txNext + 1, nakNext := false, ackDue := false
    ackAt := if k.replay.isEmpty then s.now else k.ackAt
    txPayload := k.txPayload + BitVec.ofNat 64 (if data then w.payload.length else 0) }).put (.claspBlock l b w.poison)

/-! ## The next block of a link direction (R397) -/

/-- Whether two DATA channels' turns stand in order: the one that has had fewer blocks for its RATE comes first. -/
def LinkSt.owed (k : LinkSt) (a b : Nat) : Bool :=
  let rate := fun (c : Nat) => (((k.outCh.find? (fun x => x.1 == c)).map (fun x => x.2.rate)).getD 0) + 1
  decide ((tget k.given a 0 + 1) * rate b < (tget k.given b 0 + 1) * rate a)

/-- The DATA channel whose turn it is: round robin weighted by RATE among the channels that wait (log 126). -/
def LinkSt.dataTurn (k : LinkSt) : Option Nat :=
  ((k.waiting.filter (fun b => b.type == 1)).map (fun b => b.channel % 256)).foldl (fun best c =>
    match best with | none => some c | some x => if k.owed c x then some c else some x) none

/-- Which waiting block comes next, as its TYPE and, of DATA, its channel: CONTROL then MANAGEMENT when nothing else waits
or 20 other blocks have gone before it; PEER for its share of sixteenths while DATA waits too (R397). -/
def LinkSt.nextKind (k : LinkSt) (share : Nat) : Option (Nat × Option Nat) :=
  let waits := fun (t : Nat) => k.waiting.any (fun b => b.type == t)
  let ctl := if waits 3 then some 3 else if waits 4 then some 4 else none
  match ctl with
  | some t => if !(waits 1 || waits 2) || decide (20 ≤ k.sinceCtl) then some (t, none) else pick waits
  | none => pick waits
where
  /-- The choice between PEER and DATA. -/
  pick (waits : Nat → Bool) : Option (Nat × Option Nat) :=
    if waits 2 && (!waits 1 || decide (16 ≤ k.peerTurn + share)) then some (2, none)
    else if waits 1 then some (1, k.dataTurn)
    else none

/-- The waiting block of a choice: the oldest of its kind. -/
def LinkSt.waitingOf (k : LinkSt) (t : Nat × Option Nat) : Option WaitBlock :=
  k.waiting.find? (fun b => b.type == t.1 && (match t.2 with | some c => b.channel % 256 == c | none => true))

/-- The turns after a block of a kind has been chosen. -/
def LinkSt.turned (k : LinkSt) (share : Nat) (b : WaitBlock) : LinkSt :=
  let both := k.waiting.any (fun x => x.type == 1) && k.waiting.any (fun x => x.type == 2)
  let rest := k.waiting.erase b
  { k with
    waiting := rest
    sinceCtl := if 3 ≤ b.type then 0 else Nat.min 20 (k.sinceCtl + 1)
    peerTurn := if both then (k.peerTurn + share) % 16 else k.peerTurn
    given := if rest.any (fun x => x.type == 1) then (if b.type = 1 then tput k.given (b.channel % 256) (tget k.given (b.channel % 256) 0 + 1) else k.given) else [] }

/-- Whether the replay buffer of a link has room for one more block (R398). -/
def LinkSt.room (k : LinkSt) : Bool := decide (k.replay.length < 4096)

/-- A link direction sends one block: the next of those that wait, or IDLE when only ACK or NAK is to be told. -/
def State.sendNext (s : State) (l : Nat) : State :=
  let k := s.link l
  if !k.room then s
  else
    match (k.nextKind (s.cls.cfg.toNat % 16)).bind k.waitingOf with
    | some b => (s.setLink l (k.turned (s.cls.cfg.toNat % 16) b)).sendBlock l b
    | none => if k.ackDue then s.sendBlock l {} else s

/-- Blocks that a link direction sends one after another. -/
def State.sendMany : Nat → Nat → State → State
  | 0, _, s => s
  | n + 1, l, s => State.sendMany n l (s.sendNext l)

/-- Whether a link direction has anything to send. -/
def LinkSt.busy (k : LinkSt) : Bool := !k.waiting.isEmpty || k.ackDue

/-- A block's share of the lanes' rate, in bytes x 32 x 2^24. -/
def blockCost : Nat := 256 * 32 * 16777216

/-- The blocks that a link direction sends while the Calendar advances by d units of 2^-24 ns: 448 x W / 32 bytes in each
ns (R393). -/
def State.sendFor (s : State) (d l : Nat) : State :=
  let k := s.link l
  if !k.serves || !k.busy then s
  else
    let got := k.budget + d * 448 * k.lanes.length
    let n := got / blockCost
    State.sendMany n l (s.setLink l { k with budget := if n = 0 then got else got % blockCost })

/-- Every link direction sends (R397). -/
def State.sendLinks (s : State) (d : Nat) : State :=
  (s.cls.links.map (·.1)).foldl (fun s l => s.sendFor d l) s

/-! ## Tiles and messages as blocks (R396) -/

/-- Cuts bytes into pieces of 240, the first marked FIRST and the last LAST (R396). -/
def dataPieces (bs : List Byte) : List (Nat × List Byte) :=
  let n := (bs.length + 239) / 240
  (List.range n).map (fun i => ((if i = 0 then 256 else 0) + (if i + 1 = n then 512 else 0), cut bs (240 * i) 240))

/-- The poison of the pieces, in words of each, of what is cut into pieces of 240 bytes. -/
def piecePoison (poison : List Nat) (i : Nat) : List Nat := (poison.filter (fun w => decide (w / 30 = i))).map (· % 30)

/-- Queues a tile on a channel of a link: its header is 4 words, its poisoned words follow. -/
def State.sendTileBlocks (s : State) (l channel : Nat) (t : Tile) : State :=
  ((dataPieces (tileHeader t ++ t.payload)).zipIdx).foldl (fun (s : State) p =>
    s.queueBlock l { type := 1, channel := channel + p.1.1, payload := p.1.2, poison := piecePoison (t.poison.map (· + 4)) p.2 }) s

/-- Sends a PEER message on a link that carries them, cut into PEER blocks; the message is also put out as such (R396,
R418, log 49). -/
def State.putPeer (s : State) (l : Nat) (o : Output) : State :=
  if (s.link l).carries then (dataPieces (Config.messageBytes o)).foldl (fun (s : State) p => s.queueBlock l { type := 2, channel := p.1, payload := p.2 }) (s.put o) else s

/-! ## Replay (R398, R399) -/

/-- Goes back: every block not acknowledged is sent again, byte-identical; a retry episode begins unless one
runs (R398, R399). -/
def State.goBack (s : State) (l : Nat) : State :=
  let k := s.link l
  if k.replay.isEmpty then s
  else
    let s := s.setLink l { k with
      episode := some (k.episode.getD s.now), episodes := if k.episode.isSome then k.episodes else sat k.episodes
      sends := k.sends.map (· + 1), ackAt := s.now }
    k.replay.foldl (fun (s : State) b => s.put (.claspBlock l b.1 b.2)) s

/-- The retry episodes within the last 1 ms. -/
def LinkSt.recentEpisodes (k : LinkSt) (now : Nat) : List (Nat × Nat) := k.episodeLog.filter (fun e => decide (now < e.2 + 1000000))

/-- Takes an ACK: the blocks before it leave the replay buffer, and a retry episode whose block is acknowledged
ends (R398, R399). -/
def LinkSt.takeAck (k : LinkSt) (ack : W16) (now : Nat) : LinkSt :=
  let d := (ack - k.txAcked).toNat
  if d = 0 ∨ k.replay.length < d then k
  else { k with
    replay := k.replay.drop d, sends := k.sends.drop d, txAcked := ack, ackAt := now, episode := none
    episodeLog := k.recentEpisodes now ++ (match k.episode with | some t => [(t, now)] | none => []) }

/-- Time that the episodes of a link have taken within the last 1 ms, the one that runs among them (R399). -/
def LinkSt.retryTime (k : LinkSt) (now : Nat) : Nat :=
  let from_ := now - 1000000
  ((k.recentEpisodes now ++ (match k.episode with | some t => [(t, now)] | none => [])).map (fun e => e.2 - Nat.max e.1 from_)).sum

/-- Whether a link has failed for its retry total, the third case of R399. -/
def LinkSt.retryExcess (k : LinkSt) (now : Nat) : Bool := decide (3000 < k.retryTime now)

/-- Whether a link has failed in one of the other cases of R399: a block sent 4 times, an episode of 3 µs, no block
accepted for 3 µs. -/
def LinkSt.failed (k : LinkSt) (now : Nat) : Bool :=
  k.sends.any (fun n => decide (4 ≤ n)) || (match k.episode with | some t => decide (t + 3000 ≤ now) | none => false) ||
  decide (k.rxAt + 3000 ≤ now)

end Sys2Proof.Machine
end

