-- ==== Sys2Proof/Machine/Memory.lean ====
section
/-! DEFINITION. The memory tiers as stations, Locket and the window reach them: pieces of an access, reads
with poison, writes, the translation of KV requests and the poisoning of Locket entries (R69, R179,
R195-R198, R206, R207, R418). -/

namespace Sys2Proof.Machine

/-! ## Writing and marking -/

/-- Writes bytes of module memory; a word written whole loses its poison (R179, R196). -/
def State.memWrite (s : State) (a : Nat) (bs : List Byte) : State :=
  let s := { s with
    mem.bytes := Memory.write none s.mem.bytes a bs
    mem.poison := s.mem.poison.filter (fun w => !wholeWord a bs.length w) }
  if isLp a then
    s.modField (memField a) (fun k => { k with poisonTable := k.poisonTable.filter (fun w => !wholeWord a bs.length w) })
  else s

/-- Whether the stack or package that holds a module memory address is tripped and in self-refresh (R189,
R388): stack (a ÷ 256) mod 64 ÷ 32 of a field, package (a ÷ 256) mod 16 ÷ 4. -/
def State.devTripped (s : State) (a : Nat) : Bool :=
  let f := memField a
  if isHbm a then s.thm.memHbm.getLsbD (2 * f + a / 256 % 64 / 32) else s.thm.memLp.getLsbD (4 * f + a / 256 % 16 / 4)

/-- Whether any byte of a range lies on a tripped device; the range is looked at in 256-byte grains. -/
def State.rangeTripped (s : State) (a n : Nat) : Bool :=
  (s.thm.memHbm != 0 || s.thm.memLp != 0) &&
    (List.range (min 64 ((a % 256 + n + 255) / 256))).any (fun i => s.devTripped (a / 256 * 256 + 256 * i))

/-- Whether a memory device of a field is tripped: pages interleave over all of a tier, so none of the field's
pages migrates (R388). -/
def State.fieldTripped (s : State) (f : Nat) : Bool := s.rangeTripped (hbmBase f) 16384 || s.rangeTripped (lpBase f) 4096

/-- A fault record of an uncorrectable memory error (R197, R436 KIND 0x01). -/
def State.memRecord (s : State) (a : Nat) : State :=
  s.record 0x01 (1 + memField a) (0x7300 + memField a) (le 8 a)

/-- Writes poison to a word of module memory. When the poison table of an LPDDR5X field is full the word is
kept without poison and a fault record says so (R196). -/
def State.poisonWord (s : State) (w : Nat) : State :=
  let (s, kept) := s.setPoison w true
  if kept then s else s.memRecord (8 * w)

/-! ## Errors that a read of a store meets (R152, R178, R179, R181) -/

/-- Whether a correctable error of a word recurs: it is the bank's last one, and the word has been written back since
(R152, R181). -/
def recurs (last : Option (Nat × Bool)) (w : Nat) : Bool := decide (last = some (w, true))

/-- A word of a scratchpad with an error, found by the scrubber, which writes a corrected word back, or where it is
consumed, which corrects it in the path alone (R152, R178-R181). -/
def State.spadFind (s : State) (scrub : Bool) (c w : Nat) (e : EccFind) : State :=
  let k := s.core c
  let b := w / 4 % 32
  let f := coreField c
  let note := fun (k : CoreSt) => { k with bankEvents := tput k.bankEvents b ((w / 128 :: tget k.bankEvents b []).take 4) }
  if k.spadPoison.contains w then s
  else
    match e with
    | .correctable =>
      let again := recurs (tget? k.spadCe b) w
      let k := { k with spadCe := tput k.spadCe b (w, scrub) }
      let s := s.setCore c (if again then note k else k)
      let s := s.modField f (fun x => { x with spdCe := x.spdCe + 1, memStatus := setFlag x.memStatus 0 })
      if again then (s.heirEvent 2 (bankIndex c b)).settleCore c else s
    | .uncorrectable =>
      let s := s.setCore c (note { k with spadPoison := k.spadPoison ++ [w], spadHot := hotAfter k.spadHot [w] [] })
      let s := s.modField f (fun x => { x with spdUe := sat x.spdUe, memStatus := setFlag x.memStatus 1 })
      (s.heirEvent 2 (bankIndex c b)).settleCore c

/-- The slice bank of a word of a field's slices: beyond the addressable words lie the 32 redundancy rows of each bank, of
64 words (R163, R180). -/
def sliceWordBank (w : Nat) : Nat := if w < 8388608 then w / 65536 else (w - 8388608) / 2048 % 128

/-- A word of a field's slices with an error, found by the scrubber or where it is consumed. -/
def State.sliceFind (s : State) (scrub : Bool) (f w : Nat) (e : EccFind) : State :=
  let k := s.field f
  let b := sliceWordBank w
  if k.slicePoison.contains w then s
  else
    match e with
    | .correctable =>
      let again := recurs (tget? k.sliceCe b) w
      let s := s.setField f { k with sliceCe := tput k.sliceCe b (w, scrub), slcCe := k.slcCe + 1, memStatus := setFlag k.memStatus 2 }
      if again then s.heirEvent 3 (sliceIndex f (b / 8)) else s
    | .uncorrectable =>
      let s := s.setField f { k with slicePoison := k.slicePoison ++ [w], sliceHot := hotAfter k.sliceHot [w] [], slcUe := sat k.slcUe, memStatus := setFlag k.memStatus 3 }
      s.heirEvent 3 (sliceIndex f (b / 8))

/-- The words of an area read that are met with a fresh error, numbered from the area's first word: corrected and
counted, or poisoned (R178, R179). -/
def State.areaFinds (s : State) (c : Nat) (a : Area) (n : Nat) (ecc : List (Nat × EccFind)) : State :=
  (ecc.filter (fun x => decide (8 * x.1 < n))).foldl (fun s x =>
    let w := (a.plus (8 * x.1)).base / 8
    if a.slices then s.sliceFind false (coreField c) w x.2 else s.spadFind false c w x.2) s

/-- Consumption of an area: a late access first wakes the field, fresh errors are found, and a poisoned word yields no
bytes (R176, R178, R179). -/
def State.consume (s : State) (c : Nat) (a : Area) (n : Nat) (ecc : List (Nat × EccFind)) : State × Option (List Byte) :=
  let s := (s.areaTouch c a n).areaFinds c a n ecc
  (s, if s.areaPoisoned c a n then none else some (s.areaRead c a n))

/-! ## Locket entries -/

/-- Page size in bytes (R216 PAGE_SIZE). -/
def State.pageBytes (s : State) : Nat :=
  match s.lkt.cfg.toNat % 4 with
  | 0 => 65536 | 1 => 262144 | 2 => 1048576 | _ => 2097152

/-- A page's frames in 64 KiB units. -/
def State.pageUnits (s : State) : Nat := s.pageBytes / 65536

/-- Whether an entry's frame lies in LPDDR5X: the source frame while a migration runs (R200). -/
def LktEntry.inLp (e : LktEntry) : Bool :=
  match e.state with
  | .lpddr => true
  | .promoting => true
  | .poisoned => e.lp
  | _ => false

/-- Whether an entry's frame lies in a peer's memory. -/
def LktEntry.isPeer (e : LktEntry) : Bool := decide (e.state = .peer) || (decide (e.state = .poisoned) && e.wasPeer)

/-- Module memory address of a byte of an entry's frame. -/
def LktEntry.addr (e : LktEntry) (off : Nat) : Nat :=
  (if e.inLp then lpBase e.field else hbmBase e.field) + 65536 * e.frame + off

/-- Returns a frame to its pool, ascending. -/
def insertFrame (x : Nat) : List Nat → List Nat
  | [] => [x]
  | y :: ys => if x < y then x :: y :: ys else if x = y then y :: ys else y :: insertFrame x ys

def State.freeFrame (s : State) (f : Nat) (lp : Bool) (frame : Nat) : State :=
  if lp then { s with lkt.lpPool := tput s.lkt.lpPool f (insertFrame frame (tget s.lkt.lpPool f [])) }
  else { s with lkt.hbmPool := tput s.lkt.hbmPool f (insertFrame frame (tget s.lkt.hbmPool f [])) }

/-- Abandons the copy under way of an entry, if any: its destination frame returns to its pool. -/
def State.dropCopy (s : State) (n : Nat) : State :=
  match s.lkt.copies.find? (fun c => c.2.entry == n) with
  | some (f, c) => ({ s with lkt.copies := tdel s.lkt.copies f } : State).freeFrame f (!c.up) c.dst
  | none => s

/-- An uncorrectable error was found in a page: its entry becomes POISONED at its frame (R207). -/
def State.poisonEntry (s : State) (n : Nat) : State :=
  let e := s.entry n
  if e.state = .free ∨ e.state = .poisoned then s
  else
    let s := s.dropCopy n
    let s := s.setEntry n { e with state := .poisoned, lp := e.inLp, wasPeer := e.isPeer }
    { s with lkt.status := setFlag s.lkt.status 1, lkt.poisonCount := sat s.lkt.poisonCount }

/-- The entries whose page holds a module memory address. -/
def State.entriesAt (s : State) (a : Nat) : List Nat :=
  (s.lkt.entries.filter (fun e => e.2.state != .free && !e.2.isPeer &&
    decide (e.2.addr 0 ≤ a) && decide (a < e.2.addr 0 + s.pageBytes))).map (·.1)

/-! ## Pieces of an access -/

/-- A run of bytes of an access: module memory, a page of a peer, or nothing mapped. -/
structure Piece where
  addr  : Option Nat := none
  peer  : Option Nat := none
  entry : Option Nat := none
  off   : Nat := 0
  len   : Nat := 0
  deriving DecidableEq, Repr, Inhabited

/-- The pieces of n bytes at position pos of a region of `size` bytes at `base`, wrapping (R69). -/
def regionPieces (base size : Nat) : Nat → Nat → Nat → List Piece
  | 0, _, _ => []
  | fuel + 1, pos, n =>
    if n = 0 then []
    else
      let k := min n (size - pos % size)
      { addr := some (base + pos % size), len := k } :: regionPieces base size fuel (pos + k) (n - k)

/-- Where a byte of an entry lies. -/
def State.entryPiece (s : State) (n off len : Nat) : Piece :=
  let e := s.entry n
  if !s.lkt.cfg.getLsbD 2 || decide (e.state = .free) then { len := len }
  else if e.isPeer then { peer := some n, entry := some n, off := off, len := len }
  else { addr := some (e.addr off), entry := some n, off := off, len := len }

/-- The pieces of n bytes at a KV byte address, page by page (R198), those of a peer in requests of 4,096 bytes at most
(R418). -/
def State.kvPieces (s : State) : Nat → Nat → Nat → List Piece
  | 0, _, _ => []
  | fuel + 1, pos, n =>
    if n = 0 then []
    else
      let ps := s.pageBytes
      let p := pos % (2097152 * ps)
      let k := min n (ps - p % ps)
      let k := if (s.entryPiece (p / ps) (p % ps) k).peer.isSome then min k 4096 else k
      s.entryPiece (p / ps) (p % ps) k :: s.kvPieces fuel (pos + k) (n - k)

/-- The pieces of an access of a memory station at an OFFSET (R68, R69, R198). -/
def State.stationPieces (s : State) (st : StationE) (offset n : Nat) : List Piece :=
  match st.kind with
  | .hbm => regionPieces (hbmBase st.target + st.regionBase) (st.regionLen * 65536) 8 (offset * 64) n
  | .lpddr => regionPieces (lpBase st.target + st.regionBase) (st.regionLen * 65536) 8 (offset * 64) n
  | _ => s.kvPieces 80 (offset * 1024) n

/-- Flags a KV request that met a FREE entry (R198). -/
def State.noteUnmapped (s : State) (ps : List Piece) : State :=
  if ps.any (fun p => p.addr.isNone && p.peer.isNone) then
    { s with lkt.status := setFlag s.lkt.status 4, lkt.unmappedCount := sat s.lkt.unmappedCount }
  else s

/-- What a read of module memory found. -/
structure Found where
  bytes  : List Byte := []
  poison : List Nat := []
  hot    : List Nat := []
  deriving DecidableEq, Repr, Inhabited

/-- Reads one piece of module memory whose first word is payload word w0. The payload words in `bad` read
with an uncorrectable error: HBM3E keeps the poison, LPDDR5X does not; either way the error is recorded and
every Locket page that holds the word becomes POISONED, whichever way the read came (R195-R197, R207). The words that lie
on a tripped device, which is in self-refresh, are returned as poison, and nothing else happens to them (R388). -/
def State.readPiece (s : State) (a len w0 : Nat) (bad : List Nat) (entry : Option Nat) : State × Found :=
  let all := (List.range ((len + 7) / 8)).map (fun i => (w0 + i, a / 8 + i))
  let hot := if s.rangeTripped a len then all.filter (fun w => s.devTripped (8 * w.2)) else []
  let ws := if hot.isEmpty then all else all.filter (fun w => !s.devTripped (8 * w.2))
  let hit := ws.filter (fun w => bad.contains w.1)
  let bytes := s.memRead a len
  let pois := (ws.filter (fun w => bad.contains w.1 || s.wordPoison w.2)).map (·.1)
  let s := hit.foldl (fun s w => (if isHbm a then (s.setPoison w.2 true).1 else s).memRecord (8 * w.2)) s
  let pages := match entry with
    | some n => if pois.isEmpty then [] else [n]
    | none => ((ws.filter (fun (w : Nat × Nat) => pois.contains w.1)).flatMap (fun (w : Nat × Nat) => s.entriesAt (8 * w.2))).eraseDups
  (pages.foldl (fun s n => s.poisonEntry n) s, { bytes := bytes, poison := pois ++ hot.map (·.1), hot := hot.map (·.1) })

/-- Reads the pieces of a request in order; `peer` is what is left of the lender's bytes (R198, R418). -/
def State.readPieces (s : State) (bad : List Nat) : List Piece → Nat → List Byte → List Nat → State × Found
  | [], _, _, _ => (s, {})
  | p :: ps, pos, peer, peerBad =>
    let (s, got, used) :=
      match p.addr, p.peer with
      | some a, _ => let (s, f) := s.readPiece a p.len (pos / 8) bad p.entry; (s, f, 0)
      | none, some n =>
        let words := (List.range (p.len / 8)).filter peerBad.contains
        let s := if words.isEmpty then s else s.poisonEntry n
        (s, ({ bytes := padTo p.len (peer.take p.len), poison := words.map (pos / 8 + ·) } : Found), p.len)
      | none, none => (s, ({ bytes := List.replicate p.len 0 } : Found), 0)
    let (s, rest) := s.readPieces bad ps (pos + p.len) (peer.drop used)
      ((peerBad.filter (fun w => decide (used / 8 ≤ w))).map (· - used / 8))
    (s, { bytes := got.bytes ++ rest.bytes, poison := got.poison ++ rest.poison, hot := got.hot ++ rest.hot })

/-- This module's first link on the route to a tray position; link X- where no placement names it. -/
def State.trayLink (s : State) (pos : Nat) : Nat :=
  match s.cls.place with
  | some p =>
    match ((p.tray[pos]?).join).map (claspRoute p p.coord) with
    | some (l :: _) => l
    | _ => 0
  | none => 0

/-- The PEER request for one piece (R418). -/
def State.peerRequest (s : State) (p : Piece) (data : Option (List Byte)) (poison : List Nat := []) : State :=
  match p.peer with
  | some n =>
    let e := s.entry n
    s.putPeer (s.trayLink e.trayPos) (.peerRequest e.trayPos {
      requester := s.gen.straps.toNat % 4, epoch := e.peerEpoch, field := e.field, hbm := decide (e.peerTier = 0)
      frame := e.frame, offset := p.off, len := p.len, data := data, poison := poison })
  | none => s

/-- Writes the parts of a run of bytes that lie on devices in service; the others are discarded (R388). -/
def State.writeAround (s : State) (a : Nat) (bs : List Byte) : State :=
  let first := 256 - a % 256
  let cuts := (0, min first bs.length) :: (List.range ((bs.length + 255) / 256)).map (fun i => (first + 256 * i, min 256 (bs.length - (first + 256 * i))))
  (cuts.filter (fun c => c.2 != 0)).foldl (fun (s : State) (c : Nat × Nat) => if s.devTripped (a + c.1) then s else s.memWrite (a + c.1) (cut bs c.1 c.2)) s

/-- Whether a request's pieces reach a tripped device. -/
def State.piecesTripped (s : State) (ps : List Piece) : Bool :=
  ps.any (fun p => match p.addr with | some a => s.rangeTripped a p.len | none => false)

/-- Writes bytes of module memory, their words in `poison` as poison; what lies on a tripped device is discarded (R68,
R179, R388). -/
def State.storeBytes (s : State) (a : Nat) (bs : List Byte) (poison : List Nat) : State :=
  let s := if s.rangeTripped a bs.length then s.writeAround a bs else s.memWrite a bs
  (poison.filter (fun w => !s.devTripped (8 * (a / 8 + w)))).foldl (fun (s : State) w => s.poisonWord (a / 8 + w)) s

/-- Writes the pieces of a request in order, the words in `poison` as poison (R68, R179, R198). -/
def State.writePieces (s : State) : List Piece → List Byte → List Nat → State
  | [], _, _ => s
  | p :: ps, bs, poison =>
    let here := bs.take p.len
    let mine := poison.filter (fun w => decide (8 * w < p.len))
    let s := match p.addr with
      | some a => s.storeBytes a here mine
      | none => s.peerRequest p (some here) mine
    s.writePieces ps (bs.drop p.len) ((poison.filter (fun w => decide (p.len ≤ 8 * w))).map (· - p.len / 8))

/-- Whether a request reaches a PEER page. -/
def anyPeer (ps : List Piece) : Bool := ps.any (fun p => p.peer.isSome)

/-- The entries of a request's PEER pages become POISONED after a stale epoch (R419). -/
def State.poisonPeers (s : State) (ps : List Piece) : State :=
  ps.foldl (fun s p => match p.peer with | some n => s.poisonEntry n | none => s) s

/-- DETAIL of a FAULT_LINK for a request to a peer: this module's own link on the route (R296, R418). -/
def State.peerDetail (s : State) (ps : List Piece) : Nat :=
  0x7100 + s.trayLink (match ps.find? (fun p => p.peer.isSome) with
    | some p => (s.entry (p.peer.getD 0)).trayPos
    | none => 0)

end Sys2Proof.Machine
end

