-- ==== Sys2Proof/Machine/Strands.lean ====
section
/-! DEFINITION. Tiles on strands: sending under credits, landing in slots, credits back, fetch responses and
stores (R61, R63-R70, R104, R107, R149, R169, R258, R290, R413). -/

namespace Sys2Proof.Machine

/-! ## Sending -/

/-- The tiles that a source member has emitted within the last 1 us (R66). -/
def StrandSt.recent (k : StrandSt) (m now : Nat) : List (Nat × Nat) := (tget k.sent m []).filter (fun x => decide (now < x.1 + 1000))

/-- Whether pacing lets a source member emit: the tiles it emitted within the last 1 us come to no more than RATE x
1,000 bytes, so that with one more tile no window of 1 us holds more than R66 allows. -/
def StrandSt.paced (k : StrandSt) (m now : Nat) : Bool := decide (((k.recent m now).map (·.2)).sum ≤ k.entry.rate * 1000)

/-- Whether a source member holds a credit for its next tile (R65). -/
def State.holdsCredit (s : State) (k : StrandSt) (m : Nat) : Bool :=
  k.bound && decide (0 < tget k.credits (s.groupOf k m (tget k.nextSeq m 0)) 0)

/-- Whether a source member may send its next tile: it holds a credit, and its pacing lets it (R65, R66). -/
def State.hasCredit (s : State) (k : StrandSt) (m : Nat) : Bool := s.holdsCredit k m && k.paced m s.now

/-- Counts bytes on the Filigree links of some paths (R356). -/
def State.countLinks (s : State) (ps : List Path) (n : Nat) : State :=
  ps.foldl (fun s p =>
    match p with
    | .link l back =>
      let key := 2 * l + if back then 1 else 0
      { s with clk.filBytes := tput s.clk.filBytes key (tget s.clk.filBytes key 0 + BitVec.ofNat 64 n) }
    | _ => s) s

/-- Bytes that enter or leave the die's Filigree in given fields: half on each of a link's two (R333, R412). -/
def linkHalves (l n : Nat) : List (Nat × Nat) := [((claspFields l).1, n / 2), ((claspFields l).2, n - n / 2)]

/-- Where the pieces of a memory access lie, with their bytes: its field, or the halves of the link to the lender. -/
def State.pieceFields (s : State) (ps : List Piece) : List (Nat × Nat) :=
  ps.flatMap (fun p =>
    match p.addr, p.peer with
    | some a, _ => [(memField a, p.len)]
    | none, some n => linkHalves (s.trayLink (s.entry n).trayPos) p.len
    | none, none => [])

/-- Where a tile enters the die's Filigree, with its bytes: its source member's field, the fields of the KV pages it is
read from, the hub's field of a step tile, or the halves of the link it arrives on (R169, R212, R332, R333). -/
def State.tileFrom (s : State) (k : StrandSt) (t : Tile) : List (Nat × Nat) :=
  match s.srcStn k with
  | some e =>
    if t.step then [(0, tileBytes t)]
    else if e.kind = .kv then s.pieceFields (s.stationPieces e t.offset.toNat t.payload.length)
    else (fieldsAt e (some t.srcMember)).map (·, tileBytes t)
  | none => match s.ownLinkOf k.entry.strand false with | some l => linkHalves l (tileBytes t) | none => []

/-- Where a tile leaves the die's Filigree: once for each destination field, the fields of the KV pages it is written
to, or the halves of the link it leaves by. -/
def State.tileTo (s : State) (k : StrandSt) (t : Tile) : List (Nat × Nat) :=
  match s.dstStn k with
  | some e =>
    if e.kind = .kv then s.pieceFields (s.stationPieces e t.offset.toNat t.payload.length)
    else (((s.dests k t.seq).flatMap (fun d => fieldsAt e (some d))).eraseDups).map (·, tileBytes t)
  | none => match s.ownLinkOf k.entry.strand true with | some l => linkHalves l (tileBytes t) | none => []

/-- The Filigree routes of one tile on this die, each with the bytes that it carries (R169, R332). -/
def State.tileRoutes (s : State) (k : StrandSt) (t : Tile) : List (List Path × Nat) :=
  (s.tileFrom k t).flatMap (fun a => (s.tileTo k t).map (fun b => (filRoute a.1 b.1, Nat.min a.2 b.2)))

/-- Counts a tile on the Filigree links of its routes (R356). -/
def State.countTile (s : State) (k : StrandSt) (t : Tile) : State :=
  (s.tileRoutes k t).foldl (fun s r => s.countLinks r.1 r.2) s

/-- Sends a tile of a source member: it takes its credit and the member's next SEQ, and is in flight, or
leaves across Clasp and awaits its acknowledgement (R65-R67, R413). -/
def State.sendTile (s : State) (n : Nat) (k : StrandSt) (m : Nat) (t : Tile) : State :=
  let seq := tget k.nextSeq m 0
  let t : Tile := { t with strand := n, seq := seq, srcMember := m }
  let s := s.countTile k t
  let k : StrandSt := { k.takeCredit (s.groupOf k m seq) with
    nextSeq := tput k.nextSeq m (seq + 1), sent := tput k.sent m (k.recent m s.now ++ [(s.now, tileBytes t)]) }
  if k.entry.place = .toPeer then
    let s := s.setStrand n { k with unacked := k.unacked ++ [(m, seq, t.work, s.now)] }
    match s.ownChannel n true with
    | some (l, c) => s.sendTileBlocks l c t
    | none => s
  else s.setStrand n { k with flight := k.flight ++ [t] }

/-- Sends the host tiles of a strand for as long as it holds credits (R65, R290). -/
def State.pumpHost : Nat → Nat → State → State
  | 0, _, s => s
  | fuel + 1, n, s =>
    match s.strand? n with
    | some k =>
      match k.hostQ with
      | t :: rest => if s.hasCredit k 0 then State.pumpHost fuel n (s.sendTile n { k with hostQ := rest } 0 t) else s
      | [] => s
    | none => s

/-- Sends every strand's host tiles as far as credits allow. -/
def State.pumpHosts (s : State) : State :=
  s.strands.foldl (fun s e => State.pumpHost e.2.hostQ.length e.1 s) s

/-- The host tiles of started items enter their strands: in list order, and those of successive items on one
strand in admission order (R247, R290). -/
def State.feedHost (s : State) : State :=
  (s.alm.items.foldl (fun (x : State × List Nat) i =>
    let go := i.tiles.filter (fun t => i.released && !x.2.contains t.strand)
    let stay := i.tiles.filter (fun t => !(i.released && !x.2.contains t.strand))
    let s := go.foldl (fun s t => s.modStrand t.strand (fun k => { k with hostQ := k.hostQ ++ [t] })) x.1
    (if go.isEmpty then s else s.modItem i.tag (fun i => { i with tiles := stay }), x.2 ++ stay.map (·.strand))) (s, [])).1.pumpHosts

/-! ## Loupe result tiles -/

/-- The strand on which a station of a job sends its one output (R221). -/
def State.outStrand (s : State) (j st : Nat) : Option Nat :=
  (s.strands.find? (fun e => e.2.job == j && e.2.entry.place != .fromPeer && e.2.entry.src == st)).map (·.1)

/-- The run of a Loupe unit ends once its last result tile has left (R230, R233). -/
def State.settleLoupe (s : State) (f : Nat) : State :=
  let l := s.loupe f
  match l.workTag, l.station with
  | some w, some st =>
    if l.closed ∧ l.outQ = [] then
      let s := s.setLoupe f { l with workTag := none, closed := false, lists := [], ordinals := [], lastSeen := [],
                                     suspect := false, anchorSat := false, workCount := sat l.workCount }
      let s := s.modItem w (fun i => { i with runsDone := i.runsDone ++ [(st, 0)], suspect := i.suspect || l.suspect })
      s.drawTail st
    else s
  | _, _ => s

/-- Sends a unit's result tiles as far as credits allow (R227, R230). -/
def State.pumpLoupe : Nat → Nat → State → State
  | 0, f, s => s.settleLoupe f
  | fuel + 1, f, s =>
    let l := s.loupe f
    match l.outQ, l.station.bind (s.outStrand l.job) with
    | t :: rest, some n =>
      match s.strand? n with
      | some k => if s.hasCredit k 0 then State.pumpLoupe fuel f ((s.setLoupe f { l with outQ := rest }).sendTile n k 0 t) else s
      | none => s
    | _, _ => s.settleLoupe f

/-- Everything that waits for credits and needs no command: host tiles and Loupe result tiles. -/
def State.pump (s : State) : State :=
  let s := s.feedHost
  (s.lou.map (·.1)).foldl (fun s f => if (s.loupe f).workTag.isSome then State.pumpLoupe (s.loupe f).outQ.length f s else s) s

/-! ## The DMA engine -/

/-- Sends the requests of FETCHes at the head of a core's DMA queue (R68, R104). -/
def State.drainFetch : Nat → Nat → State → State
  | 0, _, s => s
  | fuel + 1, c, s =>
    let k := s.core c
    match k.dmaQ with
    | op :: rest =>
      if op.kind = 2 then
        let r : FetchReq := { member := k.member, offset := BitVec.ofNat 32 op.area, work := op.work
                              shape := (((k.prog.map (·.shapes)).getD [])[op.shape]?).getD {} }
        State.drainFetch fuel c ((s.setCore c { k with dmaQ := rest }).modStrand op.strand (fun x => { x with fetchQ := x.fetchQ ++ [r] }))
      else s
    | [] => s

/-- Takes the head off a core's DMA queue. -/
def State.popDma (s : State) (c : Nat) : State :=
  let s := s.modCore c (fun k => { k with dmaQ := k.dmaQ.drop 1 })
  State.drainFetch (s.core c).dmaQ.length c s

/-- The tile that an EMIT or STORE sends, its payload given; the run flag is sampled now (R56, R104, R126). While an
event of its work item awaits the decision it is not resolved, and the tile carries SUSPECT (R149, log 106). -/
def emitTile (k : CoreSt) (op : DmaOp) (payload : List Byte) : Tile :=
  let sh : Shape := if op.empty then {} else (((k.prog.map (·.shapes)).getD [])[op.shape]?).getD {}
  { strand := op.strand, fmt := sh.fmt, rows := sh.rows, cols := sh.cols, anchor := sh.anchor, last := op.last, empty := op.empty
    suspect := (k.run.map (·.suspect)).getD false || k.passes.any (fun p => p.work == op.work && !p.events.isEmpty), anchorSat := k.runFlag, srcStation := k.station.getD 0, slot := 0xFFFF
    srcMember := k.member, work := op.work, offset := if op.kind = 1 then BitVec.ofNat 32 op.offset else 0, payload := payload }

/-- Whether a core's member may send on a strand (R107): on a MEMBER strand, only SRC_MEMBER. -/
def sends (k : CoreSt) (x : StrandSt) : Bool := x.entry.srcMode == .gather || decide (k.member = x.entry.srcMember)

/-- A tile with the words poisoned that an uncorrectable error hit on Filigree; a tile that crosses no Filigree link meets
none (R331; log 128). -/
def State.beadErrors (s : State) (k : StrandSt) (t : Tile) (bad : List Nat) : Tile :=
  if (s.tileRoutes k t).all (fun r => r.1.isEmpty) then t
  else { t with poison := t.poison ++ bad.filter (fun w => decide (8 * w < t.payload.length) && !t.poison.contains w) }

/-- TILE_SEND (R65, R67, R104, R107, R126, R178, R179, R331): the EMIT or STORE at the head of the core's DMA queue. -/
def execTileSend (core : CoreId) (ecc : List (Nat × EccFind)) (bad : List Nat) (s : State) : Result :=
  .next (
    let k := s.core core
    match k.dmaQ with
    | [] => s
    | op :: _ =>
      match s.strand? op.strand with
      | none => s.popDma core
      | some x =>
        if op.kind = 2 then State.drainFetch k.dmaQ.length core s
        else if !sends k x then s.popDma core
        else if !s.hasCredit x k.member then s
        else
          let n := if op.empty then 0 else ((((k.prog.map (fun (p : Program) => p.shapes)).getD [])[op.shape]?).getD {}).payload
          let a := areaOf op.area
          match s.consume core a n ecc with
          | (s, none) => (s.popDma core).poisonStop core a n op.work
          | (s, some bs) =>
            let t := emitTile k op bs
            let t := if x.entry.place = .toPeer then s.beadErrors x { t with srcMember := k.member } bad else t
            ((s.sendTile op.strand x k.member t).popDma core))

/-! ## Landing -/

/-- Whether a SEQ lies within the 2^31 values behind the expected one: a duplicate (R67). -/
def isDuplicate (k : StrandSt) (t : Tile) : Bool :=
  let d := (tget k.expSeq t.srcMember 0 - t.seq).toNat
  decide (1 ≤ d) && decide (d ≤ 2 ^ 31)

/-- The next slot to fill of a buffer: the first free one in turn (R61). -/
def freeSlotIdx (k : StrandSt) (g dm : Nat) : Nat :=
  let start := tget k.rot (128 * g + dm) 0
  (((List.range k.entry.depth).map (fun i => (start + i) % k.entry.depth)).find? (fun i =>
    !k.slots.any (fun r => r.group == g && r.member == dm && r.idx == i))).getD 0

/-- The place of a slot in its member's store: first byte of the header at byte 32 (R61). -/
def slotArea (e : StrandE) (g idx : Nat) : Area :=
  { slices := e.slices
    base := 64 * e.bufBase + ((if e.srcMode = .gather then g else 0) * e.depth + idx) * slotBytes e + 32 }

/-- Writes a tile into a slot of one destination member, with its poison. -/
def State.fillSlot (s : State) (n g : Nat) (t : Tile) (dm : Nat) : State :=
  match s.strand? n with
  | none => s
  | some k =>
    let idx := freeSlotIdx k g dm
    let c := s.destCore k dm
    let a := slotArea k.entry g idx
    let s := (s.useSpad c a (tileBytes t)).areaWrite c a (tileHeader t ++ t.payload)
    let at_ := fun (w : Nat) => a.base / 8 + 4 + w
    let s := if t.poison.isEmpty then s
      else if a.slices then s.slicePoisonAt (coreField c) (t.poison.map at_) (t.hot.map at_)
      else s.modCore c (fun x => x.spadPoisonAt (t.poison.map at_) (t.hot.map at_))
    s.setStrand n { k with
      slots := k.slots ++ [{ group := g, member := dm, idx := idx, tile := { t with payload := [] }, phase := 0 }]
      rot := tput k.rot (128 * g + dm) ((idx + 1) % k.entry.depth) }

/-- Acknowledges a tile that landed from another module (R413). -/
def State.ackLanding (s : State) (n : Nat) (k : StrandSt) (m : Nat) : State :=
  if k.entry.place = .fromPeer then s.ackPeer n [m] [] else s

/-- A tile lands at its destination: slots of a CORE station or of a Loupe unit, or the outbound buffer of a
HOST station; a duplicate is discarded; a tile from another module whose item has ended here takes no slot, and its
credit returns at once (R61, R64, R67, R76, R169, R258). -/
def State.land1 (s : State) (n : Nat) (k : StrandSt) (t : Tile) (kind : StationKind) : State :=
  if isDuplicate k t then s.setStrand n k
  else
    let g := s.groupOf k t.srcMember t.seq
    let ds := s.dests k t.seq
    if k.entry.place = .fromPeer ∧ t.work ∈ k.ended then
      (s.setStrand n (k.receive t.srcMember t.seq)).ackPeer n [t.srcMember] [g]
    else
      let s := (s.setStrand n (k.receive t.srcMember t.seq)).ackLanding n k t.srcMember
      match kind with
      | .core => ds.foldl (fun s dm => s.fillSlot n g t dm) s
      | .loupe =>
        s.modStrand n (fun k => { k with
          slots := k.slots ++ [{ group := g, member := 0, idx := freeSlotIdx k g 0, tile := t, phase := 0 }]
          rot := tput k.rot (128 * g) ((freeSlotIdx k g 0 + 1) % k.entry.depth) })
      | .host =>
        let s := s.modStrand n (fun k => { k with outbound := k.outbound ++ [t] })
        if t.suspect then s.modItem t.work (fun i => { i with suspect := true }) else s
      | _ => s

/-- TILE_LAND (R61, R63, R64, R67, R331, R413): the oldest tile in flight from a source member. -/
def execTileLand (strand : StrandId) (member : Fin 96) (bad : List Nat) (s : State) : Result :=
  .next (
    match s.strand? strand with
    | some k =>
      match k.flight.find? (fun t => t.srcMember == member.val), s.dstKind k with
      | some t, some kind =>
        if isMemKind kind then s
        else
          let s := if k.entry.place = .fromPeer then s.countTile k t else s
          s.land1 strand { k with flight := k.flight.erase t } (s.beadErrors k t bad) kind
      | _, _ => s
    | none => s)

/-! ## The order of GATHER (R64) -/

/-- The SEQ due from a source member at a destination member. -/
def StrandSt.dueSeq (x : StrandSt) (m g : Nat) : W32 := tget x.due (128 * m + g) x.baseSeq

/-- Whether a SEQ lies at or behind another one. -/
def atOrBehind (a b : W32) : Bool := decide ((b - a).toNat < 2 ^ 31)

/-- Whether a SEQ of a source member counts as received (R67, R76). -/
def StrandSt.received (x : StrandSt) (g : Nat) (q : W32) : Bool :=
  (decide (q ≠ tget x.expSeq g 0) && atOrBehind q (tget x.expSeq g 0)) || x.discard.contains (g, q)

/-- The oldest landed tile of a source member, or of any, that a destination member has not received. -/
def StrandSt.landed (x : StrandSt) (m : Nat) (g : Option Nat) : Option SlotRec :=
  x.slots.find? (fun r => decide (r.member = m) && decide (r.phase = 0) && (match g with | some g => decide (r.tile.srcMember = g) | none => true))

/-- Passes the turn of a source member, its due tile received or lost. -/
def StrandSt.passTurn (x : StrandSt) (m n : Nat) : StrandSt :=
  let g := tget x.turn m 0
  { x with turn := tput x.turn m ((g + 1) % n), due := tput x.due (128 * m + g) (x.dueSeq m g + 1) }

/-- Whether the tile due from the member whose turn it is was received and discarded, so that its turn passes (R76). -/
def StrandSt.turnLost (x : StrandSt) (m : Nat) : Bool :=
  let g := tget x.turn m 0
  match x.landed m (some g) with
  | some r => !atOrBehind r.tile.seq (x.dueSeq m g)
  | none => x.received g (x.dueSeq m g)

/-- Passes the turns of lost tiles; the number of tiles received ahead of those due bounds the rounds. -/
def StrandSt.passLost : Nat → Nat → Nat → StrandSt → StrandSt
  | 0, _, _, x => x
  | fuel + 1, m, n, x => if x.turnLost m then StrandSt.passLost fuel m n (x.passTurn m n) else x

/-- Rounds that passLost may need. -/
def StrandSt.lostMost (x : StrandSt) (m n : Nat) : Nat :=
  n * ((List.range n).foldl (fun b g =>
    let d := (tget x.expSeq g 0 - x.dueSeq m g).toNat
    Nat.max b (if d < 2 ^ 31 then d else 0)) 0 + x.discard.length + 1)

/-- A strand of a destination member with the turns of discarded tiles passed. -/
def StrandSt.rotated (x : StrandSt) (m n : Nat) : StrandSt :=
  if x.entry.srcMode = .gather then StrandSt.passLost (x.lostMost m n) m n x else x

/-- The landed tile that a member receives next: under GATHER, of the source member whose turn it is (R63, R64). -/
def StrandSt.nextTile (x : StrandSt) (m : Nat) : Option SlotRec :=
  x.landed m (if x.entry.srcMode = .gather then some (tget x.turn m 0) else none)

/-- Passes the turn of the tile just received: one that a RESYNC left behind the SEQ due moves the turn alone (R415). -/
def StrandSt.afterTile (x : StrandSt) (m n : Nat) (r : SlotRec) : StrandSt :=
  if x.entry.srcMode = .gather then
    let y := x.passTurn m n
    if r.tile.seq = x.dueSeq m (tget x.turn m 0) then y else { y with due := x.due }
  else x

/-- Takes a tile as received by a run: it is held from now on, behind those received before it. -/
def StrandSt.takeTile (x : StrandSt) (m n : Nat) (work : W32) (r : SlotRec) : StrandSt :=
  let y := x.afterTile m n r
  { y with slots := x.slots.erase r ++ [{ r with phase := 1, holder := some work }] }

/-! ## Credits -/

/-- Whether a slot lies in a range that a pass or weight load of its core holds locked (R104, R105). -/
def State.slotLocked (s : State) (k : StrandSt) (r : SlotRec) : Bool :=
  match s.dstKind k with
  | some .core => (s.core (s.destCore k r.member)).locked (slotArea k.entry r.group r.idx) (slotBytes k.entry - 32)
  | _ => false

/-- Whether the credit of a slot may return: every member has freed its copy of the tile, and no lock holds
one (R65, R104). -/
def State.returnable (s : State) (k : StrandSt) (r : SlotRec) : Bool :=
  let same := k.slots.filter (fun x => x.tile.srcMember == r.tile.srcMember && x.tile.seq == r.tile.seq)
  same.all (fun x => decide (x.phase = 2) && !s.slotLocked k x)

/-- Takes the oldest tile of a source member off those that await their acknowledgement (R413). -/
def StrandSt.acked (k : StrandSt) (m : Nat) : StrandSt :=
  match k.unacked.find? (fun u => u.1 == m) with
  | some u => { k with unacked := k.unacked.erase u }
  | none => k

/-- Takes back a credit that the destination on another module returns, of the DEPTH that a group has (R65). -/
def State.regain (s : State) (k : StrandSt) (g : Nat) : StrandSt :=
  if k.bound ∧ g < s.groups k ∧ tget k.credits g 0 < k.entry.depth then k.addCredit g 1 else k

/-- CREDIT_RETURN (R65, R105, R413): the oldest freed slot's credit, to a source on this module or across Clasp; for a
strand to another module, the control message received with its acknowledgements and credits. -/
def execCreditReturn (strand : StrandId) (landed credits : List (Fin 128)) (s : State) : Result :=
  .next (
    match s.strand? strand with
    | some k =>
      if k.entry.place = .toPeer then
        let k := landed.foldl (fun (k : StrandSt) (m : Fin 128) => k.acked m) k
        (s.setStrand strand (credits.foldl (fun (k : StrandSt) (g : Fin 128) => s.regain k g) k)).pump
      else
        match k.slots.find? (fun r => decide (r.phase = 2) && s.returnable k r) with
        | some r =>
          let k' : StrandSt := { k with slots := k.slots.filter (fun x => !(x.tile.srcMember == r.tile.srcMember && x.tile.seq == r.tile.seq)) }
          if k.entry.place = .fromPeer then (s.setStrand strand k').ackPeer strand [] [r.group]
          else (s.setStrand strand (k'.addCredit r.group 1)).pump
        | none => s
    | none => s)

/-! ## Memory stations (R68-R70, R198) -/

/-- Field whose memory an access of a station reaches first, for the locus of a fault. -/
def pieceField (ps : List Piece) : Nat := ((ps.find? (fun p => p.addr.isSome)).bind (·.addr)).elim 0 memField

/-- FETCH_RESPONSE (R68, R69, R195, R196, R198, R331, R388, R418, R419): the station answers the oldest request of a fetch
strand once it holds a credit. What lies on a tripped device is sent as poison. -/
def execFetchResponse (strand : StrandId) (bad : List Nat) (reply : PeerReply) (wire : List Nat) (s : State) : Result :=
  .next (
    match s.strand? strand with
    | some k =>
      match k.fetchQ, s.srcStn k with
      | r :: rest, some st =>
        if !isMemKind st.kind || !s.hasCredit k 0 then s
        else
          let ps := s.stationPieces st r.offset.toNat r.shape.payload
          let s := s.setStrand strand { k with fetchQ := rest }
          let s := if st.kind = .kv then s.noteUnmapped ps else s
          let s := ps.foldl (fun s p => if p.peer.isSome then s.peerRequest p none else s) s
          match if anyPeer ps then reply else .data [] [] with
          | .none => s.endItem r.work stLink (s.peerDetail ps)
          | .stale => (s.poisonPeers ps).endItem r.work stMemory (0x7300 + pieceField ps)
          | .data peer peerBad =>
            let (s, got) := s.readPieces bad ps 0 peer peerBad
            let t : Tile := { strand := strand, fmt := r.shape.fmt, rows := r.shape.rows, cols := r.shape.cols, anchor := r.shape.anchor
                              srcStation := st.station, slot := 0xFFFF, work := r.work, offset := r.offset
                              payload := got.bytes, poison := got.poison, hot := got.hot }
            match s.strand? strand with
            | some k => s.sendTile strand k 0 (if k.entry.place = .toPeer then s.beadErrors k t wire else t)
            | none => s
      | _, _ => s
    | none => s)

/-- STORE_WRITE (R67-R70, R76, R104, R198, R331, R388, R418): a memory station performs the oldest store of a source
member, in SEQ order; its credit returns. A tile from another module whose item has ended here is discarded. -/
def execStoreWrite (strand : StrandId) (member : Fin 96) (reply : PeerReply) (bad : List Nat) (s : State) : Result :=
  .next (
    match s.strand? strand with
    | some k =>
      match k.flight.find? (fun t => t.srcMember == member.val), s.dstStn k with
      | some t, some st =>
        if !isMemKind st.kind then s
        else if isDuplicate k t then s.setStrand strand { k with flight := k.flight.erase t }
        else
          let ps := s.stationPieces st t.offset.toNat t.payload.length
          let g := s.groupOf k t.srcMember t.seq
          let dead := decide (k.entry.place = .fromPeer ∧ t.work ∈ k.ended)
          let t := s.beadErrors k t bad
          let k := ({ k with flight := k.flight.filter (fun x => !(x.srcMember == t.srcMember && x.seq == t.seq)) } : StrandSt).receive t.srcMember t.seq
          let s := if k.entry.place = .fromPeer then
              ((s.countTile k t).setStrand strand k).ackPeer strand [t.srcMember] [g]
            else s.setStrand strand (k.addCredit g 1)
          if dead then s
          else
          let s := if st.kind = .kv then s.noteUnmapped ps else s
          let s := s.writePieces ps t.payload t.poison
          if s.piecesTripped ps then s.endItem t.work stThermal (0x7300 + pieceField ps)
          else match if anyPeer ps then reply else .data [] [] with
          | .none => s.endItem t.work stLink (s.peerDetail ps)
          | .stale => (s.poisonPeers ps).endItem t.work stMemory (0x7300 + pieceField ps)
          | .data _ _ => s
      | _, _ => s
    | none => s)

end Sys2Proof.Machine
end

