-- ==== Sys2Proof/Machine/Sequencer.lean ====
section
/-! DEFINITION. The sequencer of a core (R103-R108, R114, R115): the start and end of a run, the scalar and
control instructions, the strand instructions and the cost card's limits (R245). -/

namespace Sys2Proof.Machine

/-! ## Issue -/

/-- The instruction at a core's program counter. -/
def CoreSt.word (k : CoreSt) : Option W64 := k.prog.bind (fun (p : Program) => p.code[k.pc]?)

/-- Where control goes on reaching an instruction index: at the end of the innermost loop body, back to its
first instruction while iterations are left, else out of it (R103, R114). -/
def loopBack : List LoopFrame → Nat → List LoopFrame × Nat
  | [], n => ([], n)
  | f :: fs, n =>
    if n = f.past then
      if 1 < f.left then ({ f with left := f.left - 1 } :: fs, f.first) else loopBack fs n
    else (f :: fs, n)

/-- Goes to an instruction index, an instruction having been issued: no wait is left. -/
def CoreSt.goto (k : CoreSt) (n : Nat) : CoreSt :=
  let x := loopBack k.loops n
  { k with loops := x.1, pc := x.2
           run := k.run.map (fun r => { r with recvWait := none, swaitOn := none, stallDma := false }) }

/-- Goes to the next instruction. -/
def CoreSt.next (k : CoreSt) : CoreSt := k.goto (k.pc + 1)

/-- Issues the instruction at a core's program counter, if a run is in progress that has not reached END, the
region is ON and stands in no bubble, and the instruction is of the expected opcode and form; otherwise nothing happens
(R103, R382). -/
def State.issue (s : State) (c op : Nat) (form : W64 → Bool) (act : W64 → Run → CoreSt → State → State) : State :=
  let k := s.core c
  match k.run, k.word with
  | some r, some w =>
    if decide (fOp w = op) && form w && !r.ending && decide ((s.region c).state = .on) && !s.bubbled c then act w r k s else s
  | _, _ => s

/-- An instruction that changes only the core's own registers and goes on. -/
def State.simple (s : State) (c op : Nat) (act : W64 → CoreSt → CoreSt) : State :=
  s.issue c op (fun _ => true) (fun w _ k s => s.setCore c (act w k).next)

/-! ## Runs (R103, R245, R247) -/

/-- The item whose run starts next on a core: the first admitted one with a window at its station that the
core's member has not ended. -/
def State.nextItem (s : State) (k : CoreSt) : Option Item :=
  match k.station with
  | some st => s.alm.items.find? (fun i => i.job == k.job && i.status.isNone &&
      i.wins.any (fun w => w.station == st) && !i.runsDone.contains (st, k.member))
  | none => none

/-- The tripped region that keeps a core from starting a run: its own or its field's uncore (R387). -/
def State.trippedAt (s : State) (c : Nat) : Option Nat :=
  if (s.region c).tripped then some c
  else if (s.region (120 + coreField c)).tripped then some (120 + coreField c) else none

/-- RUN_START (R103, R126, R149, R247, R387): the core's next admitted item, once it is released and the
array of the run before has emptied. -/
def execRunStart (core : CoreId) (s : State) : Result :=
  .next (
    let k := s.core core
    match s.nextItem k with
    | some i =>
      if k.run.isSome || !k.passes.isEmpty || !k.arrQ.isEmpty || k.drain.isSome || !i.released || k.prog.isNone || (s.region core).subst.isSome ||
          decide ((s.region core).state ≠ .on) then s
      else
        match s.trippedAt core with
        | some r => s.endItem i.tag stThermal (0x7200 + r)
        | none => s.setCore core { k with run := some { work := i.tag }, pc := 0, g := [], loops := [], runFlag := false, accFresh := true }
    | none => s)

/-- Whether a weight load of a core is still in progress. -/
def CoreSt.loading (k : CoreSt) : Bool :=
  (match k.load0 with | some l => !l.done | none => false) || (match k.load1 with | some l => !l.done | none => false)

/-- Frees the slots that a run held although the items of their tiles had ended (R76). -/
def State.freeGone (s : State) (c : Nat) (tag : W32) : State :=
  { s with strands := tmap s.strands (fun _ x => { x with slots := x.slots.map (fun r =>
      if r.gone && decide (r.phase = 1) && r.holder == some tag && decide (s.destCore x r.member = c) then { r with phase := 2 } else r) }) }

/-- RUN_END (R76, R103, R149, R247): END has been issued, the array instructions have retired and every transfer has
left. -/
def execRunEnd (core : CoreId) (s : State) : Result :=
  .next (
    let k := s.core core
    match k.run, k.station with
    | some r, some st =>
      if r.ending && k.arrQ.isEmpty && k.drain.isNone && k.passes.isEmpty && !k.loading && k.dmaQ.isEmpty then
        let s := (s.setCore core { k with run := none, loops := [] }).freeGone core r.work
        let s := s.modItem r.work (fun i => { i with runsDone := i.runsDone ++ [(st, k.member)], suspect := i.suspect || r.suspect })
        s.drawTail st
      else s
    | _, _ => s)

/-- The bounds of a cost card at N: busy count, tail and wait (R238, R243, R245). -/
def cardLimits (c : Card) (plan n : Nat) : Option (Nat × Nat × Nat) :=
  (cardPlan? c plan).map (fun r => (r.busyBase + r.busyPer * n + c.rerun, r.tail + c.rerun, r.wait))

/-- CARD_OVERRUN (R245): a run that exceeds a bound of its card is halted and its item ends. -/
def execCardOverrun (core : CoreId) (s : State) : Result :=
  .next (
    let k := s.core core
    match k.run, k.station with
    | some r, some st =>
      match s.item? r.work, s.stn k.job st with
      | some i, some e =>
        match cardLimits e.card i.plan i.batch with
        | some (b, t, w) =>
          if b < r.busy ∨ t < r.tail ∨ w < r.wait then
            { s.endItem r.work stAborted 0x1003 with alm.overrunCount := sat s.alm.overrunCount, alm.status := setFlag s.alm.status 2 }
          else s
        | none => s
      | _, _ => s
    | _, _ => s)

/-! ## Scalar and control instructions (R114, R115) -/

/-- NOP_INSTRUCTION (R114). -/
def execNopInstruction (core : CoreId) (s : State) : Result := .next (s.simple core 0x00 (fun _ k => k))

/-- END (R103): nothing more issues; RUN_END ends the run. -/
def execEndInstruction (core : CoreId) (s : State) : Result :=
  .next (s.issue core 0x01 (fun _ => true) (fun _ r k s => s.setCore core { k with run := some { r with ending := true } }))

/-- MOVI (R114). -/
def execMovi (core : CoreId) (s : State) : Result :=
  .next (s.simple core 0x02 (fun w k => k.setG (fD w) (w.setWidth 32)))

/-- ADDI (R114): a 24-bit signed immediate. -/
def execAddi (core : CoreId) (s : State) : Result :=
  .next (s.simple core 0x03 (fun w k => k.setG (fD w) (k.gr (fA w) + (w.setWidth 24).signExtend 32)))

/-- ADD (R114). -/
def execAdd (core : CoreId) (s : State) : Result :=
  .next (s.simple core 0x04 (fun w k => k.setG (fD w) (k.gr (fA w) + k.gr (fB w))))

/-- MUL (R114). -/
def execMul (core : CoreId) (s : State) : Result :=
  .next (s.simple core 0x05 (fun w k => k.setG (fD w) (k.gr (fA w) * k.gr (fB w))))

/-- A system value (R115); Calendar time is that of the core's field (R341). -/
def State.sysValue (s : State) (c : Nat) (k : CoreSt) (sel : Nat) : W32 :=
  match sel with
  | 0 => BitVec.ofNat 32 k.member
  | 1 => BitVec.ofNat 32 k.members
  | 2 => BitVec.ofNat 32 ((s.logicalOf c).getD 0)
  | 3 => BitVec.ofNat 32 k.cwidth
  | 4 => (k.run.map (·.work)).getD 0
  | 5 => (s.stampIn (coreField c)).setWidth 32
  | 6 => k.sysLatch
  | _ => BitVec.ofNat 32 (k.station.getD 0)

/-- SYS (R115). -/
def execSys (core : CoreId) (s : State) : Result :=
  .next (s.simple core 0x06 (fun w k =>
    let sel := bits w.toNat 7 0
    let k' := k.setG (fD w) (s.sysValue core k sel)
    if sel = 5 then { k' with sysLatch := (s.stampIn (coreField core) >>> 32).setWidth 32 } else k'))

/-- LOOP (R103, R114): min(gA, MAX) iterations of the next LEN instructions; with A = g0, MAX. -/
def CoreSt.enterLoop (k : CoreSt) (w : W64) : CoreSt :=
  let most := bits w.toNat 35 20
  let len := bits w.toNat 13 0
  let n := if fA w = 0 then most else min (k.gr (fA w)).toNat most
  if n = 0 then k.goto (k.pc + 1 + len)
  else ({ k with loops := { first := k.pc + 1, past := k.pc + 1 + len, left := n } :: k.loops } : CoreSt).next

/-- LOOP (R114). -/
def execLoop (core : CoreId) (s : State) : Result :=
  .next (s.issue core 0x07 (fun _ => true) (fun w _ k s => s.setCore core (k.enterLoop w)))

/-- SKIPZ (R112, R114). -/
def execSkipz (core : CoreId) (s : State) : Result :=
  .next (s.issue core 0x08 (fun _ => true) (fun w _ k s =>
    s.setCore core (if k.gr (fA w) = 0 then k.goto (k.pc + 1 + bits w.toNat 13 0) else k.next)))

/-- LDS (R106, R114, R176, R178, R179): the low or high half of the word at gA + IMM. -/
def execLds (core : CoreId) (ecc : List (Nat × EccFind)) (s : State) : Result :=
  .next (s.issue core 0x09 (fun _ => true) (fun w r k s =>
    let a := areaOf (k.gr (fA w) + BitVec.ofNat 32 (bits w.toNat 19 0)).toNat
    match s.consume core a 8 ecc with
    | (s, none) => s.poisonStop core a 8 r.work
    | (s, some bs) =>
      let v := fld bs (if w.toNat.testBit 20 then 4 else 0) 4
      s.modCore core (fun k => (k.setG (fD w) (BitVec.ofNat 32 v)).next)))

/-! ## Strand instructions (R107) -/

/-- Frees the oldest slot of a strand that a member holds (R107). -/
def StrandSt.freeOldest (x : StrandSt) (m : Nat) : StrandSt :=
  match x.slots.findIdx? (fun r => decide (r.member = m) && decide (r.phase = 1)) with
  | some i => { x with slots := x.slots.zipIdx.map (fun y => if y.2 = i then { y.1 with phase := 2 } else y.1) }
  | none => x

/-- Slots of a strand that a member holds. -/
def StrandSt.heldBy (x : StrandSt) (m : Nat) : Nat :=
  (x.slots.filter (fun r => decide (r.member = m) && decide (r.phase = 1))).length

/-- RECV (R64, R107, R126, R149): a SUSPECT tile of the run's own work item marks the run suspect. -/
def execRecv (core : CoreId) (s : State) : Result :=
  .next (s.issue core 0x10 (fun _ => true) (fun w r k s =>
    match s.strand? (fStrand w) with
    | none => s.setCore core { k with run := some { r with recvWait := some (fStrand w) } }
    | some x =>
      let x := (if x.entry.depth ≤ x.heldBy k.member then x.freeOldest k.member else x).rotated k.member (s.srcCount x)
      match x.nextTile k.member with
      | none => (s.setStrand (fStrand w) x).setCore core { k with run := some { r with recvWait := some (fStrand w) } }
      | some t =>
        let a := slotArea x.entry t.group t.idx
        let v := (if a.slices then 2 ^ 31 else 0) + a.base / 8
        let k : CoreSt := { k with runFlag := k.runFlag || t.tile.anchorSat, run := some { r with suspect := r.suspect || (t.tile.suspect && t.tile.work == r.work), tail := 0 } }
        (s.setStrand (fStrand w) (x.takeTile k.member (s.srcCount x) r.work t)).setCore core (k.setG (fD w) (BitVec.ofNat 32 v)).next))

/-- FREE (R107). -/
def execFree (core : CoreId) (s : State) : Result :=
  .next (s.issue core 0x11 (fun _ => true) (fun w _ k s =>
    (s.modStrand (fStrand w) (fun x => x.freeOldest k.member)).setCore core k.next))

/-- Queues a transfer in the DMA queue of 16, or stalls while it is full (R104); requests of FETCHes at its
head leave at once. -/
def State.queueDma (s : State) (c : Nat) (r : Run) (k : CoreSt) (op : DmaOp) : State :=
  if 16 ≤ k.dmaQ.length then s.setCore c { k with run := some { r with stallDma := true } }
  else
    let s := s.setCore c ({ k with dmaQ := k.dmaQ ++ [{ op with work := r.work }] } : CoreSt).next
    State.drainFetch 17 c s

/-- EMIT (R104, R107). -/
def execEmit (core : CoreId) (s : State) : Result :=
  .next (s.issue core 0x12 (fun _ => true) (fun w r k s => s.queueDma core r k {
    kind := 0, strand := fStrand w, area := (k.gr (fA w)).toNat, shape := fShape w
    last := w.toNat.testBit 20, empty := w.toNat.testBit 21 }))

/-- FETCH (R68, R104). -/
def execFetch (core : CoreId) (s : State) : Result :=
  .next (s.issue core 0x13 (fun _ => true) (fun w r k s => s.queueDma core r k {
    kind := 2, strand := fStrand w, area := (k.gr (fA w)).toNat, shape := fShape w }))

/-- STORE (R68, R104). -/
def execStore (core : CoreId) (s : State) : Result :=
  .next (s.issue core 0x14 (fun _ => true) (fun w r k s => s.queueDma core r k {
    kind := 1, strand := fStrand w, area := (k.gr (fA w)).toNat, offset := (k.gr (fB w)).toNat, shape := fShape w }))

/-- Whether a STORE of a core on a strand is still to be performed: queued, or in flight (R104). Of a GATHER strand, whose
STOREs come from several members, those of the core's own member count (DESIGN CHOICE, log 127). -/
def State.storing (s : State) (k : CoreSt) (n : Nat) : Bool :=
  k.dmaQ.any (fun d => decide (d.kind = 1) && decide (d.strand = n)) ||
  (match s.strand? n with
   | some x => x.flight.any (fun t => decide (t.srcMember = k.member))
   | none => false)

/-- SWAIT (R104). -/
def execSwait (core : CoreId) (s : State) : Result :=
  .next (s.issue core 0x15 (fun _ => true) (fun w r k s =>
    s.setCore core (if s.storing k (fStrand w) then { k with run := some { r with swaitOn := some (fStrand w) } } else k.next)))

/-- WAIT (R104, R114): units with no outstanding operation; the vector unit has none between instructions. R114 lists the
units of MASK [2:0] as array, DMA, vector and gives them no bit numbers: bit 0 is taken as the array, bit 1 as the DMA
engine and bit 2 as the vector unit (DESIGN CHOICE, log 107). -/
def execWait (core : CoreId) (s : State) : Result :=
  .next (s.issue core 0x18 (fun _ => true) (fun w _ k s =>
    let array := w.toNat.testBit 0 && (!k.arrQ.isEmpty || k.drain.isSome || !k.passes.isEmpty || k.loading)
    let dma := w.toNat.testBit 1 && !k.dmaQ.isEmpty
    if array || dma then s else s.setCore core k.next))

end Sys2Proof.Machine
end

