-- ==== Sys2Proof/Machine/Array.lean ====
section
/-! DEFINITION. The systolic array (R86-R97, R104, R105, R120-R132): the array queue, weight planes and loads,
weight-stationary and output-stationary passes, the accumulator bank, the anchor and ADRAIN. An instruction enters the
queue when the sequencer issues it and starts, in order, once nothing holds it back. A pass's results are formed when it
starts, from operands that its locks keep, and land in the bank when it retires. An ADRAIN reads its rows while later
instructions start. -/

namespace Sys2Proof.Machine

/-- The load into a plane. -/
def CoreSt.load (k : CoreSt) (p : Bool) : Option WLoad := if p then k.load1 else k.load0
def CoreSt.setLoad (k : CoreSt) (p : Bool) (l : Option WLoad) : CoreSt := if p then { k with load1 := l } else { k with load0 := l }
def CoreSt.plane (k : CoreSt) (p : Bool) : Plane := if p then k.plane1 else k.plane0
def CoreSt.setPlane (k : CoreSt) (p : Bool) (v : Plane) : CoreSt := if p then { k with plane1 := v } else { k with plane0 := v }

/-! ## Weight planes (R89, R90) -/

/-- Whether the FP4 weight tile that a WLOAD loads is for an FP4 pair: as the next MMW in the program that names its shape
says. The spec leaves open how the load of an FP4 tile is told (DESIGN CHOICE, log 108). -/
def pairsNext (p : Program) (at_ sh : Nat) : Bool :=
  match (p.code.drop at_ ++ p.code.take at_).find? (fun w => fOp w == 0x22 && fShape2 w == sh) with
  | some w => decide ((((p.shapes[fShape w]?).getD {}).fmt.toNat) % 128 = 1)
  | none => true

/-- The plane that a weight tile's bytes make: array row k and column n take weight k of tile row n in bits [w - 1:0]; for an
FP4 pair (`two`) each cell takes two, the even K index in bits [3:0] (R86, R89, R90). Of a tile larger than the array the
first 256 rows and columns are taken (DESIGN CHOICE, log 127). Weights wider than a cell have no stated form: the cell is
a free value (`free` numbers it). -/
def planeOf (sh : Shape) (two : Bool) (bs : List Byte) (free : Nat) : Plane :=
  let f := sh.fmt.toNat
  let rows := min 256 (if two then (sh.cols + 1) / 2 else sh.cols)
  let cell := fun (k n : Nat) =>
    if 16 < elemBits f then (BitVec.ofNat 16 (Config.free32 (free + 256 * k + n)).toNat, 127)
    else if two then
      let lo := operand f sh.rows sh.cols bs n (2 * k)
      let hi := if 2 * k + 1 < sh.cols then operand f sh.rows sh.cols bs n (2 * k + 1) else (0, 127)
      (BitVec.ofNat 16 (lo.1 + 16 * hi.1), lo.2)
    else
      let x := operand f sh.rows sh.cols bs n k
      (BitVec.ofNat 16 x.1, x.2)
  let at_ := (List.range rows).flatMap (fun k => (List.range (min 256 sh.rows)).map (fun n => (256 * k + n, cell k n)))
  { cells := (at_.filter (fun e => e.2.1 != 0)).map (fun e => (e.1, e.2.1))
    scales := (at_.filter (fun e => e.2.2 != 127)).map (fun e => (e.1, BitVec.ofNat 8 e.2.2)) }

/-- The weight of K index j in array column n as a pass reads it under a named format: its bits and scale. An FP4 pair reads
bits [3:0] or [7:4] of cell j / 2, any other bits [w - 1:0] of cell j, whatever was loaded there (R90). -/
def Plane.weight (p : Plane) (pair4 : Bool) (fmt j n : Nat) : Nat × Nat :=
  let raw := fun (k : Nat) => (tget p.cells (256 * k + n) 0).toNat
  let scale := fun (k : Nat) => (tget p.scales (256 * k + n) p.unlisted).toNat
  if pair4 then (raw (j / 2) / (if j % 2 = 0 then 1 else 16) % 16, scale (j / 2))
  else (raw j % 2 ^ elemBits fmt, scale j)

/-- WLOAD_COMPLETE (R89): the plane holds the weights. -/
def CoreSt.completeLoad (k : CoreSt) (p : Bool) : CoreSt :=
  match k.load p with
  | some l => if l.done then k else (k.setPlane p l.fill).setLoad p (some { l with done := true, fill := {} })
  | none => k

/-! ## Sums (R87, R120-R132) -/

/-- An operand as a product takes it: format, bits, scale. -/
abbrev Opd := Nat × Nat × Nat

/-- One step of an exact sum: the quantised products that enter it (R123, R124). -/
def exactStep (a : Int) (x : Int × Bool) (ps : List (Opd × Opd)) : Int × Bool :=
  let qs := ps.map (fun p => exactProduct p.1.1 p.1.2.1 p.1.2.2 p.2.1 p.2.2.1 p.2.2.2 a)
  accStep x (qs.map (·.1)).sum (qs.any (·.2))

/-- The products of an FP4 pair, two to a step (R124). -/
def inPairs {α : Type} : List α → List (List α)
  | x :: y :: t => [x, y] :: inPairs t
  | [x] => [[x]]
  | [] => []

/-- Continues an accumulator with the products of a result in ascending k (R124, R132). -/
def sumUp (fp two : Bool) (a : Int) (start : AccEntry) (ps : List (Opd × Opd)) : AccEntry :=
  if fp then
    ({ fp := true, bits := ps.foldl (fun x p => fAdd x (fpProduct p.1.1 p.1.2.1 p.1.2.2 p.2.1 p.2.2.1 p.2.2.2)) start.bits } : AccEntry).sealed
  else
    let x := (if two then inPairs ps else ps.map (fun p => [p])).foldl (exactStep a) (start.val, start.flag)
    ({ fp := false, val := x.1, flag := x.2 } : AccEntry).sealed

/-! ## Passes (R88, R91-R94) -/

/-- Whether a pass is of an FP4 pair. -/
def Pass.two (p : Pass) : Bool := isFp4Pair p.shapeA.fmt.toNat p.shapeB.fmt.toNat

/-- The operands of product k of result row i and column j: of an MMW, the activation and the weight in the plane (R88);
of an MMO, those of A and B (R91). -/
def Pass.opd (p : Pass) (i j k : Nat) : Opd × Opd :=
  let fa := p.shapeA.fmt.toNat
  let fb := p.shapeB.fmt.toNat
  ((fa, operand fa p.shapeA.rows p.shapeA.cols p.bytesA i k),
   (fb, if p.mmo then (if j < p.shapeB.rows then operand fb p.shapeB.rows p.shapeB.cols p.bytesB j k else (0, 127)) else p.weights.weight p.two fb k j))

/-- The sum of a result's first m products, on what the pass continues. -/
def Pass.sumTo (p : Pass) (i j m : Nat) : AccEntry :=
  sumUp p.fp p.two p.anchor (tget p.start (256 * i + j) { fp := p.fp }) ((List.range m).map (p.opd i j))

/-- The result of row i and column j. -/
def Pass.result (p : Pass) (i j : Nat) : AccEntry := p.sumTo i j p.shapeA.cols

/-- The results of a weight-stationary pass in landing order: row i, column j (R88, R92). -/
def Pass.mmwWrites (p : Pass) : List BankWrite :=
  (List.range p.shapeA.rows).flatMap (fun i => (List.range p.shapeB.rows).map (fun j =>
    { row := (p.base + i) % 512, col := j, entry := p.result i j }))

/-- The cell accumulators after an output-stationary pass, keyed 256 x row + column (R91). -/
def Pass.cells (p : Pass) : Tab AccEntry :=
  (List.range p.shapeA.rows).foldl (fun t i => (List.range p.shapeB.rows).foldl (fun t j => tput t (256 * i + j) (p.result i j)) t) p.start

/-- What a drain writes, in landing order: the last row first (R91). -/
def drainWrites (cells : Tab AccEntry) (fp : Bool) (m n row : Nat) : List BankWrite :=
  (List.range m).reverse.flatMap (fun i => (List.range n).map (fun j =>
    { row := (row + i) % 512, col := j, entry := tget cells (256 * i + j) { fp := fp } }))

/-- Occupancy P of a pass (R92). -/
def occupancy (mmo : Bool) (a b : Shape) : Nat :=
  let bf := decide (a.fmt.toNat = 7)
  if mmo then (if bf then 4 * a.cols else if isFp4Pair a.fmt.toNat b.fmt.toNat then a.cols / 2 else a.cols)
  else if bf then 4 * a.rows else a.rows

/-- The half cell-cycles in which a pass's cells multiply operands that are both not zero: two for a product, one for
half of an FP4 pair, eight for one of BF16 (R87, R97). -/
def Pass.ungated (p : Pass) : Nat :=
  let each := if p.two then 1 else if p.shapeA.fmt.toNat = 7 then 8 else 2
  let live := fun (i j : Nat) => ((List.range p.shapeA.cols).filter (fun k =>
    let x := p.opd i j k
    !encodesZero x.1.1 x.1.2.1 && !encodesZero x.2.1 x.2.2.1)).length
  each * (((List.range p.shapeA.rows).flatMap (fun i => (List.range p.shapeB.rows).map (live i))).foldl (· + ·) 0)

/-- Counts a pass's cell-cycles, gated and not, over the columns that are not clock-gated (R97, R98, R380). -/
def CoreSt.countPass (k : CoreSt) (p : Pass) : CoreSt :=
  { k with act.ungated := k.act.ungated + p.ungated, act.gated := k.act.gated + (2 * p.steps * 256 * k.cwidth - p.ungated) }

/-- An activation register: one operand, or the two of an FP4 pair, of which the rule gives no common residue code: it is a
free value (R86, log 105). -/
def Pass.actReg (p : Pass) (r i : Nat) : ActReg :=
  let f := p.shapeA.fmt.toNat
  let x := fun (k : Nat) => if k < p.shapeA.cols then operand f p.shapeA.rows p.shapeA.cols p.bytesA r k else (0, 127)
  if p.two then
    let lo := x (2 * i)
    let w := lo.1 + 16 * (x (2 * i + 1)).1
    { word := BitVec.ofNat 16 w, scale := BitVec.ofNat 8 lo.2, res := (Config.free32 w).toNat % 8 }
  else
    let y := x i
    { word := BitVec.ofNat 16 y.1, scale := BitVec.ofNat 8 y.2, res := residue (sigInt f y.1) }

/-- The partial sums that the last row of an MMW leaves down a column: row r's cell holds the sum of the products of rows 0 to
r, and from the last row with an activation on the whole sum (R86, R90, R120). -/
def Pass.columnSums (p : Pass) (j : Nat) : List (Nat × AccEntry) :=
  let i := p.shapeA.rows - 1
  let each := if p.two then 2 else 1
  (List.range 256).map (fun r => (256 * r + j, p.sumTo i j (min p.shapeA.cols (each * (r + 1)))))

/-- What the last row or step of a pass leaves in the activation registers, which it crosses in every column, and, of an MMW,
in the partial-sum registers (R86, log 105). -/
def CoreSt.wave (k : CoreSt) (p : Pass) : CoreSt :=
  let each := if p.two then 2 else 1
  let west := if p.mmo then (List.range p.shapeA.rows).map (fun r => (r, p.actReg r ((p.shapeA.cols - 1) / each)))
    else (List.range (min 256 ((p.shapeA.cols + each - 1) / each))).map (fun r => (r, p.actReg (p.shapeA.rows - 1) r))
  { k with
    actReg := west.flatMap (fun x => (List.range 256).map (fun c => (256 * x.1 + c, x.2)))
    psum := if p.mmo then k.psum else (List.range p.shapeB.rows).flatMap p.columnSums }

/-! ## Starting a queued instruction (R89-R91, R95, R96, R104, R144) -/

/-- Whether a started ADRAIN has yet to read one of some bank rows (R96). -/
def CoreSt.drainHolds (k : CoreSt) (base n : Nat) : Bool :=
  match k.drain with
  | some d => (List.range (k.shape (fShape d.op.word)).rows).any (fun i =>
      decide (d.next ≤ i) && decide (((d.op.b + i) % 512 + 512 - base % 512) % 512 < n))
  | none => false

/-- Whether a pass that writes n bank rows from a base on may issue: no Hallmark event stops issue, and no ADRAIN has yet to
read one of those rows (R96, R144). -/
def CoreSt.mayIssue (k : CoreSt) (base n : Nat) : Bool := !k.hstop && !k.drainHolds base n

/-- WLOAD (R89, R90, R105, R179): into the shadow plane, once no other load is under way. -/
def State.startWload (s : State) (c : Nat) (op : ArrOp) : Option State :=
  let k := s.core c
  if k.loading then none
  else
    let sh := k.shape (fShape op.word)
    some (match s.consume c (areaOf op.a) sh.payload op.ecc with
      | (s, none) => s.poisonStop c (areaOf op.a) sh.payload op.work
      | (s, some bs) =>
        let l : WLoad := { plane := !k.active, src := op.a, words := sh.payload / 8, fill := planeOf sh (decide (sh.fmt.toNat % 128 = 1) && (k.prog.map (fun (p : Program) => pairsNext p (op.instr + 1) (fShape op.word))).getD true) bs s.free }
        let s := if 16 < elemBits sh.fmt.toNat then { s with free := s.free + 65536 } else s
        s.modCore c (fun k => k.setLoad (!k.active) (some l)))

/-- SWAP (R90): waits for a load in progress. -/
def State.startSwap (s : State) (c : Nat) : Option State :=
  if (s.core c).loading then none else some (s.modCore c (fun k => { k with active := !k.active }))

/-- MMW (R88, R90, R94, R105, R144, R179). -/
def State.startMmw (s : State) (c : Nat) (op : ArrOp) : Option State :=
  let k := s.core c
  if !k.mayIssue op.b (k.shape (fShape op.word)).rows then none
  else
    let a := k.shape (fShape op.word)
    let b := k.shape (fShape2 op.word)
    some (match s.consume c (areaOf op.a) a.payload op.ecc with
      | (s, none) => s.poisonStop c (areaOf op.a) a.payload op.work
      | (s, some acts) =>
        let src := match k.load k.active with | some l => [(l.src, l.words)] | none => []
        let p : Pass := {
          work := op.work, acc := op.word.toNat.testBit 28, fp := (pairKind a.fmt.toNat b.fmt.toNat).getD false
          plane := some k.active, locks := (op.a, a.payload / 8) :: src, rows := a.rows, steps := occupancy false a b, instr := op.instr
          shapeA := a, shapeB := b, bytesA := acts, weights := k.plane k.active, anchor := k.anchor, base := op.b }
        let p := { p with writes := p.mmwWrites }
        s.modCore c (fun k =>
          (({ k with passes := k.passes ++ [p] } : CoreSt).setLoad k.active ((k.load k.active).map (fun l => { l with used := true }))
            |>.countPass p).wave p))

/-- MMO (R91, R94, R105, R144, R179): `ecc` counts the words of A and then those of B. -/
def State.startMmo (s : State) (c : Nat) (op : ArrOp) : Option State :=
  let k := s.core c
  if !k.mayIssue op.c (if op.word.toNat.testBit 29 then (k.shape (fShape op.word)).rows else 0) then none
  else
    let a := k.shape (fShape op.word)
    let b := k.shape (fShape2 op.word)
    let na := a.payload / 8
    some (match s.consume c (areaOf op.a) a.payload (op.ecc.filter (fun x => decide (x.1 < na))) with
      | (s, none) => s.poisonStop c (areaOf op.a) a.payload op.work
      | (s, some as) =>
        match s.consume c (areaOf op.b) b.payload ((op.ecc.filter (fun x => decide (na ≤ x.1))).map (fun x => (x.1 - na, x.2))) with
        | (s, none) => s.poisonStop c (areaOf op.b) b.payload op.work
        | (s, some bs) =>
          let fp := (pairKind a.fmt.toNat b.fmt.toNat).getD false
          let fresh := k.accFresh || k.cellAcc.any (fun e => e.2.fp != fp)
          let drain := op.word.toNat.testBit 29
          let p : Pass := {
            work := op.work, mmo := true, acc := op.word.toNat.testBit 28, fp := fp, drain := drain, fresh := fresh
            locks := [(op.a, na), (op.b, b.payload / 8)], rows := a.rows, steps := occupancy true a b, instr := op.instr
            shapeA := a, shapeB := b, bytesA := as, bytesB := bs, anchor := k.anchor, start := if fresh then [] else k.cellAcc, base := op.c }
          let cells := p.cells
          let p := { p with writes := if drain then drainWrites cells fp a.rows b.rows op.c else [] }
          s.modCore c (fun k => (({ k with
            passes := k.passes ++ [p], accFresh := drain
            cellAcc := if drain then [] else cells, shadowAcc := if drain then cells else k.shadowAcc } : CoreSt).countPass p).wave p))

/-- A bank entry. -/
def CoreSt.bankAt (k : CoreSt) (row col : Nat) : AccEntry := tget k.bank (256 * row + col) {}

/-- Whether a pass in the array still writes one of some bank rows; a held entry counts (R96, R101, R144). -/
def CoreSt.rowsDue (k : CoreSt) (row n : Nat) : Bool :=
  k.passes.any (fun p => p.writes.any (fun w => decide ((w.row + 512 - row % 512) % 512 < n)))

/-- Whether a pass that waits in the array queue will write a bank row (R101). -/
def CoreSt.rowQueued (k : CoreSt) (row : Nat) : Bool :=
  k.arrQ.any (fun op =>
    let base := if fOp op.word = 0x22 then op.b else op.c
    (decide (fOp op.word = 0x22) || (decide (fOp op.word = 0x23) && op.word.toNat.testBit 29)) &&
      decide ((row % 512 + 512 - base % 512) % 512 < (k.shape (fShape op.word)).rows))

/-- A bank entry converted to an element of a format other than FIX72, or its integer on the FIX72 grid, with the relation of
the conversion and whether it sets the run flag (R126, R134-R136, R141). -/
def AccEntry.drained (e : AccEntry) (sh : Shape) (anchor : Int) : CheckRel × Nat × Bool :=
  let v := e.value anchor
  let flagged := !e.fp && e.flag
  if sh.fmt = 10 then
    let x := e.fix72 anchor sh.anchor
    (relOf v (.ofInt x.1 sh.anchor), 0, flagged || x.2)
  else
    let code := convert sh.fmt.toNat v
    (relOf v (elemValue sh.fmt.toNat code), code, flagged)

/-- Where the digits of FIX72 elements, or the elements, of one row go: offset and bytes (R58). -/
def rowParts (sh : Shape) (row : Nat) (xs : List (CheckRel × Nat × Bool)) : List (Nat × List Byte) :=
  if sh.fmt = 10 then
    let ds := xs.map (fun x => fix72Digits x.1.q)
    (List.range 9).map (fun i => (i * sh.rows * sh.cols + row * sh.cols, ds.map (fun d => d.getD i 0)))
  else [(row * sh.cols * elemBits sh.fmt.toNat / 8, packElems (elemBits sh.fmt.toNat) (xs.map (fun x => x.2.1)))]

/-- Bytes that the elements of a shape fill. -/
def shapeFilled (sh : Shape) : Nat := if sh.fmt = 10 then 9 * sh.rows * sh.cols else (sh.rows * sh.cols * elemBits sh.fmt.toNat + 7) / 8

/-- What a run keeps of its last ADRAIN. -/
def Drain.done (d : Drain) (sh : Shape) : VecDone :=
  { units := [10], instr := d.op.instr, vals := d.vals, area := d.op.a, cols := sh.cols
    width := if sh.fmt = 10 then 72 else elemBits sh.fmt.toNat, stride := if sh.fmt = 10 then sh.rows * sh.cols else 0 }

/-- An ADRAIN reads its next row, converts and writes it; after the last one it is over (R96). -/
def State.drainRow (s : State) (c : Nat) (d : Drain) (sh : Shape) : State :=
  let k := s.core c
  let xs := (List.range sh.cols).map (fun j => (k.bankAt ((d.op.b + d.next) % 512) j).drained sh k.anchor)
  let a := areaOf d.op.a
  let last := decide (sh.rows ≤ d.next + 1)
  let tail := if last then [(shapeFilled sh, List.replicate (sh.payload - shapeFilled sh) (0 : Byte))] else []
  let s := (rowParts sh d.next xs ++ tail).foldl (fun (s : State) p => if p.2.isEmpty then s else (s.areaWrite c (a.plus p.1) p.2).useSpad c (a.plus p.1) p.2.length) s
  let d : Drain := { d with next := d.next + 1, vals := d.vals ++ xs.map (·.1) }
  s.modCore c (fun k => { k with
    runFlag := k.runFlag || xs.any (fun x => x.2.2), drain := if last then none else some d
    run := if last then k.run.map (fun r => if r.work = d.op.work then { r with lastDrain := some (d.done sh) } else r) else k.run })

/-- Whether an ADRAIN's next row waits: a pass issued before it will still write the row, or the row's destination is
locked, by the passes in the array queue too (R96, R104, R105). -/
def CoreSt.drainStalls (k : CoreSt) (d : Drain) (sh : Shape) : Bool :=
  k.rowsDue (d.op.b + d.next) 1 ||
    (rowParts sh d.next (List.replicate sh.cols ({}, 0, false))).any (fun p => k.locked ((areaOf d.op.a).plus p.1) p.2.length)

/-- The ADRAIN that has started reads its rows until one has to wait. -/
def State.runDrain : Nat → Nat → State → State
  | 0, _, s => s
  | fuel + 1, c, s =>
    let k := s.core c
    match k.drain with
    | some d => if k.drainStalls d (k.shape (fShape d.op.word)) then s else State.runDrain fuel c (s.drainRow c d (k.shape (fShape d.op.word)))
    | none => s

/-- ADRAIN (R58, R96, R104): leaves the queue when it starts, once the one before it has read its last row. -/
def State.startAdrain (s : State) (c : Nat) (op : ArrOp) : Option State :=
  if (s.core c).drain.isSome then none else some (s.modCore c (fun k => { k with drain := some { op := op } }))

/-- Starts an instruction taken off the array queue; none: it has to wait. -/
def State.startArray (s : State) (c : Nat) (op : ArrOp) : Option State :=
  match fOp op.word with
  | 0x20 => s.startWload c op
  | 0x21 => s.startSwap c
  | 0x22 => s.startMmw c op
  | 0x23 => s.startMmo c op
  | _ => s.startAdrain c op

/-- The array goes on: the ADRAIN under way reads what rows it can, and the instructions at the head of the queue start for
as long as none has to wait (R96, R104). -/
def State.goOn : Nat → Nat → State → State
  | 0, _, s => s
  | fuel + 1, c, s =>
    let s := State.runDrain 512 c s
    match (s.core c).arrQ with
    | [] => s
    | op :: rest =>
      match (s.modCore c (fun k => { k with arrQ := rest })).startArray c op with
      | some t => State.goOn fuel c t
      | none => s

/-- The same, unless the core's region is not ON or stands in a bubble, in which the array holds its state (R382). -/
def State.pumpArray (fuel c : Nat) (s : State) : State :=
  if s.bubbled c || decide ((s.region c).state ≠ .on) then s else State.goOn fuel c s

/-- Queues an array instruction in the array queue of 8; the sequencer stalls while it is full (R104). -/
def State.queueArray (s : State) (c : Nat) (w : W64) (r : Run) (k : CoreSt) (ecc : List (Nat × EccFind)) : State :=
  if 8 ≤ k.arrQ.length then s
  else
    let op : ArrOp := { word := w, a := (k.gr (fA w)).toNat, b := (k.gr (fB w)).toNat, c := (k.gr (fC w)).toNat
                        work := r.work, instr := k.pc, ecc := ecc }
    State.pumpArray 9 c (s.setCore c ({ k with arrQ := k.arrQ ++ [op] } : CoreSt).next)

/-- WLOAD (R89, R104). -/
def execWload (core : CoreId) (ecc : List (Nat × EccFind)) (s : State) : Result :=
  .next (s.issue core 0x20 (fun _ => true) (fun w r k s => s.queueArray core w r k ecc))

/-- WLOAD_COMPLETE (R89, R382): what waited for the load goes on. -/
def execWloadComplete (core : CoreId) (s : State) : Result :=
  .next (if s.bubbled core then s else State.pumpArray 9 core (s.modCore core (fun k => (k.completeLoad false).completeLoad true)))

/-- SWAP (R90, R104). -/
def execSwap (core : CoreId) (s : State) : Result :=
  .next (s.issue core 0x21 (fun _ => true) (fun w r k s => s.queueArray core w r k []))

/-- MMW (R88, R104). -/
def execMmw (core : CoreId) (ecc : List (Nat × EccFind)) (s : State) : Result :=
  .next (s.issue core 0x22 (fun _ => true) (fun w r k s => s.queueArray core w r k ecc))

/-- MMO (R91, R104). -/
def execMmo (core : CoreId) (ecc : List (Nat × EccFind)) (s : State) : Result :=
  .next (s.issue core 0x23 (fun _ => true) (fun w r k s => s.queueArray core w r k ecc))

/-- ADRAIN (R96, R104). -/
def execAdrain (core : CoreId) (s : State) : Result :=
  .next (s.issue core 0x25 (fun _ => true) (fun w r k s => s.queueArray core w r k []))

/-! ## Landing and retirement (R94, R105, R144) -/

/-- Writes one result of a pass to the bank. A held result is not added; under ACC = 0 its entry is set to
zero and records the pass's kind (R94, R144). -/
def CoreSt.landWrite (p : Pass) (k : CoreSt) (w : BankWrite) : CoreSt :=
  let key := 256 * w.row + w.col
  if w.held then (if p.acc then k else { k with bank := tput k.bank key { fp := p.fp } })
  else { k with bank := tput k.bank key (bankAdd p.acc (tget k.bank key {}) w.entry) }

/-- Notes on a pass that awaits its decision that a later pass has written some entries (R147). -/
def Pass.writtenOver (e later : Pass) : Pass :=
  let hits := fun (w : BankWrite) => w.held && later.writes.any (fun x => !x.held && x.row == w.row && x.col == w.col)
  if e.events.isEmpty then e
  else if e.fp || later.fp then { e with fpOver := e.fpOver || e.writes.any hits }
  else { e with writes := e.writes.map (fun w => if hits w then { w with overlaid := if w.overlaid = some true then some true else some (!later.acc) } else w) }

/-- Whether a pass has landed what it can and awaits its decision. -/
def Pass.waits (p : Pass) : Bool := !p.events.isEmpty && p.landed

/-- Whether a pass that waits in the array queue will use what a plane holds now: queued SWAPs move the roles, and a
queued WLOAD replaces the contents (R90, R105). -/
def CoreSt.queueUses (k : CoreSt) (plane : Bool) : Bool :=
  (k.arrQ.foldl (fun (x : Bool × Bool × Bool) op =>
    match fOp op.word with
    | 0x20 => (x.1, x.2.1 || (!x.1) == plane, x.2.2)
    | 0x21 => (!x.1, x.2)
    | 0x22 => (x.1, x.2.1, x.2.2 || (x.1 == plane && !x.2.1))
    | _ => x) (k.active, false, false)).2.2

/-- Releases the source of a weight load once no issued pass uses its plane any more (R105). -/
def CoreSt.unlockLoads (k : CoreSt) : CoreSt :=
  let rel := fun (p : Bool) (l : Option WLoad) => l.map (fun l =>
    if l.used && l.done && !k.passes.any (fun x => x.plane == some p) && !k.queueUses p then { l with lock := false } else l)
  { k with load0 := rel false k.load0, load1 := rel true k.load1 }

/-- An array with no pass in it hands on nothing. -/
def CoreSt.still (k : CoreSt) : CoreSt := if k.passes.isEmpty then { k with actReg := [], psum := [] } else k

/-- The oldest pass that has results to land, or none to hold it back, lands them; a pass with no event
retires (R92, R105). -/
def CoreSt.retire (k : CoreSt) : CoreSt :=
  match k.passes.findIdx? (fun p => !p.waits) with
  | none => k
  | some i =>
    let p := (k.passes[i]?).getD {}
    let k := p.writes.foldl (CoreSt.landWrite p) k
    let before := (k.passes.take i).map (fun e => e.writtenOver p)
    let after := k.passes.drop (i + 1)
    if p.events.isEmpty then (({ k with passes := before ++ after } : CoreSt).unlockLoads).still
    else { k with passes := before ++ [{ p with landed := true, writes := p.writes.filter (·.held) }] ++ after }

/-- PASS_RETIRE (R92, R94, R105, R132, R144, R382). -/
def execPassRetire (core : CoreId) (s : State) : Result :=
  .next (if s.bubbled core then s else State.pumpArray 9 core (s.modCore core CoreSt.retire))

/-! ## ANCH (R95) -/

/-- ANCH (R95): waits until every issued pass has retired and every ADRAIN has completed. -/
def execAnch (core : CoreId) (s : State) : Result :=
  .next (s.issue core 0x24 (fun _ => true) (fun w _ k s =>
    if !k.passes.isEmpty || k.drain.isSome || k.arrQ.any (fun op => decide (0x22 ≤ fOp op.word)) then s
    else s.setCore core ({ k with anchor := signed 16 w.toNat } : CoreSt).next))

end Sys2Proof.Machine
end

