-- ==== Sys2Proof/Machine/Crypto.lean ====
section
/-! DEFINITION. The cryptographic functions that R468, R469 and R475 name by standard: SHA-384, HMAC and HKDF over
it, AES-256-GCM, ECDSA and ECDH over brainpoolP384r1, and the certificates (X.509 v3 in DER). What the standards leave to
chance, the scalars of ephemeral keys and signatures and a nonce, is a free value (log 13). -/

namespace Sys2Proof.Machine

/-- The value of bytes, most significant first (R468). -/
def beNat (bs : List Byte) : Nat := bs.foldl (fun a b => 256 * a + b.toNat) 0

/-- n bytes of a value, most significant first (R468). -/
def be (n v : Nat) : List Byte := (le n v).reverse

/-- The exclusive or of two byte strings, of the length of the shorter. -/
def xorBytes (a b : List Byte) : List Byte := List.zipWith (fun (x y : Byte) => x ^^^ y) a b

/-! ## SHA-384 (FIPS 180-4) -/

/-- The first n primes from a number on, among the next so many numbers. -/
def primesFrom : Nat → Nat → Nat → List Nat
  | 0, _, _ => []
  | k + 1, n, p =>
    if n = 0 then []
    else if (List.range p).all (fun d => decide (d < 2) || decide (p % d ≠ 0)) then p :: primesFrom k (n - 1) (p + 1)
    else primesFrom k n (p + 1)

/-- The largest root below 2^b whose e-th power is at most v, found bit by bit. -/
def rootBits (e v : Nat) : Nat → Nat → Nat
  | 0, r => r
  | b + 1, r => rootBits e v b (if (r + 2 ^ b) ^ e ≤ v then r + 2 ^ b else r)

/-- The first 64 bits of the fractional part of the e-th root of a number. -/
def rootFraction (e p : Nat) : W64 := BitVec.ofNat 64 (rootBits e (p * 2 ^ (64 * e)) 70 0)

/-- The 80 round constants: cube roots of the first 80 primes. -/
def shaK : List W64 := (primesFrom 420 80 2).map (rootFraction 3)

/-- The initial hash value of SHA-384: square roots of the ninth to sixteenth primes. -/
def shaInit : List W64 := ((primesFrom 420 16 2).drop 8).map (rootFraction 2)

def shaRot (n : Nat) (x : W64) : W64 := x.rotateRight n

/-- The message schedule, extended by so many words; newest first. -/
def shaSchedule : Nat → List W64 → List W64
  | 0, w => w
  | k + 1, w =>
    let a := w.getD 14 0
    let b := w.getD 1 0
    shaSchedule k ((w.getD 15 0 + (shaRot 1 a ^^^ shaRot 8 a ^^^ (a >>> 7)) + w.getD 6 0 + (shaRot 19 b ^^^ shaRot 61 b ^^^ (b >>> 6))) :: w)

/-- One round over the eight working variables. -/
def shaRound (v : List W64) (kw : W64 × W64) : List W64 :=
  match v with
  | [a, b, c, d, e, f, g, h] =>
    let t1 := h + (shaRot 14 e ^^^ shaRot 18 e ^^^ shaRot 41 e) + ((e &&& f) ^^^ (~~~ e &&& g)) + kw.1 + kw.2
    let t2 := (shaRot 28 a ^^^ shaRot 34 a ^^^ shaRot 39 a) + ((a &&& b) ^^^ (a &&& c) ^^^ (b &&& c))
    [t1 + t2, a, b, c, d + t1, e, f, g]
  | v => v

/-- One 128-byte block. -/
def shaBlock (h : List W64) (block : List Byte) : List W64 :=
  let w := ((cutInto 8 block).map (fun x => BitVec.ofNat 64 (beNat x))).reverse
  List.zipWith (· + ·) h ((shaK.zip (shaSchedule 64 w).reverse).foldl shaRound h)

/-- SHA-384 (R468). -/
def sha384 (m : List Byte) : List Byte :=
  let pad := m ++ [0x80] ++ List.replicate ((239 - m.length % 128) % 128) 0 ++ be 16 (8 * m.length)
  (((cutInto 128 pad).foldl shaBlock shaInit).take 6).flatMap (fun x => be 8 x.toNat)

/-- HMAC-SHA-384 (RFC 2104). -/
def hmac384 (key m : List Byte) : List Byte :=
  let k := padTo 128 (if 128 < key.length then sha384 key else key)
  sha384 (k.map (· ^^^ 0x5C) ++ sha384 (k.map (· ^^^ 0x36) ++ m))

/-- The 96 bytes that HKDF-SHA-384 yields from a secret and a salt, with no info (R475, RFC 5869). -/
def hkdf96 (secret salt : List Byte) : List Byte :=
  let prk := hmac384 salt secret
  let t1 := hmac384 prk [0x01]
  t1 ++ hmac384 prk (t1 ++ [0x02])

/-! ## AES-256-GCM (FIPS 197, SP 800-38D) -/

/-- Doubling in the field of AES. -/
def aesDouble (x : Byte) : Byte := if x.getLsbD 7 then (x <<< 1) ^^^ 0x1B else x <<< 1

/-- The product in the field of AES, over so many bits of the second factor. -/
def aesMul : Nat → Byte → Byte → Byte
  | 0, _, _ => 0
  | k + 1, x, y => (if y.getLsbD 0 then x else 0) ^^^ aesMul k (aesDouble x) (y >>> 1)

/-- x to the power 2^(k + 1) - 2: with k = 7 the inverse. -/
def aesInv : Nat → Byte → Byte
  | 0, _ => 1
  | k + 1, x => let s := aesMul 8 x x; aesMul 8 s (aesInv k s)

/-- The S-box. -/
def aesSub (x : Byte) : Byte :=
  let i := aesInv 7 x
  i ^^^ i.rotateLeft 1 ^^^ i.rotateLeft 2 ^^^ i.rotateLeft 3 ^^^ i.rotateLeft 4 ^^^ 0x63

/-- The S-box as a table. -/
def aesBox : List Byte := (List.range 256).map (fun i => aesSub (BitVec.ofNat 8 i))

def aesS (x : Byte) : Byte := aesBox.getD x.toNat 0

/-- The key schedule of a 256-bit key, extended by so many words; newest first. -/
def aesSchedule : Nat → Nat → Byte → List (List Byte) → List (List Byte)
  | 0, _, _, w => w
  | k + 1, i, rc, w =>
    let t := w.headD []
    let t := if i % 8 = 0 then xorBytes ((t.drop 1 ++ t.take 1).map aesS) [rc, 0, 0, 0] else if i % 8 = 4 then t.map aesS else t
    aesSchedule k (i + 1) (if i % 8 = 0 then aesDouble rc else rc) (xorBytes (w.getD 7 []) t :: w)

/-- The fifteen round keys of a 256-bit key. -/
def aesKeys (key : List Byte) : List (List Byte) :=
  cutInto 16 (aesSchedule 52 8 1 (cutInto 4 (padTo 32 key)).reverse).reverse.flatten

/-- Rows shifted: byte r of column c comes from column c + r. -/
def aesShift (s : List Byte) : List Byte := (List.range 16).map (fun i => s.getD ((i + 4 * (i % 4)) % 16) 0)

/-- One column mixed. -/
def aesMix (c : List Byte) : List Byte :=
  (List.range 4).map (fun i =>
    let a := fun (n : Nat) => c.getD ((i + n) % 4) 0
    aesDouble (a 0) ^^^ (aesDouble (a 1) ^^^ a 1) ^^^ a 2 ^^^ a 3)

/-- AES-256 of one block. -/
def aesBlock (keys : List (List Byte)) (m : List Byte) : List Byte :=
  let s := ((keys.drop 1).take 13).foldl (fun s k => xorBytes ((cutInto 4 (aesShift (s.map aesS))).flatMap aesMix) k) (xorBytes m (keys.headD []))
  xorBytes (aesShift (s.map aesS)) (keys.getD 14 [])

/-- The product in the field of GCM: bits of the first factor from the left, so many of them. -/
def ghashMul : Nat → BitVec 128 → BitVec 128 → BitVec 128
  | 0, _, _ => 0
  | k + 1, x, v =>
    (if x.getLsbD 127 then v else 0) ^^^ ghashMul k (x <<< 1) (if v.getLsbD 0 then (v >>> 1) ^^^ (0xE1#128 <<< 120) else v >>> 1)

/-- GHASH of a ciphertext without additional data. -/
def ghash (h : BitVec 128) (c : List Byte) : BitVec 128 :=
  ((cutInto 16 c).map (padTo 16) ++ [be 8 0 ++ be 8 (8 * c.length)]).foldl (fun y b => ghashMul 128 (y ^^^ BitVec.ofNat 128 (beNat b)) h) 0

/-- Counter mode under a 12-byte IV: what is combined with the text, from counter 2 on. -/
def gcmStream (keys : List (List Byte)) (iv : List Byte) (n : Nat) : List Byte :=
  (List.range ((n + 15) / 16)).flatMap (fun i => aesBlock keys (padTo 12 iv ++ be 4 (i + 2)))

/-- The tag of a ciphertext. -/
def gcmTag (keys : List (List Byte)) (iv c : List Byte) : List Byte :=
  let h := BitVec.ofNat 128 (beNat (aesBlock keys (List.replicate 16 0)))
  xorBytes (be 16 (ghash h c).toNat) (aesBlock keys (padTo 12 iv ++ be 4 1))

/-- AES-256-GCM encryption under a key and a nonce: ciphertext and tag (R475). -/
def gcmSeal (key nonce plain : List Byte) : List Byte × List Byte :=
  let keys := aesKeys key
  let c := xorBytes plain (gcmStream keys nonce plain.length)
  (c, gcmTag keys nonce c)

/-- AES-256-GCM decryption; none when the tag fails (R475). -/
def gcmOpen (key nonce cipher tag : List Byte) : Option (List Byte) :=
  let keys := aesKeys key
  if tag = gcmTag keys nonce cipher then some (xorBytes cipher (gcmStream keys nonce cipher.length)) else none

/-! ## brainpoolP384r1 (RFC 5639), ECDSA and ECDH (R468, R475) -/

def bpP : Nat := 0x8CB91E82A3386D280F5D6F7E50E641DF152F7109ED5456B412B1DA197FB71123ACD3A729901D1A71874700133107EC53
def bpA : Nat := 0x7BC382C63D8C150C3C72080ACE05AFA0C2BEA28E4FB22787139165EFBA91F90F8AA5814A503AD4EB04A8C7DD22CE2826
def bpB : Nat := 0x04A8C7DD22CE28268B39B55416F0447C2FB77DE107DCD2A62E880EA53EEB62D57CB4390295DBC9943AB78696FA504C11
def bpN : Nat := 0x8CB91E82A3386D280F5D6F7E50E641DF152F7109ED5456B31F166E6CAC0425A7CF3AB6AF6B7FC3103B883202E9046565

/-- A point of the curve; none is the point at infinity. -/
abbrev Point := Option (Nat × Nat)

/-- The generator. -/
def bpG : Point :=
  some (0x1D1C64F068CF45FFA2A63A81B7C13F6B8847A3E77EF14FE3DB7FCAFE0CBD10E8E826E03436D646AAEF87B2E247D4AF1E,
    0x8ABE1D7520F9C2A45CB1EB8E95CFD55262B70B29FEEC5864E19C054FF99129280E4646217791811142820341263C5315)

/-- b to the power of the low k bits of e, modulo m. -/
def powMod (m : Nat) : Nat → Nat → Nat → Nat
  | 0, _, _ => 1
  | k + 1, b, e => (if e % 2 = 1 then b else 1) * powMod m k (b * b % m) (e / 2) % m

/-- The inverse modulo a prime of 384 bits. -/
def invMod (m x : Nat) : Nat := powMod m 384 (x % m) (m - 2)

/-- x - y modulo m. -/
def subMod (m x y : Nat) : Nat := (x % m + (m - y % m)) % m

/-- The sum of two points. -/
def pointAdd (p q : Point) : Point :=
  match p, q with
  | none, q => q
  | p, none => p
  | some (x1, y1), some (x2, y2) =>
    if x1 = x2 ∧ (y1 ≠ y2 ∨ y1 = 0) then none
    else
      let l := if x1 = x2 then (3 * x1 * x1 + bpA) * invMod bpP (2 * y1) % bpP else subMod bpP y2 y1 * invMod bpP (subMod bpP x2 x1) % bpP
      let x := subMod bpP (l * l) (x1 + x2)
      some (x, subMod bpP (l * subMod bpP x1 x) y1)

/-- The multiple of a point by the low k bits of a number. -/
def pointMul : Nat → Nat → Point → Point
  | 0, _, _ => none
  | k + 1, n, p => pointAdd (if n % 2 = 1 then p else none) (pointMul k (n / 2) (pointAdd p p))

/-- A public key: 0x04, X, Y (R468). -/
def keyBytes (p : Point) : List Byte :=
  match p with
  | some (x, y) => [0x04] ++ be 48 x ++ be 48 y
  | none => []

/-- The point that a public key's 97 bytes name; none when they name no point of the curve. -/
def keyPoint (bs : List Byte) : Point :=
  let x := beNat (cut bs 1 48)
  let y := beNat (cut bs 49 48)
  if bs.length = 97 ∧ bs.take 1 = [0x04] ∧ x < bpP ∧ y < bpP ∧ y * y % bpP = (x * x * x + bpA * x + bpB) % bpP then some (x, y) else none

/-- A private scalar as the part or chance gives it: from 1 to the order less 1. -/
def scalar (x : Nat) : Nat := 1 + x % (bpN - 1)

/-- The public key of a private scalar. -/
def publicKey (d : Nat) : List Byte := keyBytes (pointMul 384 d bpG)

/-- The X coordinate of a point modulo the order. -/
def pointR (p : Point) : Nat := ((p.map (·.1)).getD 0) % bpN

/-- Whether an ECDSA signature, 96 bytes r then s, over a digest verifies under a public key (R468). -/
def ecdsaVerify (key digest sig : List Byte) : Bool :=
  let r := beNat (sig.take 48)
  let s := beNat (sig.drop 48)
  match keyPoint key with
  | none => false
  | some q =>
    if sig.length ≠ 96 ∨ r = 0 ∨ bpN ≤ r ∨ s = 0 ∨ bpN ≤ s then false
    else
      let w := invMod bpN s
      let p := pointAdd (pointMul 384 (beNat digest * w % bpN) bpG) (pointMul 384 (r * w % bpN) (some q))
      p.isSome && decide (pointR p = r)

/-- The ECDSA signature over a digest with a private scalar and a signature's own scalar (R468). -/
def ecdsaSign (d k : Nat) (digest : List Byte) : List Byte :=
  let r := pointR (pointMul 384 k bpG)
  be 48 r ++ be 48 (invMod bpN k * (beNat digest + r * d) % bpN)

/-- The shared secret of a private scalar and a public key: the X coordinate of the product (R475). -/
def ecdhX (d : Nat) (key : List Byte) : List Byte := be 48 (((pointMul 384 d (keyPoint key)).map (·.1)).getD 0)

/-! ## Certificates (R469): X.509 v3 in DER -/

/-- The DER element at the head of bytes: its tag, its contents, the whole of it, and what follows. -/
def derHead (bs : List Byte) : Option (Byte × List Byte × List Byte × List Byte) :=
  match bs with
  | t :: l :: rest =>
    let n := if l.toNat < 128 then 0 else l.toNat - 128
    let len := if l.toNat < 128 then l.toNat else beNat (rest.take n)
    if rest.length < n + len then none
    else some (t, cut rest n len, t :: l :: rest.take (n + len), rest.drop (n + len))
  | _ => none

/-- The DER elements that bytes consist of, with their tags, contents and whole bytes, at most so many. -/
def derList : Nat → List Byte → List (Byte × List Byte × List Byte)
  | 0, _ => []
  | k + 1, bs =>
    match derHead bs with
    | some (t, c, whole, rest) => (t, c, whole) :: derList k rest
    | none => []

/-- The contents of the elements that an element's contents consist of. -/
def derInside (bs : List Byte) : List (Byte × List Byte × List Byte) := derList bs.length bs

/-- The contents of element n among some. -/
def derAt (es : List (Byte × List Byte × List Byte)) (n : Nat) : List Byte := ((es[n]?).map (fun e => e.2.1)).getD []

/-- A signature as a certificate carries it, a sequence of two integers, in the 96 bytes of R468. -/
def derSig (bs : List Byte) : List Byte :=
  let es := derInside (derAt (derInside bs) 0)
  be 48 (beNat (derAt es 0)) ++ be 48 (beNat (derAt es 1))

/-- The value of the Folhotus key-purpose extension among the extensions of a certificate: the one byte of the extension
whose identifier is the free one (log 13). -/
def certPurpose (exts : List Byte) : Option Nat :=
  let es := derInside (derAt (derInside exts) 0)
  (es.findSome? (fun e =>
    let x := derInside e.2.1
    if derAt x 0 = Config.purposeOid then (x.getLast?).map (fun v => v.2.1) else none)).bind (fun v => if v.length = 1 then some (beNat v) else none)

/-- The public key of a certificate that the root signs for a purpose; none when it fails (R469). The fields of the part that
is signed: version 3, serial number, algorithm, issuer, validity, subject, public key, and the extensions under tag 3. -/
def certKey (root : List Byte) (purpose : Nat) (cert : List Byte) : Option (List Byte) :=
  match derInside cert with
  | [(_, whole, _)] =>
    let parts := derInside whole
    let tbs := derInside (derAt parts 0)
    let body := ((parts[0]?).map (fun e => e.2.2)).getD []
    let spki := derInside (derAt tbs 6)
    let key := (derAt spki 1).drop 1
    let exts := ((tbs.find? (fun e => e.1 == 0xA3)).map (fun e => e.2.1)).getD []
    if derAt tbs 0 = [0x02, 0x01, 0x02] ∧ certPurpose exts = some purpose ∧
      ecdsaVerify root (sha384 body) (derSig ((derAt parts 2).drop 1)) = true then some key else none
  | _ => none

end Sys2Proof.Machine
end

