-- ==== Sys2Proof/Machine/Jobs.lean ====
section
/-! DEFINITION. Job operations (R71-R76): opening, loading of tables (R49-R52, R85), the checks and effects
of a commit (R53, R54, R60-R62, R72, R73, R79, R113, R221, R239, R243, R249, R252, R291, R333, R372, R385,
R412), closing and killing. -/

namespace Sys2Proof.Machine

/-! ## Opening and loading -/

/-- Refuses a descriptor with REJECTED_STATE. -/
def State.refuse (s : State) (d : Desc) (detail : Nat) : State := s.finish (descPend d) stState detail

/-- JOB_OPEN (R43, R71). -/
def execJobOpen (ring : RingId) (s : State) : Result :=
  .next (s.land ring 0x10 (fun _ => []) (fun d s =>
    if (s.job? (descJob d)).isSome || decide (64 ≤ s.jobs.length) then s.refuse d 0x8002
    else (s.setJob (descJob d) {}).finish (descPend d) stDone 0))

/-- The faults of a load's operands: TABLE_ADDR and TABLE_BYTES (R51, R267, R287). -/
def State.loadFaults (s : State) (size most : Nat) (d : Desc) : List (Nat × Bool) :=
  [(0x08, !s.hostAddrOk (descF d 0x08 8) 64 (descF d 0x10 4)), (0x10, !tableBytesOk size most (descF d 0x10 4))]

/-- Fetches the image that a load names and checks its header (R49, R269). -/
def fetchImage (mem : HostMem) (kind size most : Nat) (d : Desc) : Option (List Byte) :=
  let a := descF d 0x08 8
  let n := descF d 0x10 4
  if hostFails mem a n then none
  else
    let bs := hostRead mem a n
    if imageOk kind size most (descJob d) bs then some bs else none

/-- Whether a job is OPEN. -/
def State.openJob (s : State) (j : Nat) : Bool :=
  match s.job? j with | some k => k.phase == .opened | none => false

/-- The first index of a list whose element satisfies a condition. -/
def firstIdx {α : Type} (p : α → Bool) (l : List α) : Option Nat := (l.zipIdx.find? (fun x => p x.1)).map (·.2)

/-- The hub reads the image that a load names (R268). -/
def State.readImage (s : State) (d : Desc) : State := s.put (.hostRead (descF d 0x08 8) (descF d 0x10 4))

/-- The hub reads the program and the card that each CORE entry names (R47, R268). -/
def State.readPrograms (s : State) (es : List (List Byte)) : State :=
  (es.filter (fun e => ((stationOf (fun a n => s.hostAddrOk a 64 n) e).map (fun st => st.kind == .core)).getD false)).foldl
    (fun s e => (s.put (.hostRead (fld e 0x20 8) (fld e 0x28 4))).put (.hostRead (fld e 0x30 8) (fld e 0x2C 4))) s

/-- LOAD_STATIONS (R51, R52): form, licence (R12), state. -/
def execLoadStations (ring : RingId) (mem : HostMem) (s : State) : Result :=
  .next (s.land ring 0x11 (s.loadFaults 64 1024) (fun d s =>
    let s := s.readImage d
    match fetchImage mem 1 64 1024 d with
    | none => s.finish (descPend d) stForm 0x5000
    | some bs =>
      let s := s.readPrograms (imageEntries 64 bs)
      match stationsOf (fun a n => s.hostAddrOk a 64 n) mem 0 [] (imageEntries 64 bs) with
      | .inl detail => s.finish (descPend d) stForm detail
      | .inr sts =>
        match if s.gen.lp then none else firstIdx (fun (e : StationE) => e.kind == .loupe) sts with
        | some i => s.finish (descPend d) stLicence (0x3000 + i)
        | none =>
          if s.openJob (descJob d) then
            (s.modJob (descJob d) (fun k => { k with stations := some sts })).finish (descPend d) stDone 0
          else s.refuse d 0x8002))

/-- Whether a cross-module strand's route needs a link the device is not licensed for (R9, R85). -/
def State.unlicensed (s : State) (e : StrandE) : Bool :=
  match s.cls.place with
  | some p => !s.gen.cl && e.place != .locl && (strandRoute p e).any (fun l => decide (2 ≤ l))
  | none => false

/-- LOAD_STRANDS (R51, R52, R85). -/
def execLoadStrands (ring : RingId) (mem : HostMem) (s : State) : Result :=
  .next (s.land ring 0x12 (s.loadFaults 32 4096) (fun d s =>
    let s := s.readImage d
    match fetchImage mem 2 32 4096 d with
    | none => s.finish (descPend d) stForm 0x5000
    | some bs =>
      match strandsOf 0 [] (imageEntries 32 bs) with
      | .inl detail => s.finish (descPend d) stForm detail
      | .inr sks =>
        match firstIdx s.unlicensed sks with
        | some i => s.finish (descPend d) stLicence (0x3000 + i)
        | none =>
          if s.openJob (descJob d) then
            (s.modJob (descJob d) (fun k => { k with strands := some sks })).finish (descPend d) stDone 0
          else s.refuse d 0x8002))

/-! ## Step 1 of a commit: cross-table form -/

/-- Whether a strand names stations of the job and its modes and members suit them (R60, R72). -/
def strandEndsOk (sts : List StationE) (e : StrandE) : Bool :=
  let (a, b) := endsOf sts e
  (e.place == .fromPeer || a.isSome) && (e.place == .toPeer || b.isSome) &&
  (match a with
    | some a => decide (e.srcMember < memberCount a) && (e.srcMode == .member || a.kind == .core)
    | none => true) &&
  (match b with
    | some b => decide (e.dstMember < memberCount b) &&
        (b.kind == .core || (e.dstMode == .member && !e.slices && decide (e.bufBase = 0)))
    | none => true)

/-- The strands into a station of the job. -/
def strandsInto (sks : List StrandE) (st : StationE) : List StrandE :=
  sks.filter (fun k => k.place != .toPeer && k.dst == st.station)
/-- The strands out of a station of the job. -/
def strandsOutOf (sks : List StrandE) (st : StationE) : List StrandE :=
  sks.filter (fun k => k.place != .fromPeer && k.src == st.station)

/-- The payload of the largest result tile of a LOUPE configuration (R227). -/
def resultBytes (c : LoupeCfg) : Nat := (loupeTiles c).1 * 8 * c.k

/-- The shapes that a program's EMITs without EMPTY name on a strand. -/
def emittedShapes (p : Program) (strand : Nat) : List Shape :=
  (p.code.filter (fun w => fOp w == 0x12 && fStrand w == strand && !w.getLsbD 21)).map (fun w => (p.shapes[fShape w]?).getD {})

/-- The rules of a LOUPE station's strands (R221). -/
def loupeFormOk (sts : List StationE) (sks : List StrandE) (st : StationE) : Bool :=
  let c := st.loupe
  let ins := strandsInto sks st
  let kindOfSrc := fun (k : StrandE) => ((endsOf sts k).1).map (·.kind)
  let scores := ins.filter (fun k => kindOfSrc k == some .core)
  let merges := ins.filter (fun k => kindOfSrc k == some .loupe)
  let outs := strandsOutOf sks st
  decide (scores.length ≤ 1) && decide (merges.length ≤ 11) && decide (1 ≤ ins.length) &&
  decide (scores.length + merges.length = ins.length) && decide (outs.length = 1) &&
  merges.all (fun k => match (endsOf sts k).1 with | some a => decide (a.loupe.queries = c.queries ∧ a.loupe.k = c.k) | none => false) &&
  outs.all (fun k => decide (resultBytes c ≤ k.maxKib * 1024) &&
    (match (endsOf sts k).2 with | some b => b.kind == .core || b.kind == .loupe || b.kind == .host | none => true)) &&
  decide ((ins.map (fun k => bufferSlots sts k * slotBytes k)).foldl (· + ·) 0 ≤ 8388608) &&
  scores.all (fun k =>
    match (endsOf sts k).1 with
    | some a =>
      (emittedShapes a.program k.strand).all (fun x => decide (x.fmt = 0x08 ∧ x.cols = c.qcols ∧ x.rows ≤ c.tileRows)) &&
      decide (c.corpusBase + (if k.srcMode = .gather then memberCount a else 1) * c.shardRows ≤ 2 ^ 32)
    | none => false) &&
  (decide (c.shardRows ≠ 0) == !scores.isEmpty)

/-- Whether two byte ranges of one unit meet. -/
def Buffer.meets (a b : Buffer) : Bool :=
  a.slices == b.slices && a.unit == b.unit && decide (a.base < b.base + b.len) && decide (b.base < a.base + a.len)

/-- The resident region that a job's table gives a logical core. -/
def residentOf (sts : List StationE) (l : Nat) : Option (Nat × Nat) :=
  (sts.find? (fun e => e.kind == .core && e.resident && e.cores.contains l)).map (fun e => (4096 * e.resBase, 4096 * e.resLen))

/-- Whether a buffer lies in its store and clear of the resident region (R61). -/
def bufferOk (sts : List StationE) (b : Buffer) : Bool :=
  decide (b.base + b.len ≤ if b.slices then 67108864 else 786432) &&
  (b.slices || (match residentOf sts b.unit with
    | some (a, n) => decide (b.base + b.len ≤ a) || decide (a + n ≤ b.base)
    | none => true))

/-- The first strand entry whose buffer breaks R61, the later of a clashing pair. -/
def bufferFault (sts : List StationE) : List Buffer → List Buffer → Option Nat
  | _, [] => none
  | done, b :: rest =>
    if bufferOk sts b && !done.any (fun a => a.meets b) then bufferFault sts (done ++ [b]) rest else some b.entry

/-- What is left of a graph after n rounds of taking away the nodes nothing leads to. -/
def peel : Nat → List Nat → List (Nat × Nat) → List Nat
  | 0, ns, _ => ns
  | n + 1, ns, es =>
    let keep := ns.filter (fun x => es.any (fun e => e.2 == x))
    peel n keep (es.filter (fun e => keep.contains e.1))

/-- Whether the strand graph has a cycle through CORE, LOUPE and HOST stations alone (R62). -/
def cyclic (sts : List StationE) (sks : List StrandE) : Bool :=
  let ns := (sts.filter (fun e => !isMemKind e.kind)).map (·.station)
  let es := (sks.filter (fun k => k.place == .locl && ns.contains k.src && ns.contains k.dst)).map (fun k => (k.src, k.dst))
  !(peel ns.length ns es).isEmpty

/-- Whether one instruction of a station's program suits the strand it names (R113). A strand whose other end lies on another
module, of whose station these tables say nothing, is taken as one of no memory station: its STORE, FETCH and SWAIT are
refused (DESIGN CHOICE, log 127; R68 and R82 are silent). -/
def strandUseOk (sts : List StationE) (sks : List StrandE) (st : StationE) (w : W64) : Bool :=
  let op := fOp w
  if 0x10 ≤ op ∧ op ≤ 0x15 then
    match sks.find? (fun k => k.strand == fStrand w) with
    | none => false
    | some k =>
      let (a, b) := endsOf sts k
      let out := k.place != .fromPeer && k.src == st.station
      let into := k.place != .toPeer && k.dst == st.station
      let memDst := match b with | some b => isMemKind b.kind | none => false
      let memSrc := match a with | some a => isMemKind a.kind | none => false
      let fits := decide (((st.program.shapes[fShape w]?).getD {}).payload ≤ k.maxKib * 1024)
      if op = 0x10 ∨ op = 0x11 then into
      else if op = 0x12 then out && !memDst && (w.getLsbD 21 || fits)
      else if op = 0x13 then into && memSrc && fits
      else if op = 0x14 then out && memDst && fits
      else out && memDst
  else true

/-- Whether a card's strand records name input strands whose producers take part in the plan (R239, R243). -/
def cardOk (sts : List StationE) (sks : List StrandE) (st : StationE) : Bool :=
  st.card.plans.all (fun p => p.inputs.all (fun i =>
    match sks.find? (fun k => k.strand == i.strand) with
    | none => false
    | some k => k.place != .toPeer && k.dst == st.station &&
      (match (endsOf sts k).1 with
        | some a => isMemKind a.kind || a.kind == .host || (planStations sts sks p.plan).contains a.station
        | none => true)))

/-- The DETAIL of the first fault of form that a commit finds in the two tables (R72). No rule names the DETAIL of a
cycle, which is no one entry's: 0x5000, the table as a whole (DESIGN CHOICE, log 93). -/
def commitForm (sts : List StationE) (sks : List StrandE) : Option Nat :=
  match firstIdx (fun e => !strandEndsOk sts e) sks with
  | some i => some (0x3000 + i)
  | none =>
    match firstIdx (fun e => decide (e.kind = .loupe) && !loupeFormOk sts sks e) sts with
    | some i => some (0x3000 + i)
    | none =>
      match bufferFault sts [] (buffersOf sts sks) with
      | some i => some (0x3000 + i)
      | none =>
        if cyclic sts sks then some 0x5000
        else (firstIdx (fun e => decide (e.kind = .core) && !(e.program.code.all (strandUseOk sts sks e) && cardOk sts sks e)) sts).map (0x4000 + ·)

/-! ## Flows (R73, R249, R333, R412) -/

/-- The fields that the halves of a cross-module strand's own link, on the route it is bound on, lie in (R393, R412). -/
def State.claspEnds (s : State) (e : StrandE) : Option (Nat × List Nat) :=
  (s.routeLink e).map (fun l => (l, [(claspFields l).1, (claspFields l).2]))

/-- Each path once. -/
def once (ps : List Path) : List Path := ps.eraseDups

/-- What a strand adds to each path, in halves of 1 GB/s. -/
def State.flows (s : State) (sts : List StationE) (e : StrandE) : List (Path × Nat) :=
  let (a, b) := endsOf sts e
  let (fa, fb) := strandFields sts e
  let ports := match b with
    | some b => once ((coresAt b (if e.dstMode = .member then some e.dstMember else none)).map Path.core)
    | none => []
  let counted := fun (r : Nat) (ps : List Path) => ps.map (fun p => (p, r))
  let routes := fun (xs ys : List Nat) => once (xs.flatMap (fun x => ys.flatMap (filRoute x)))
  let full := 2 * e.rate
  match e.place with
  | .locl =>
    let die :=
      if e.srcMode = .gather then
        ((a.map (·.cores)).getD []).flatMap (fun l => counted full (routes [lcoreField l] fb ++ ports))
      else if e.dstMode = .broadcast then
        fb.flatMap (fun y => counted full (routes fa [y])) ++ counted full ports
      else counted full (routes fa fb ++ ports)
    let tier := match a with
      | some a =>
        if a.kind = .hbm then [Path.hbm a.target]
        else if a.kind = .lpddr then [Path.lpddr a.target]
        else if a.kind = .kv then fb.flatMap (fun f => [Path.hbm f, Path.lpddr f])
        else []
      | none => []
    die ++ counted full tier
  | .toPeer =>
    match s.claspEnds e with
    | some (l, hs) =>
      let srcs := if e.srcMode = .gather then ((a.map (·.cores)).getD []).map (fun x => [lcoreField x]) else [fa]
      srcs.flatMap (fun x => hs.flatMap (fun h => counted e.rate (routes x [h])) ++ [(Path.clasp l false, full)])
    | none => []
  | .fromPeer =>
    match s.claspEnds e with
    | some (l, hs) =>
      let n := if e.srcMode = .gather then s.peerMembers e.strand else 1
      (if e.dstMode = .broadcast then fb.flatMap (fun y => hs.flatMap (fun h => counted (n * e.rate) (routes [h] [y])))
       else hs.flatMap (fun h => counted (n * e.rate) (routes [h] fb))) ++ counted (n * full) ports ++ [(Path.clasp l true, n * full)]
    | none => []

/-- What the transit channels of this module add (R412). -/
def State.transitFlows (s : State) : List (Path × Nat) :=
  s.cls.links.flatMap (fun e => e.2.inCh.flatMap (fun c =>
    match c.2.other with
    | some (m, _) =>
      let (x0, x1) := claspFields e.1
      let (y0, y1) := claspFields m
      (filRoute x0 y0 ++ filRoute x1 y1).map (fun p => (p, c.2.rate)) ++
        [(Path.clasp e.1 true, 2 * c.2.rate), (Path.clasp m false, 2 * c.2.rate)]
    | none => []))

/-- Whether every path carries no more than its capacity. -/
def State.flowsFit (s : State) (fs : List (Path × Nat)) : Bool :=
  (once (fs.map (·.1))).all (fun p =>
    (Q.mk' (((fs.filter (fun f => f.1 == p)).map (·.2)).foldl (· + ·) 0) 2).le (s.pathCap p))

/-! ## Power (R252, R377-R379, R385) -/

/-- Fixed power of the device and of a field in W (R378). -/
def fixedPower : Variant → Nat × Nat
  | .uz60 => (1150, 60) | .uz48 => (1000, 52) | .uz36 => (860, 44)

/-- W_PEAK of the logical cores that stations bind, in 0.25 W. -/
def boundPeaks (sts : List StationE) : List (Nat × Nat) :=
  sts.flatMap (fun e => if e.kind = .core then e.cores.map (fun l => (l, e.card.wPeak)) else [])

/-- Idle power of a physical core in W: of one that no job binds, by its region's state; of one in RETENTION whether bound
or not (R378). -/
def State.idleW (s : State) (peaks : List (Nat × Nat)) (c : Nat) : Nat :=
  let bound := peaks.any (fun x => s.phys x.1 == some c)
  match (s.region c).state with
  | .waiting => if bound then 0 else 6
  | .ramping => if bound then 0 else 6
  | .on => if bound then 0 else 6
  | .retention => 1
  | _ => 0

/-- The lower of two caps, 0 meaning none (R377). -/
def lowerCap (a b : Nat) : Nat := if a = 0 then b else if b = 0 then a else min a b

/-- P x (64 - beta) / 64 plus fixed power at most C, with P the sum of W_PEAK x 9/8: all in W, exact. `pct` is
a percentage of the cap that counts as fixed power. -/
def powerFits (peaks fixed beta cap4 pct : Nat) : Bool :=
  decide (100 * (peaks * 9 * (64 - beta)) + 100 * 2048 * fixed + 512 * pct * cap4 ≤ 100 * 512 * cap4)

/-- Whether the committed sum meets R252 in every scope, for given caps: device in W, fields in W, core
regions in 0.25 W. -/
def State.powerOk (s : State) (peaks : List (Nat × Nat)) (dev : Nat) (field region : Nat → Nat) : Bool :=
  let sum := fun (p : Nat → Bool) => ((peaks.filter (fun x => p x.1)).map (·.2)).foldl (· + ·) 0
  let idle := fun (cs : List Nat) => (cs.map (s.idleW peaks)).foldl (· + ·) 0
  let (fd, ff) := fixedPower s.part.variant
  powerFits (sum (fun _ => true)) (fd + idle (List.range 120)) (s.alm.betaDev.toNat % 64) (4 * dev) 8 &&
  (List.range 12).all (fun f => field f = 0 ||
    powerFits (sum (fun l => lcoreField l == f)) (ff + idle ((List.range 10).map (10 * f + ·))) (s.beta f) (4 * field f) 0) &&
  (List.range 120).all (fun c => region c = 0 ||
    powerFits (sum (fun l => s.phys l == some c)) (s.idleW peaks c) (s.beta (coreField c)) (region c) 0)

/-- The caps as written: the lower of the host's cap and the heat cap of each field (R377). -/
def State.capField (s : State) (f : Nat) : Nat := lowerCap (tget s.thm.capField f 0).toNat (s.field f).heatCap.toNat
def State.capRegion (s : State) (c : Nat) : Nat := (tget s.thm.capRegion c 0).toNat

/-- The stations of every job that holds resources, with a committing job's. -/
def State.heldStations (s : State) (j : Nat) : List StationE :=
  s.jobs.flatMap (fun e => if e.2.holds || decide (e.1 = j) then e.2.stations.getD [] else [])

/-- Whether a commit meets the power condition (R252), and in uniform mode the margin of R385. -/
def State.commitPower (s : State) (j : Nat) (sts : List StationE) : Bool :=
  s.powerOk (boundPeaks (s.heldStations j)) s.thm.capDev.toNat s.capField s.capRegion &&
  (!s.thm.cfg.getLsbD 0 || (boundPeaks sts).all (fun x => decide (2 ≤ s.beta (lcoreField x.1))))

/-! ## Step 2 of a commit: state -/

/-- Whether an id or a resource of a job is another's (R43, R72). -/
def State.heldElsewhere (s : State) (j : Nat) (sts : List StationE) (sks : List StrandE) : Bool :=
  s.jobs.any (fun e => e.1 != j &&
    (((e.2.stations.getD []).any (fun a => sts.any (fun b => a.station == b.station ||
        (e.2.holds && a.kind == b.kind && (match a.kind with
          | .core => a.cores.any b.cores.contains
          | .loupe => a.target == b.target
          | .host => a.target == b.target
          | _ => false))))) ||
     (e.2.strands.getD []).any (fun a => sks.any (fun b => a.strand == b.strand))))

/-- The logical cores that a table binds, in entry order. -/
def boundCores (sts : List StationE) : List Nat := sts.flatMap (fun e => if e.kind = .core then e.cores else [])

/-- Whether a member is narrower than COMPILED_WIDTH (R53). -/
def State.tooNarrow (s : State) (sts : List StationE) : Bool :=
  sts.any (fun e => decide (e.kind = .core) && e.cores.any (fun l => decide (s.servedWidth l < e.width)))

/-- Whether a logical core is present, not in substitution, and not out of service (R77, R78, R465). -/
def State.inService (s : State) (l : Nat) : Bool :=
  match s.phys l with
  | some c => (s.region c).subst.isNone && !(s.core c).outOfService
  | none => false

/-- Whether a logical core can take work: in service, with its region ON (R372) and not about to go dark for heat, which
wins over a commit (R375). -/
def State.coreReady (s : State) (l : Nat) : Bool :=
  s.inService l && (match s.phys l with | some c => decide ((s.region c).state = .on) && !(s.region c).heat | none => false)

/-- Whether a HOST station's ring cannot serve it (R291). -/
def State.ringUnfit (s : State) (sks : List StrandE) (st : StationE) : Bool :=
  let k := s.ring st.target
  let ins := strandsInto sks st
  decide (k.state ≠ .on) ||
  (!ins.isEmpty && (decide (k.tileLog = 0) || ins.any (fun e => decide (4096 * (k.units.toNat % 128) < e.maxKib * 1024 + 32))))

/-- Whether a peer lies outside the block, or no placement is applied (R412). -/
def State.peerUnplaced (s : State) (sks : List StrandE) : Bool :=
  sks.any (fun e => e.place != .locl && (match s.cls.place with | some p => !Placement.holds p e.peer | none => true))

/-- Whether a slice buffer meets one of another job's (R61). -/
def State.bufferTaken (s : State) (bs : List Buffer) : Bool :=
  bs.any (fun b => b.slices && s.sliceHeld b.unit b.base b.len)

/-- Whether a slice buffer lies in a fenced slice (R183). -/
def State.bufferFenced (s : State) (bs : List Buffer) : Bool :=
  bs.any (fun b => b.slices && (bitList 16 (s.field b.unit).fenced.toNat).any (fun i =>
    decide (b.base < 0x400000 * (i + 1)) && decide (0x400000 * i < b.base + b.len)))

/-- The flows of every job that holds resources, with a committing job's, and of transit. -/
def State.allFlows (s : State) (j : Nat) : List (Path × Nat) :=
  s.jobs.flatMap (fun e => if e.2.holds || decide (e.1 = j) then
    (e.2.strands.getD []).flatMap (s.flows (e.2.stations.getD [])) else []) ++ s.transitFlows

/-- Whether a commit needs a Loupe unit that is not powered, or a link that has yet to come into service for the first time,
as after a licence took effect (R480). -/
def State.awaitsLicence (s : State) (sts : List StationE) (sks : List StrandE) : Bool :=
  sts.any (fun e => decide (e.kind = .loupe) && !(s.loupe e.target).powered) ||
  sks.any (fun e => (s.routeLink e).any (fun l => !(s.link l).serves && (s.link l).lastUp.isNone))

/-- The checks of state after the retirements of R54: the DETAIL of the first failure. -/
def State.commitState (s : State) (j : Nat) (sts : List StationE) (sks : List StrandE) : Option Nat :=
  let bs := buffersOf sts sks
  if (boundCores sts).any (fun l => (s.phys l).isNone) then some 0x8004
  else if (boundCores sts).any (fun l => !s.inService l) then some 0x800C
  else if s.tooNarrow sts then some 0x8004
  else if (boundCores sts).any (fun l => !s.coreReady l) || s.awaitsLicence sts sks then some 0x800C
  else if sts.any (fun e => decide (e.kind = .host) && s.ringUnfit sks e) then some 0x8007
  else if s.peerUnplaced sks then some 0x800B
  else if s.bufferTaken bs then some 0x8003
  else if s.bufferFenced bs then some 0x800C
  else if !s.flowsFit (s.allFlows j) then some 0x8005
  else if !s.commitPower j sts then some 0x8006
  else none

/-- A refused commit requests power-up of the cores it binds, unless they are dark for heat (R372, R375). -/
def State.wakeCores (s : State) (sts : List StationE) : State :=
  (boundCores sts).foldl (fun s l =>
    match s.phys l with
    | some c => if (s.region c).heat then s else s.powerUp c
    | none => s) s

/-! ## Effects of a commit -/

/-- The region that a RESIDENT station holds on its members. -/
def regionOf (e : StationE) : Option Resident :=
  if e.resident then some { base := e.resBase, len := e.resLen, key := e.key } else none

/-- Whether a member keeps its held region (R79). -/
def keepsRegion (k : CoreSt) (e : StationE) : Bool := k.resident.isSome && decide (k.resident = regionOf e)

/-- A member takes its program, and its resident region is kept or zeroed (R47, R53, R79). -/
def CoreSt.bindTo (k : CoreSt) (j : Nat) (e : StationE) (m : Nat) : CoreSt :=
  { k with
    spad := if keepsRegion k e then k.spad else [], spadPoison := if keepsRegion k e then k.spadPoison else []
    spadHot := if keepsRegion k e then k.spadHot else []
    resident := regionOf e
    prog := some e.program, station := some e.station, job := j, member := m, members := e.cores.length, cwidth := e.width }

/-- Binds the members of every CORE station; the count is of the members that kept their region. -/
def State.bindCores (s : State) (j : Nat) (sts : List StationE) : State × Nat :=
  ((sts.filter (fun e => e.kind == .core)).flatMap (fun e => e.cores.zipIdx.map (e, ·))).foldl (fun (x : State × Nat) m =>
    match x.1.phys m.2.1 with
    | some c =>
      let k := x.1.core c
      ((x.1.setCore c (k.bindTo j m.1 m.2.2)).lookPark c, x.2 + if keepsRegion k m.1 then 1 else 0)
    | none => x) (s, 0)

/-- Wakes the banks under a job's slice buffers: a requested bank stays PENDING while the buffer exists (R175). -/
def State.wakeBuffers (s : State) (bs : List Buffer) : State :=
  bs.foldl (fun s b =>
    if b.slices then
      s.modField b.unit (fun k => { k with ret := tmap k.ret (fun n r =>
        if (r = .entering ∨ r = .retained) ∧ 0x80000 * n < b.base + b.len ∧ b.base < 0x80000 * (n + 1) then
          (if k.retBit n then .pending else .awake)
        else r) })
    else s) s

/-- The strand state that a commit makes: LOCAL strands are bound, the others begin to bind (R72, R83). -/
def State.newStrand (s : State) (j : Nat) (e : StrandE) : StrandSt :=
  let k : StrandSt := { job := j, entry := e, hops := (s.cls.place.map (fun p => (strandRoute p e).length)).getD 0 }
  if e.place = .locl then s.bindStrand k else { k with binding := true }

/-- Commits a job whose checks have passed (R72); the count is that of R79. -/
def State.commit (s : State) (j : Nat) (sts : List StationE) (sks : List StrandE) : State × Nat :=
  let (s, kept) := s.bindCores j sts
  let s := s.modJob j (fun k => { k with phase := .committed })
  let s := s.wakeBuffers (buffersOf sts sks)
  let s := sks.foldl (fun s e => s.setStrand e.strand (s.newStrand j e)) s
  let s := (sts.filter (fun e => e.kind == .loupe)).foldl (fun s e => s.modLoupe e.target (fun k => { k with station := some e.station, job := j })) s
  (s.modJob j (fun k => { k with priced := s.reprice sts sks, stale := [] }), kept)

/-- Whether a descriptor is a JOB_KILL of a job, of good form. -/
def killOf (j : Nat) (d : Desc) : Bool := decide (descOp d = 0x15) && decide (descJob d = j) && (firstFault (headerFaults d)).isNone

/-- Whether a JOB_KILL of a job has been fetched that may land while a commit is in progress: the oldest descriptor of a ring,
or one behind others with no FENCE before it, of the commit's own ring too (R74, R285). -/
def State.killWaits (s : State) (j : Nat) : Bool :=
  s.rng.rings.any (fun e =>
    (match s.landing e.1 0x15 with | .go d => killOf j d | _ => false) ||
    (e.2.fetched.takeWhile (fun d => !(descF d 1 1).testBit 1)).any (killOf j))

/-- JOB_COMMIT (R52-R54, R71, R72, R74, R85, R372): one that a JOB_KILL of the job overtakes completes ABORTED, and the
job is OPEN when the kill lands. -/
def execJobCommit (ring : RingId) (killed : Bool) (s : State) : Result :=
  .next (s.land ring 0x13 (fun _ => []) (fun d s =>
    let j := descJob d
    match if s.openJob j then (s.job? j).bind (fun k => k.stations.bind (fun a => k.strands.map (a, ·))) else none with
    | none => s.refuse d 0x8002
    | some (sts, sks) =>
      if killed && s.killWaits j then s.finish (descPend d) stAborted 0x1008
      else
      match commitForm sts sks with
      | some detail => s.finish (descPend d) stForm detail
      | none =>
        match firstIdx s.unlicensed sks with
        | some i => s.finish (descPend d) stLicence (0x3000 + i)
        | none =>
          if s.heldElsewhere j sts sks then s.refuse d 0x8003
          else
            let s := (boundCores sts).foldl (fun s l => s.boundary l) s
            match s.commitState j sts sks with
            | some detail => ((if detail = 0x800C then s.wakeCores sts else s).refuse d detail)
            | none =>
              let (s, kept) := s.commit j sts sks
              s.finish (descPend d) stDone 0 kept))

/-! ## Closing and killing -/

/-- The admitted items of a job. -/
def State.jobItems (s : State) (j : Nat) : List Item := s.alm.items.filter (fun i => i.job == j)

/-- Unbinds the Feast streams of a job (R208). -/
def State.unbindStreams (s : State) (j : Nat) : State :=
  (s.fst.streams.filter (fun e => e.2.job == j && e.2.unbinding.isNone)).foldl (fun s e => s.unbind e.1 none) s

/-- Ends a job whose last item has completed: its pending descriptor completes DONE after the release (R75, R76). -/
def State.endJob (s : State) (j : Nat) (p : Option PendDesc) : State :=
  let s := s.releaseJob j
  match p with | some p => s.finish p stDone 0 | none => s

/-- JOB_CLOSE (R71, R75). -/
def execJobClose (ring : RingId) (s : State) : Result :=
  .next (s.land ring 0x14 (fun _ => []) (fun d s =>
    let j := descJob d
    match (s.job? j).map (fun (k : JobSt) => k.phase) with
    | some .opened => ({ s with jobs := tdel s.jobs j } : State).finish (descPend d) stDone 0
    | some .committed => (s.modJob j (fun k => { k with phase := .closing, closer := some (descPend d) })).unbindStreams j
    | _ => s.refuse d 0x8002))

/-- JOB_CLOSE_COMPLETE (R75): once no item of a closing job is left; also the end of a kill that waited for
items whose last window had ended (R76). -/
def execJobCloseComplete (job : W16) (s : State) : Result :=
  .next (
    let j := job.toNat
    match s.job? j with
    | some k => if (k.phase == .closing || k.phase == .killing) && (s.jobItems j).isEmpty then (s.endJob j k.closer).finishHalts else s
    | none => s)

/-- JOB_KILL (R71, R76, R301). -/
def execJobKill (ring : RingId) (s : State) : Result :=
  .next (s.land ring 0x15 (fun _ => []) (fun d s =>
    let j := descJob d
    match s.job? j with
    | none => s.refuse d 0x8002
    | some k =>
      match k.phase with
      | .killing => s.refuse d 0x8002
      | .opened => ({ s with jobs := tdel s.jobs j } : State).finish (descPend d) stDone 0
      | _ =>
        let s := (s.jobItems j).foldl (fun s i => s.killItem i.tag stAborted 0x1001) s
        let s := s.unbindStreams j
        let s := match k.phase, k.closer with
          | .closing, some p => s.finish p stAborted 0x1001
          | _, _ => s
        if (s.jobItems j).any (fun i => i.status.isNone) then
          s.modJob j (fun k => { k with phase := .killing, closer := some (descPend d) })
        else s.endJob j (some (descPend d))))

end Sys2Proof.Machine
end

