-- ==== Sys2Proof/Machine/Reset.lean ====
section
/-! DEFINITION. Entering RESET (R19, R80, R263, R305, R359, R498): what is lost, what flash and Heirloom keep,
and the reset values that the part or Heirloom gives. -/

namespace Sys2Proof.Machine

/-- Module cap of a variant in W (R5, R379). -/
def moduleCap : Variant → Nat
  | .uz60 => 6000 | .uz48 => 4800 | .uz36 => 3600

/-- Writes every waiting Heirloom change and replacement cause to module flash (R155, R157, R427). -/
def State.flushHeir (s : State) : State :=
  { s with flash.heirloom := s.heirloom, flash.replacement := s.flash.replacement ++ s.replaceDue, hwQueue := [], replaceDue := [] }

/-- Whether a Heirloom record stands for a unit out of service or about to be. -/
def HRec.out (r : HRec) : Bool := r.state != .watch

/-- The phases of a region that Heirloom holds as lost (R369, R376). -/
def heirPhases (h : List HRec) (r : Nat) : List Nat :=
  ((h.filter (fun x => x.kind == 5 && x.out && x.index % 256 == r)).map (fun x => x.index / 256)).eraseDups

/-- The lane pairs of a link that Heirloom holds as retired (R404, R424). -/
def heirPairs (h : List HRec) (l : Nat) : List Nat :=
  ((h.filter (fun x => x.kind == 4 && x.state == .retired && x.index % 8 == l)).map (fun x => x.index / 8 % 16)).eraseDups

/-- A power region at reset: setpoint by part, phases from Heirloom; voltage sensors found invalid stay so
until PERST_N (R363, R376). -/
def resetRegion (part : PartSt) (h : List HRec) (old : RegionSt) (internal : Bool) (r : Nat) : RegionSt :=
  { setpoint := tget part.floors r 0, phasesOut := heirPhases h r, sensorValid := if internal then old.sensorValid else 0xFFFF }

/-- A link at reset: its reported pairs from Heirloom (R424). -/
def resetLink (h : List HRec) (l : Nat) : LinkSt :=
  { pairsOut := heirPairs h l, outService := decide (4 < (heirPairs h l).length) }

/-- The table of a group of n units that differ from the default. -/
def tabOf {α : Type} [DecidableEq α] (n : Nat) (d : α) (f : Nat → α) : Tab α :=
  ((List.range n).map (fun i => (i, f i))).filter (fun e => e.2 != d)

/-- RESET (R19, R305): every register at its reset value, every job, ring, strand and memory content gone;
flash, factory values, pins, what has been put out and the waiting commands stay. `internal`: PERST_N stayed
deasserted, so converters and voltage sensors that protection shut out stay out (R358, R363). The lend epoch
takes another value, which is free (R419, R424). -/
def State.enterReset (s : State) (internal : Bool) : State :=
  let h := s.flash.heirloom
  { opTime := s.opTime, part := s.part, flash := s.flash, pins := s.pins, heirloom := h, out := s.out, free := s.free + 1, pending := s.pending
    mem := { epoch := s.mem.epoch + 1 }
    thm := { capDev := BitVec.ofNat 16 (moduleCap s.part.variant), capDevEff := BitVec.ofNat 16 (moduleCap s.part.variant) }
    pwr := { convOk := (if internal then s.pwr.convOk else 0xFFFFFF) &&& ~~~ s.flash.convLost
             regions := tabOf 132 {} (fun r => resetRegion s.part h (s.region r) internal r) }
    cxl := { compRev := s.cxl.compRev + 1 }
    cls := { lendEpoch := if Config.free32 s.free = s.cls.lendEpoch then s.cls.lendEpoch + 1 else Config.free32 s.free, links := tabOf 6 {} (resetLink h) }
    mgmt := { powerFault := s.mgmt.powerFault
              manifest := s.mgmt.nextManifest.orElse (fun _ => if internal then s.mgmt.manifest else none) } }

/-- PERST_N (R19, R263): waiting flash writes are made, then RESET. -/
def State.perst (s : State) (internal : Bool) : State := s.flushHeir.enterReset internal

/-- PERST_N_ASSERT: the straps will be sampled anew (R405, R492). -/
def execPerstAssert (s : State) : Result := .next { s.perst false with pins := { s.pins with perstLow := true, straps := none } }

/-- INPUT_LOCKOUT (R155, R486): the 48 V input is lost, and with it every change not yet written to flash. -/
def execInputLockout (s : State) : Result := .next (s.enterReset true)

end Sys2Proof.Machine
end

