-- ==== Sys2Proof/Machine/Power.lean ====
section
/-! DEFINITION. Power delivery (R357-R376): converters, phases, voltage sensors, droop, retention, ramps,
setpoints and low-water records, with the clock stretching and slip that droop brings about (R348-R351). -/

namespace Sys2Proof.Machine

/-! ## What an event of a region reaches -/

/-- Whether a run of an item at a chosen core or Loupe unit has not ended, started or not (R254, R350, R368). -/
def State.itemRuns (s : State) (core loupe : Nat → Bool) (i : Item) : Bool :=
  i.wins.any (fun w =>
    match s.stn i.job w.station with
    | some e =>
      match e.kind with
      | .core => e.cores.zipIdx.any (fun x => core x.1 && !i.runsDone.contains (w.station, x.2))
      | .loupe => loupe e.target && !i.runsDone.contains (w.station, 0)
      | _ => false
    | none => false)

/-- Whether a run of an item is in progress at a chosen physical core or Loupe unit, or was until a halt of this cycle
(R259, R353, R387). -/
def State.itemOn (s : State) (core loupe : Nat → Bool) (i : Item) : Bool :=
  s.cores.any (fun e => core e.1 && s.runsOn i e.1) || s.lou.any (fun e => loupe e.1 && e.2.workTag == some i.tag) ||
  (match s.haltNow i with | some h => h.loupes.any loupe | none => false)

/-- The fields of one end of a strand: of the given member, or of all. The KV station lies where its pages do, and has no
field of its own (R249, R250). -/
def endFields (e : StationE) (member : Option Nat) : List Nat := if e.kind = .kv then [] else fieldsAt e member

/-- Whether a strand runs to or from a field. -/
def State.touches (s : State) (f : Nat) (k : StrandSt) : Bool :=
  (((s.srcStn k).map (fun e => endFields e (if k.entry.srcMode = .member then some k.entry.srcMember else none))).getD [] ++
   ((s.dstStn k).map (fun e => endFields e (if k.entry.dstMode = .member then some k.entry.dstMember else none))).getD []).contains f

/-- Empties a strand and binds it again with SEQ 0: at once within the module, across Clasp by a new BIND (R77). -/
def State.rebindStrand (s : State) (n : Nat) : State :=
  match s.strand? n with
  | some k => if k.entry.place = .locl then s.setStrand n (s.bindStrand k) else s.unbindStrand n
  | none => s

/-- Whether the power sequencer runs (R427). -/
def State.sequencerUp (s : State) : Bool := decide ((s.proc 13).state = .running)

/-- Whether a region is powered at its setpoint: ON, or ramped and waiting for its PLLs. -/
def RegionSt.live (r : RegionSt) : Bool := decide (r.state = .on) || (decide (r.state = .ramping) && r.rampDone)

/-- DETAIL and LOCUS of a power region (R296). -/
def regionDetail (r : Nat) : Nat := 0x7200 + r

/-! ## Converters and power faults (R358, R359) -/

/-- Converters a variant needs (R358). -/
def converterNeed : Variant → Nat
  | .uz60 => 20 | .uz48 => 16 | .uz36 => 12

/-- CONVERTER_SHUTDOWN (R358). -/
def execConverterShutdown (conv : Fin 24) (s : State) : Result :=
  .next (
    if s.gen.state = .reset ∨ s.pwr.convOk.getLsbD conv = false then s
    else
      let s := { s with
        pwr.convOk := s.pwr.convOk &&& ~~~ BitVec.ofNat 24 (2 ^ conv.val)
        pwr.status := setFlag s.pwr.status 0 }
      s.record 0x07 13 0xFFFF (le 1 conv))

/-- The cause of a power fault and its region, when one is present (R359, R363, R436). -/
def State.powerCause (s : State) (planeLow : Bool) : Option (Nat × Nat) :=
  if (bitList 24 s.pwr.convOk.toNat).length < converterNeed s.part.variant then some (1, 0xFF)
  else if planeLow then some (2, 0xFF)
  else ((List.range 12).find? (fun f =>
    let r := s.region (120 + f)
    decide (6 ≤ r.lost) || decide ((bitList 16 r.sensorValid.toNat).length < 8))).map (fun f => (3, 120 + f))

/-- The record of a power fault (R436, KIND 0x08). -/
def State.powerRecord (s : State) (c : Nat × Nat) : State :=
  s.record 0x08 13 (if c.2 = 0xFF then 0xFFFF else regionDetail c.2) (le 1 c.1 ++ le 1 c.2)

/-- POWER_FAULT (R359, R427): the record leaves at once if the port can send it, else at the next bring-up;
converters too few for the variant are held as lost for good; the device enters RESET. -/
def execPowerFault (planeLow : Bool) (s : State) : Result :=
  .next (
    if s.gen.state = .reset ∨ s.pwr.faulted = true then s
    else
      match s.powerCause planeLow with
      | some c =>
        let direct := s.sequencerUp && s.portUp && s.mgmt.records.queue.isEmpty
        let s := if direct then s.powerRecord c else { s with mgmt.powerFault := some c }
        let s := if c.1 = 1 then { s with flash.convLost := ~~~ s.pwr.convOk } else s
        s.perst true
      | none => s)

/-! ## Phases and sensors (R363, R367-R369) -/

/-- Phases of a region. -/
def phaseCount (r : Nat) : Nat := if r < 120 then 8 else 12

/-- A phase leaves service: a Heirloom event, permanent and retired at once (R152, R153, R156, R367). -/
def State.retirePhase (s : State) (r p : Nat) : State :=
  let s := (s.heirEvent 5 (phaseIndex r p)).makePermanent 5 (phaseIndex r p) 3
  let s := s.markRetired 5 (phaseIndex r p)
  { s.modRegion r (fun k => { k with phasesOut := k.phasesOut ++ [p] }) with pwr.status := setFlag s.pwr.status 1 }

/-- A core region is lost in service: dark and unpowered (R363, R368). -/
def State.regionLost (s : State) (c : Nat) : State :=
  let s := { s with pwr.status := setFlag s.pwr.status 2 }
  (s.loseCore c (regionDetail c)).rebubble c

/-- The outcome of a phase loss in a core region, by the phases it has now lost (R368). -/
def State.corePhase (s : State) (c : Nat) : State :=
  match (s.region c).lost with
  | 2 =>
    let s := s.modRegion c (fun r => { r with capped := true })
    let s := match s.logicalOf c with
      | some l => s.endItems (s.itemRuns (fun x => x == l) (fun _ => false)) stCoreLost (regionDetail c)
      | none => s
    ((s.replaceAnd 2).rebubble c).markStale
  | 1 => s.publish
  | _ => (s.regionLost c).markStale

/-- The outcome of a phase loss in an uncore region (R368); the sixth is a power fault besides. -/
def State.uncorePhase (s : State) (f : Nat) : State :=
  if (s.region (120 + f)).lost = 1 then s.publish
  else
    let s := s.modRegion (120 + f) (fun r => { r with capped := true })
    let s := s.modLoupe f (fun l => { l with capped := true })
    let s := s.endItems (s.itemRuns (fun l => lcoreField l == f) (fun x => x == f)) stCoreLost (regionDetail (120 + f))
    ((s.replaceAnd 2).rebubbleField f).markStale

/-- PHASE_LOSS (R367-R369): a phase of a powered region. -/
def execPhaseLoss (region : RegionId) (phase : Fin 12) (s : State) : Result :=
  .next (
    let r := s.region region
    if (r.state ≠ .on ∧ r.state ≠ .ramping) ∨ phaseCount region ≤ phase.val ∨ r.phasesOut.contains phase.val = true then s
    else
      let s := s.retirePhase region phase
      if region.val < 120 then s.corePhase region else s.uncorePhase (region - 120))

/-- SENSOR_INVALID (R363). -/
def execSensorInvalid (region : RegionId) (sensor : Fin 16) (s : State) : Result :=
  .next (
    let r := s.region region
    if !r.live || !r.sensorValid.getLsbD sensor then s
    else
      let s := { s.setRegion region { r with sensorValid := clrFlag r.sensorValid sensor } with pwr.status := setFlag s.pwr.status 3 }
      let s := s.record 0x09 13 (regionDetail region) (le 1 region ++ le 1 1 ++ le 1 sensor) (regionField region)
      if region.val < 120 ∧ (bitList 16 (s.region region).sensorValid.toNat).length < 8 then (s.regionLost region).markStale else s)

/-! ## Low-water records (R364) -/

/-- Takes a sample: recorded when it is the first since a reset or strictly lower. -/
def LowWater.see (l : LowWater) (mv : BitVec 10) (sensor region : Nat) (setpoint : Byte) (time : W64) : LowWater :=
  if !l.taken || decide (mv.toNat < l.mv.toNat) then
    { mv := mv, sensor := BitVec.ofNat 4 sensor, setpoint := setpoint, region := BitVec.ofNat 8 region, time := time, taken := true }
  else l

/-- A voltage sample of a region: its record, its field's and the device's. The time is that of the field's
counter (R341, R364). -/
def State.sample (s : State) (r sensor : Nat) (mv : BitVec 10) : State :=
  let f := regionField r
  let k := s.region r
  let t := s.stampIn f
  let s := s.setRegion r { k with vmin := mv, lw := k.lw.see mv sensor r k.setpoint t }
  { s with
    pwr.lwField := tput s.pwr.lwField f ((tget s.pwr.lwField f {}).see mv sensor r k.setpoint t)
    pwr.lwDev := s.pwr.lwDev.see mv sensor r k.setpoint t }

/-- Resets every low-water record (R364). -/
def State.clearLow (s : State) : State :=
  { s with pwr.lwField := [], pwr.lwDev := {}, pwr.regions := tmap s.pwr.regions (fun _ r => { r with lw := {} }) }

/-! ## Stretching, droop and slip (R348-R351) -/

/-- The nominal uncore and core period of a variant, in 2^-24 ns (R338). -/
def periodUnits : Variant → Nat
  | .uz60 => 12905551 | .uz48 => 15252015 | .uz36 => 18641351

/-- The number of the present period. -/
def State.periodNo (s : State) : Nat := s.cal.toNat / periodUnits s.part.variant

/-- Twice a setpoint in mV (R362). -/
def setpoint2 (code : Byte) : Nat := 1100 + 5 * code.toNat

/-- The stretch of a region in a given period, in half periods. -/
def State.halvesIn (s : State) (r p : Nat) : Nat :=
  match (s.region r).lastStretch with
  | some (q, h) => if q = p then h else 0
  | none => 0

/-- Moves the slip of a core's core-control to uncore crossing, in half entries; once it has reached 2 entries hold
cycles go on until it is 0 (R351). -/
def CoreSt.slide (k : CoreSt) (d : Int) : CoreSt :=
  if !k.aligned then k
  else { k with slip := k.slip + d, holding := decide (k.slip + d ≠ 0) && (k.holding || decide (4 ≤ (k.slip + d).natAbs)) }

/-- A stretch in period p on one side of a core's crossing moves its slip by d; one on both sides leaves no slip, so that the
second (`other`: what the first moved the slip by, to be taken back) puts the slip and its holds back as they were (R351,
R355). -/
def CoreSt.stretchIn (k : CoreSt) (p : Nat) (d other : Int) : CoreSt :=
  if other = 0 then ({ k with holdBefore := some (p, k.holding) } : CoreSt).slide d
  else
    let held := match k.holdBefore with | some (q, h) => decide (q = p) && h | none => false
    ({ k with holding := held } : CoreSt).slide (-other)

/-- What a region's stretch of h half periods does to the crossings it reaches: a core's own, or every core's of the
field (R351, R355). -/
def State.stretchSlip (s : State) (r p h : Nat) : State :=
  if r < 120 then s.modCore r (fun k => k.stretchIn p h (-(s.halvesIn (120 + coreField r) p : Int)))
  else (List.range 10).foldl (fun s i =>
    s.modCore (10 * (r - 120) + i) (fun k => k.stretchIn p (-(h : Int)) (s.halvesIn (10 * (r - 120) + i) p))) s

/-- Counts stretched time against the share that uniform mode allows in each 1 ms (R385). -/
def State.stretchShare (s : State) (c h : Nat) : State :=
  let r := s.region c
  let w := s.now / 1000000
  let old := if r.msWin = w then r.msStretch else 0
  let most := clockMHz s.part.variant * 1000 / 16
  let s := s.setRegion c { r with msWin := w, msStretch := old + h }
  if old ≤ most ∧ most < old + h then { s with thm.status := setFlag s.thm.status 7, thm.excess := sat s.thm.excess } else s

/-- DROOP_STRETCH (R348-R351, R364): one sample of a region's lowest valid sensor. It always meets the low-water
records; more than 40 mV under the setpoint it calls for a stretch, once in a period. -/
def execDroopStretch (region : RegionId) (below : Nat) (s : State) : Result :=
  .next (
    let r := s.region region
    let p := s.periodNo
    if !r.live then s
    else
      let (x, s) := s.fresh32
      let sensors := bitList 16 r.sensorValid.toNat
      let s := s.sample region (sensors.getD (x.toNat % sensors.length) 0) (BitVec.ofNat 10 (setpoint2 r.setpoint / 2 - below))
      let recent := r.stretched.filter (fun q => decide (p < q + 32))
      if below ≤ 40 ∨ r.stretched.contains p = true ∨ r.deniedAt = some p then s
      else if 2 ≤ recent.length then
        { s.modRegion region (fun r => { r with stretched := recent, deniedAt := some p }) with
          clk.denied := sat s.clk.denied, clk.status := setFlag s.clk.status 5 }
      else
        let h : Nat := if 70 < below then 2 else 1
        let s := ({ s with clk.stretch := s.clk.stretch + 1 } : State).stretchSlip region p h
        let s := s.modRegion region (fun r => { r with stretched := recent ++ [p], lastStretch := some (p, h) })
        if region.val < 120 then
          let s := (s.modRegion region (fun r => { r with frameStretch := r.frameStretch + h })).rebubble region
          if s.thm.cfg.getLsbD 0 then s.stretchShare region h else s
        else s)

/-- The fields whose routers a route passes: along the row of the first, then to the second (R332). -/
def routerFields (a b : Nat) : List Nat :=
  ((List.range 6).filter (fun x => decide (Nat.min (a % 6) (b % 6) ≤ x) && decide (x ≤ Nat.max (a % 6) (b % 6)))).map (6 * (a / 6) + ·) ++ [b]

/-- The tags of the tiles in flight on a strand that pass the router of a field (R350). -/
def State.routedWorks (s : State) (f : Nat) (k : StrandSt) : List W32 :=
  (k.flight.filter (fun t => (s.tileFrom k t).any (fun a => (s.tileTo k t).any (fun b => (routerFields a.1 b.1).contains f)))).map (·.work)

/-- A droop breach of an uncore region (R350): items with a run in the field, or with tiles on a strand that touches it
or in its router on their way. -/
def State.uncoreBreach (s : State) (f : Nat) : State :=
  let hit := (s.strands.filter (fun e => s.touches f e.2 || !(s.routedWorks f e.2).isEmpty)).map (·.1)
  let onStrand := fun (i : Item) => s.strands.any (fun e =>
    (s.touches f e.2 && e.2.works.contains i.tag) || (s.routedWorks f e.2).contains i.tag)
  let s := s.endItems (fun i => s.itemRuns (fun l => lcoreField l == f) (fun x => x == f) i || onStrand i) stCoreLost (regionDetail (120 + f))
  let s := hit.foldl (fun s n => s.rebindStrand n) s
  let s := s.modField f (fun k => { k with slice := [], slicePoison := [], sliceHot := [] })
  s.modLoupe f (fun l => { l with lists := [], ordinals := [] })

/-- DROOP_BREACH (R350): below 150 mV under the setpoint, or below 50 mV in a period that was denied. -/
def execDroopBreach (region : RegionId) (sensor : Fin 16) (mv : BitVec 10) (s : State) : Result :=
  .next (
    let r := s.region region
    let deep := decide (2 * mv.toNat + 300 < setpoint2 r.setpoint)
    let deniedNow := r.deniedAt == some s.periodNo && decide (2 * mv.toNat + 100 < setpoint2 r.setpoint)
    if !r.live || !r.sensorValid.getLsbD sensor || !(deep || deniedNow) then s
    else
      let s := s.sample region sensor mv
      let s := { s with clk.breaches := sat s.clk.breaches, clk.status := setFlag s.clk.status 6 }
      let lw := (s.region region).lw
      let s := s.record 0x06 13 (regionDetail region)
        (le 1 region ++ le 2 lw.mv.toNat ++ le 1 lw.sensor.toNat ++ le 1 lw.setpoint.toNat ++ le 8 lw.time.toNat) (regionField region)
      if region.val < 120 then (s.loseCore region (regionDetail region)).rebubble region else s.uncoreBreach (region - 120))

/-- One hold cycle: an entry nearer to a slip of 0 (R351). -/
def holdStep (v : Int) : Int := if v < 0 then min 0 (v + 2) else max 0 (v - 2)

/-- SLIP_HOLD (R351): one hold cycle at each crossing of the core that is holding. -/
def execSlipHold (core : CoreId) (s : State) : Result :=
  .next (
    let k := s.core core
    let a := k.aligned && k.holding
    let b := k.aligned && k.holdingArray
    let v := if a then holdStep k.slip else k.slip
    let w := if b then holdStep k.slipArray else k.slipArray
    { s.setCore core { k with slip := v, slipArray := w, holding := k.holding && !(a && decide (v = 0))
                              holdingArray := k.holdingArray && !(b && decide (w = 0)) } with
      clk.slipHold := s.clk.slipHold + (if a then 1 else 0) + (if b then 1 else 0) })

/-- LW_RESET (R364, R376): the LW_RESET command of PWR_CTRL, where a register write reaches. -/
def execLwReset (s : State) : Result := .next (if s.gen.state = .reset ∨ s.gen.state = .recovery ∨ s.cxl.d3 = true then s else s.clearLow)

/-! ## Dark regions and ramps (R370-R375) -/

/-- What a region entering RETENTION leaves of its core: the scratchpad and its resident region, and what the
hub and self-test hold for it (R371). -/
def CoreSt.dark (k : CoreSt) : CoreSt :=
  { k with
    plane0 := {}, plane1 := {}, repair := {}, active := false, load0 := none, load1 := none, arrQ := [], passes := [], actReg := [], psum := [], cellAcc := [], shadowAcc := []
    accFresh := true, bank := [], anchor := 0, runFlag := false, vregs := [], g := [], loops := [], pc := 0, sysLatch := 0, run := none
    dmaQ := [], hstop := false, aligned := false, slip := 0, slipArray := 0, holding := false, holdingArray := false
    drain := none, holdBefore := none, realigning := false }

/-- A core region goes dark with its scratchpad in retention. -/
def State.goDark (s : State) (c cause : Nat) : State :=
  let s := s.modCore c CoreSt.dark
  let s := s.modRegion c (fun r => { r with state := .retention, darkCause := BitVec.ofNat 3 cause, parkSince := none, waitSince := none, rampDone := false })
  { s with clk.lock := tdel (tdel s.clk.lock (2 * c)) (2 * c + 1) }

/-- RETENTION_ENTRY (R371): 100 us after the last condition, and 10 ms after the last ramp's start. -/
def execRetentionEntry (region : CoreId) (s : State) : Result :=
  .next (
    let r := s.region region
    match r.parkSince with
    | some t =>
      let ramped := match r.rampStart with | some u => decide (u.toNat + 10000000 ≤ s.now) | none => true
      if s.parkWanted region && decide (t.toNat + 100000 ≤ s.now) && ramped then s.goDark region (if r.heat then 2 else 1) else s
    | none => s)

/-- Whether another region of a field has its ramp under way (R373). -/
def State.fieldRamping (s : State) (f : Nat) : Bool :=
  (List.range 10).any (fun i => let r := s.region (10 * f + i); decide (r.state = .ramping) && !r.rampDone)

/-- Whether a region waits whose request came at the same time with a lower number (R375). -/
def State.waitsBefore (s : State) (c : Nat) : Bool :=
  (List.range 10).any (fun i =>
    let d := 10 * coreField c + i
    decide (d < c) && decide ((s.region d).state = .waiting) && (s.region d).waitSince == (s.region c).waitSince)

/-- Whether a region's estimate exceeds 85% of its rating of 105 A (R361, R374). -/
def RegionSt.atPeak (r : RegionSt) : Bool := decide (r.state = .on) && decide (8925 * setpoint2 r.setpoint < r.est.toNat * 50000)

/-- RAMP_START (R373-R375). -/
def execRampStart (region : CoreId) (s : State) : Result :=
  .next (
    let f := coreField region
    let r := s.region region
    let cap := (tget s.thm.capFieldEff f 0).toNat
    let fits := decide (cap = 0) || decide ((tget s.thm.fieldEst f 0).toNat + 6 ≤ cap)
    let waited := match r.waitSince with | some t => decide (t.toNat + 200000 ≤ s.now) | none => false
    if s.thm.coolantStop = true ∨ r.state ≠ .waiting ∨ s.fieldRamping f = true ∨ s.waitsBefore region = true ∨ (fits || waited) = false then s
    else
      let s := s.setRegion region { r with state := .ramping, rampDone := false, waitSince := none, rampStart := some s.stamp, rampCount := sat r.rampCount }
      let s := if fits then s else { s with pwr.status := setFlag s.pwr.status 4 }
      (neighbours region).foldl (fun s d => if (s.region d).atPeak then (s.modRegion d (fun x => { x with peak := true })).rebubble d else s) s)

/-- RAMP_COMPLETE (R373, R374): 8 us after the start; the neighbours' floors end. -/
def execRampComplete (region : CoreId) (s : State) : Result :=
  .next (
    let r := s.region region
    let due := match r.rampStart with | some t => decide (t.toNat + 8000 ≤ s.now) | none => true
    if r.state = .ramping ∧ r.rampDone = false ∧ due = true then
      (s.setRegion region { r with rampDone := true }).endRampFloor region
    else s)

/-- PLL_LOCK (R145, R347, R372, R373, R465): both PLLs lock, Equinox aligns the core's crossings, the region is ON with its
cycle count begun anew, a substitution ends, and what waited for the core is applied. -/
def execPllLock (region : CoreId) (s : State) : Result :=
  .next (
    let r := s.region region
    if r.state = .ramping ∧ r.rampDone = true then
      let s := s.setRegion region { r with state := .on, rampDone := false, darkCause := 0 }
      let s := s.modCore region (fun k => { k with cycles := 0, aligned := true, slip := 0, slipArray := 0, holding := false, holdingArray := false })
      let s := { s with clk.lock := tput (tput s.clk.lock (2 * region.val) true) (2 * region.val + 1) true }
      (((s.rebubble region).endSubst region).settleCore region).lookPark region
    else s)

/-! ## Setpoints and monitors (R362, R366) -/

/-- A region's setpoint moves one code toward the code asked for, the fused floor at least, unless it has changed less
than 10 us ago (R362). -/
def State.stepSetpoint (s : State) (r : Nat) (k : RegionSt) : RegionSt :=
  let goal := Nat.max k.target.toNat (tget s.part.floors r 0).toNat
  let free := match k.setAt with | some t => decide (t.toNat + 10000 ≤ s.now) | none => true
  if !free || decide (k.setpoint.toNat = goal) then k
  else { k with setpoint := if k.setpoint.toNat < goal then k.setpoint + 1 else k.setpoint - 1
                setAt := some (s.stampIn (regionField r)) }

/-- SETPOINT_UPDATE (R362, R366, R389, R427): while the power sequencer runs; a code above 140 leaves the setpoint as it is,
another becomes the one the setpoint moves to. After a COOLANT_OK stop the uncore regions but F0's stay at the floor. -/
def execSetpointUpdate (region : RegionId) (proc0 proc1 : W16) (target : Byte) (s : State) : Result :=
  .next (
    if s.gen.state = .reset ∨ s.sequencerUp = false then s
    else
      let r := { s.region region with proc0 := proc0, proc1 := proc1 }
      if 140 < target.toNat ∨ (s.thm.coolantStop = true ∧ 120 < region.val) then s.setRegion region r
      else s.setRegion region (s.stepSetpoint region { r with target := target }))

end Sys2Proof.Machine
end

