-- ==== Sys2Proof/Machine/Thermal.lean ====
section
/-! DEFINITION. Capping, heat and trips (R253, R377-R391): the hardware loop, trims, caps coming into force,
firmware's heat policy, die and memory trips, and the COOLANT_OK stop. -/

namespace Sys2Proof.Machine

/-! ## Caps in force (R253, R377) -/

/-- A scope's cap as written: the lower of the host's and the heat cap; 0 is none. -/
def State.capWant (s : State) : Scope → Nat
  | .dev => s.thm.capDev.toNat
  | .field f => s.capField f
  | .region r => s.capRegion r

/-- A scope's cap in force in the loop. -/
def State.capEff (s : State) : Scope → Nat
  | .dev => s.thm.capDevEff.toNat
  | .field f => (tget s.thm.capFieldEff f 0).toNat
  | .region r => (tget s.thm.capRegionEff r 0).toNat

/-- Puts a scope's written cap in force. -/
def State.putCap (s : State) (sc : Scope) : State :=
  let v := BitVec.ofNat 16 (s.capWant sc)
  match sc with
  | .dev => { s with thm.capDevEff := v }
  | .field f => { s with thm.capFieldEff := tput s.thm.capFieldEff f v }
  | .region r => { s with thm.capRegionEff := tput s.thm.capRegionEff r v }

/-- Every cap scope. -/
def scopes : List Scope := [.dev] ++ (List.finRange 12).map .field ++ (List.finRange 120).map .region

/-- Whether a scope's written cap is below the one in force. -/
def State.capLower (s : State) (sc : Scope) : Bool :=
  let w := s.capWant sc
  let e := s.capEff sc
  decide (w ≠ 0) && (decide (e = 0) || decide (w < e))

/-- CAP_PENDING: a lowered cap waits (R253, R260). -/
def State.markCaps (s : State) : State := { s with alm.capPending := scopes.any s.capLower }

/-- Whether the committed sum meets R252 in one scope under its written cap. -/
def State.capMet (s : State) (sc : Scope) : Bool :=
  let peaks := boundPeaks (s.heldStations 0)
  match sc with
  | .dev => s.powerOk peaks s.thm.capDev.toNat (fun _ => 0) (fun _ => 0)
  | .field f => s.powerOk peaks 1000000 (fun x => if x = f.val then s.capField x else 0) (fun _ => 0)
  | .region r => s.powerOk peaks 1000000 (fun _ => 0) (fun x => if x = r.val then s.capRegion x else 0)

/-- What a cap write does to the cap in force: a raise takes effect at once, a lowering once the committed sum
meets it (R253). -/
def State.settleCap (s : State) (sc : Scope) : State :=
  (if s.capLower sc && !s.capMet sc then s else s.putCap sc).markCaps

/-- CAP_LOWER_APPLY (R253). -/
def execCapLowerApply (scope : Scope) (s : State) : Result :=
  .next (if s.capLower scope && s.capMet scope then (s.putCap scope).markCaps else s)

/-! ## The hardware loop (R380, R381) -/

/-- W_PEAK of the station that a committed job binds a core by (R239); none when unbound. -/
def State.corePeak (s : State) (c : Nat) : Option Nat :=
  if s.coreBound c then (((s.core c).station.bind (s.stn (s.core c).job)).map (fun e => e.card.wPeak)) else none

/-- The highest reading of a region's thermal sensors in 0.25 °C, given the highest of those that work: one that has
failed reads 125 °C (R366). -/
def RegionSt.hot (r : RegionSt) (reading : Int) : Int := if r.sensorFailed.isEmpty then reading else max 500 reading

/-- The trim in force in 1/64: 64 in uniform mode (R380, R385). -/
def State.trimOf (s : State) (r : Nat) : Nat := if s.thm.cfg.getLsbD 0 then 64 else (s.region r).trim.toNat

/-- A core's activity since the last tick in 0.25 W: the weighted sum and the leakage, times the trim; uniform mode takes
the reference weights (R380, R385). -/
def State.activity (s : State) (c : Nat) : Nat :=
  let r := s.region c
  if r.state ≠ .on then 0
  else
    let who := if s.thm.cfg.getLsbD 0 then none else some c
    let a := (s.core c).act
    let w := Config.energyWeight who
    (a.ungated * w 0 + a.gated * w 1 + a.vec * w 2 + a.spad * w 3 +
      Config.leakage who (signed 16 r.temp.toNat) r.setpoint.toNat) * s.trimOf c / 64

/-- A core's estimate is clamped to W_PEAK x 9/8 while a job binds it (R380). -/
def State.clampPeak (s : State) (c e : Nat) : Nat :=
  match s.corePeak c with
  | some w => min e (w * 9 / 8)
  | none => e

/-- A core's estimate in 0.25 W (R380). -/
def State.estimate (s : State) (c : Nat) : Nat := s.clampPeak c (s.activity c)

/-- What an activity would have been with no bubbles, from the fraction applied while it was taken (R381). -/
def unbubbled (est bubble : Nat) : Nat := est * 64 / (64 - min bubble 32)

/-- A core's estimate scaled to zero bubbles: it too never exceeds the priced power (R380, R381). -/
def State.fullEstimate (s : State) (c : Nat) : Nat := s.clampPeak c (unbubbled (s.activity c) (s.region c).bubble.toNat)

/-- The smallest b for which E0 x (64 - b) ÷ 64 + F is at most C, else 32 (R381): E0 in 0.25 W, F in W, C in
0.25 W, `pct` the percentage of C that counts in F; a cap of 0 is none. -/
def loopFraction (e0 fixed cap4 pct : Nat) : Nat :=
  if cap4 = 0 then 0
  else ((List.range 33).find? (fun b => decide (100 * e0 * (64 - b) + 25600 * fixed + 64 * pct * cap4 ≤ 6400 * cap4))).getD 32

/-- Non-issue power of regions that no committed job binds, in W (R378). -/
def State.idleSum (s : State) (cs : List Nat) : Nat :=
  let peaks := boundPeaks (s.heldStations 0)
  (cs.map (s.idleW peaks)).foldl (· + ·) 0

/-- The three scopes' fractions: of the device, of each field, of each core region. -/
def State.loopFractions (s : State) (e0 : List Nat) : Nat × List Nat × List Nat :=
  let (fd, ff) := fixedPower s.part.variant
  let sum := fun (cs : List Nat) => (cs.map (fun c => e0.getD c 0)).foldl (· + ·) 0
  (loopFraction (sum (List.range 120)) (fd + s.idleSum (List.range 120)) (4 * s.thm.capDevEff.toNat) 8,
   (List.range 12).map (fun f =>
     let cs := (List.range 10).map (10 * f + ·)
     loopFraction (sum cs) (ff + s.idleSum cs) (4 * (tget s.thm.capFieldEff f 0).toNat) 0),
   (List.range 120).map (fun c => loopFraction (e0.getD c 0) (s.idleSum [c]) (tget s.thm.capRegionEff c 0).toNat 0))

/-- The loop fraction's next value: a rise at once, a fall by one (R381). -/
def nextLoop (old new : Nat) : Nat := Nat.max new (old - 1)

/-- Since when a reading has been below a limit, given the time of the next reading and whether it is below. -/
def coolFrom (since : Option W64) (now : W64) (below : Bool) : Option W64 :=
  if below then (if since.isSome then since else some now) else none

/-- Whether a reading has been below its limit for n ns. -/
def State.cooledFor (s : State) (since : Option W64) (n : Nat) : Bool :=
  match since with | some t => decide (t.toNat + n ≤ s.stamp.toNat) | none => false

/-- The highest reading of a field's regions in 0.25 °C. -/
def State.fieldReading (s : State) (f : Nat) : Int :=
  ((List.range 10).map (fun i => signed 16 (s.region (10 * f + i)).temp.toNat)).foldl max (signed 16 (s.region (120 + f)).temp.toNat)

/-- A field's TEMP and how long it has been cool, from its regions' readings (R386, R391). -/
def State.readField (s : State) (f : Nat) : State :=
  let t := s.fieldReading f
  { s.modField f (fun k => { k with coolSince := coolFrom k.coolSince s.stamp (decide (t < 340)) }) with
    thm.fieldTemp := tput s.thm.fieldTemp f (BitVec.ofNat 8 (t / 4).toNat) }

/-- A region's reading, with how long it has been below 95 °C (R366, R387). -/
def State.readRegion (s : State) (r : Nat) (reading : Int) : State :=
  s.modRegion r (fun k => { k with
    temp := BitVec.ofInt 16 (k.hot reading), coolSince := coolFrom k.coolSince s.stamp (decide (k.hot reading < 380)) })

/-- Takes what the monitors read: TEMP and CURRENT of each region, TEMP of each field in whole degrees (R366, R391). -/
def State.readMonitors (s : State) (temps : List Int) (currents : List Nat) : State :=
  let s := (List.range 132).foldl (fun (s : State) r =>
    (s.readRegion r (temps.getD r 0)).modRegion r (fun k => { k with current := BitVec.ofNat 16 (currents.getD r 0) })) s
  (List.range 12).foldl (fun (s : State) f => s.readField f) s

/-- HARDWARE_LOOP_TICK (R366, R380, R381, R391): the estimates of the last 1 us, the three scopes' fractions, the loop
fraction of every core and of the field's Loupe unit. -/
def execHardwareLoopTick (temps : List Int) (currents : List Nat) (s : State) : Result :=
  .next (
    if s.gen.state = .reset then s
    else
      let s := s.readMonitors temps currents
      let now := (List.range 120).map s.estimate
      let e0 := (List.range 120).map s.fullEstimate
      let (bd, bf, br) := s.loopFractions e0
      let (fd, ff) := fixedPower s.part.variant
      let total := fun (cs : List Nat) => (cs.map (fun c => now.getD c 0)).foldl (· + ·) 0
      let s := (List.range 120).foldl (fun (s : State) c =>
        ((s.modCore c (fun k => { k with act := {} })).modRegion c (fun r => { r with
          est := BitVec.ofNat 16 (now.getD c 0)
          loop := nextLoop r.loop (Nat.max bd (Nat.max (bf.getD (coreField c) 0) (br.getD c 0))) })).rebubble c) s
      let s := (List.range 12).foldl (fun (s : State) f =>
        (s.modRegion (120 + f) (fun r => { r with est := BitVec.ofNat 16 (4 * ff) })).modLoupe f (fun l =>
          { l with loop := nextLoop l.loop (Nat.max bd (bf.getD f 0)) })) s
      let fieldW := fun f => let cs := (List.range 10).map (10 * f + ·); (total cs + 3) / 4 + ff + s.idleSum cs
      let devW := (total (List.range 120) + 3) / 4 + fd + s.idleSum (List.range 120) + 8 * s.thm.capDevEff.toNat / 100
      let binding := decide (bd ≠ 0) || bf.any (· != 0) || br.any (· != 0)
      { s with
        thm.estDev := BitVec.ofNat 16 devW
        thm.fieldEst := (List.range 12).map (fun f => (f, BitVec.ofNat 16 (fieldW f)))
        thm.status := if binding then setFlag s.thm.status 1 else s.thm.status })

/-- The fraction applied in a field's Loupe unit: the device's and the field's loop fractions, and the floor of a capped
uncore region (R381). -/
def LoupeSt.applied (l : LoupeSt) : Nat := Nat.max l.loop (if l.capped then 26 else 0)

/-- TRIM_UPDATE (R366, R380, R427): every 1 ms the power sequencer moves a core region's trim by 1/64 at most, within
56/64 to 72/64, toward the measured current times the setpoint voltage; in uniform mode it leaves the trim alone, which
64/64 stands in for (R385). -/
def execTrimUpdate (region : RegionId) (current : W16) (s : State) : Result :=
  .next (
    if s.gen.state = .reset then s
    else
      let r := { s.region region with current := current }
      let est := r.est.toNat * 50000
      let meas := current.toNat * setpoint2 r.setpoint
      let due := match r.trimAt with | some t => decide (t.toNat + 1000000 ≤ s.stamp.toNat) | none => true
      if region.val < 120 && s.sequencerUp && !s.thm.cfg.getLsbD 0 && due then
        let t : BitVec 7 := if est < meas ∧ r.trim.toNat < 72 then r.trim + 1 else if meas < est ∧ 56 < r.trim.toNat then r.trim - 1 else r.trim
        s.setRegion region { r with trim := t, trimAt := some s.stamp }
      else s.setRegion region r)

/-- A run that outran its card (R245, R383): ABORTED, CARD_OVERRUN. -/
def State.overrun (s : State) (tag : W32) : State :=
  { s.endItem tag stAborted 0x1003 with alm.overrunCount := sat s.alm.overrunCount, alm.status := setFlag s.alm.status 2 }

/-- POWER_HALT (R383): the run in progress on a core whose measured power exceeds W_PEAK x 9/8. -/
def execPowerHalt (core : CoreId) (measured : Nat) (s : State) : Result :=
  .next (
    match (s.core core).run, s.corePeak core with
    | some r, some w =>
      if 9 * w < 8 * measured then
        { s.overrun r.work with thm.status := setFlag s.thm.status 6, thm.halts := sat s.thm.halts }
      else s
    | _, _ => s)

/-! ## Heat (R386) -/

/-- A field's fixed power in W (R378). -/
def State.fieldFixed (s : State) (f : Nat) : Nat :=
  (fixedPower s.part.variant).2 + s.idleSum ((List.range 10).map (10 * f + ·))

/-- The hottest sensor of a field as firmware sees it, given that of the sensors that work (R366). -/
def State.fieldHot (s : State) (f degC : Nat) : Nat :=
  if (List.range 132).any (fun r => regionField r == f && !(s.region r).sensorFailed.isEmpty) then Nat.max degC 125 else degC

/-- Whether firmware may set a field's heat cap: so many ns since it last did. The rule gives the first raise no time to
count from; it counts from the last setting of the cap (DESIGN CHOICE, log 129). -/
def State.heatDue (s : State) (f n : Nat) : Bool :=
  match (s.field f).heatAt with | some t => decide (t.toNat + n ≤ s.stamp.toNat) | none => true

/-- Firmware sees a field's hottest sensor in whole degrees (R386, R391). -/
def State.seeField (s : State) (f degC : Nat) : State :=
  { s.modField f (fun k => { k with coolSince := coolFrom k.coolSince s.stamp (decide (degC < 85)) }) with
    thm.fieldTemp := tput s.thm.fieldTemp f (BitVec.ofNat 8 degC) }

/-- Firmware sets a field's heat cap, in W. -/
def State.setHeat (s : State) (f w : Nat) : State :=
  (s.modField f (fun k => { k with heatCap := BitVec.ofNat 16 (min w 65535), heatAt := some s.stamp })).settleCap (.field (Fin.ofNat 12 f))

/-- HEAT_THROTTLE (R386): a field at 95 °C or more, once every 100 ms. -/
def execHeatThrottle (field : FieldId) (degC : Nat) (measured : Nat) (s : State) : Result :=
  .next (
    let degC := s.fieldHot field degC
    if s.gen.state = .reset ∨ s.sequencerUp = false ∨ degC < 95 then s
    else
      let s := s.seeField field degC
      if !s.heatDue field 100000000 then s
      else ({ s with thm.status := setFlag s.thm.status 2 } : State).setHeat field (Nat.max (measured * 15 / 16) (s.fieldFixed field)))

/-- Ends the darkening for heat of a field's regions: those that firmware holds dark power up, unless the
host parks them (R371, R386). -/
def State.releaseDark (s : State) (f : Nat) : State :=
  (List.range 10).foldl (fun (s : State) i =>
    let c := 10 * f + i
    let r := s.region c
    if !r.heat then s
    else
      let s := s.setRegion c { r with heat := false }
      let parked := match s.logicalOf c with | some l => s.parkBit l | none => false
      if r.state = .retention then (if parked then s.modRegion c (fun r => { r with darkCause := 1 }) else s.powerUp c)
      else s.lookPark c) s

/-- Twice the figure, in 0.25 W, at which a field's heat cap is removed: 150% of its fixed power plus its
committed core power (R386). -/
def State.heatLimit (s : State) (f : Nat) : Nat :=
  let peaks := (boundPeaks (s.heldStations 0)).filter (fun x => lcoreField x.1 == f)
  3 * (4 * s.fieldFixed f + ((peaks.map (·.2)).foldl (· + ·) 0) * 9 / 8)

/-- HEAT_RELEASE (R386): below 90 °C the heat cap rises by 1/16 each 1 s; after 1 s below 85 °C the field's dark regions
return. -/
def execHeatRelease (field : FieldId) (degC : Nat) (s : State) : Result :=
  .next (
    let degC := s.fieldHot field degC
    if s.gen.state = .reset ∨ s.sequencerUp = false ∨ 90 ≤ degC then s
    else
      let s := s.seeField field degC
      let h := (s.field field).heatCap.toNat
      let up := h + Nat.max 1 (h / 16)
      let host := (tget s.thm.capField field 0).toNat
      let done := (decide (host ≠ 0) && decide (host ≤ up)) || decide (s.heatLimit field ≤ 8 * up)
      let s := if h = 0 || !s.heatDue field 1000000000 then s else s.setHeat field (if done then 0 else up)
      if s.cooledFor (s.field field).coolSince 1000000000 && !s.thm.coolantStop then s.releaseDark field else s)

/-- HEAT_DARK (R371, R375, R386): an unbound core region at 95 °C or more is requested into RETENTION for heat. One
that is there at the host's request is dark for heat from now on, and so is one whose power-up is requested in this
moment: heat wins. -/
def execHeatDark (region : CoreId) (degC : Nat) (s : State) : Result :=
  .next (
    let r := s.region region
    let hot := decide (95 ≤ degC) || !r.sensorFailed.isEmpty
    let now := decide (r.state = .waiting) && decide (r.waitSince = some s.stamp) && r.subst.isNone
    if s.sequencerUp = false ∨ hot = false ∨ s.thm.coolantStop = true ∨ s.coreBound region = true then s
    else if r.state = .on then
      ({ s.setRegion region { r with heat := true } with thm.status := setFlag s.thm.status 3 } : State).lookPark region
    else if r.state = .retention ∨ now = true then
      { s.setRegion region { r with heat := true, state := .retention, darkCause := 2, waitSince := none } with
        thm.status := setFlag s.thm.status 3 }
    else s)

/-! ## Trips (R387, R388) -/

/-- TRIP (R387): two samples of one sensor at 105 °C or more, as one that has failed always reads (R366). -/
def execTrip (region : RegionId) (first second : Nat) (s : State) : Result :=
  .next (
    let r := s.region region
    let a := r.hot first
    let b := r.hot second
    if s.gen.state = .reset ∨ a < 420 ∨ b < 420 ∨ r.tripped = true then s
    else
      let s := (s.setRegion region { r with tripped := true, temp := BitVec.ofInt 16 (max a b), coolSince := none }).readField (regionField region)
      let s := { s with thm.status := setFlag s.thm.status 4, thm.trips := sat s.thm.trips }
      if region.val < 120 then
        s.endItems (s.itemOn (fun c => c == region.val) (fun _ => false)) stThermal (regionDetail region)
      else
        let f := region.val - 120
        s.endItems (s.itemOn (fun c => coreField c == f) (fun x => x == f)) stThermal (regionDetail region))

/-- TRIP_END (R387): every sensor of the region has read below 95 °C for 10 ms, which one that has failed never does. -/
def execTripEnd (region : RegionId) (s : State) : Result :=
  .next (
    let r := s.region region
    if r.sensorFailed.isEmpty && s.cooledFor r.coolSince 10000000 then s.modRegion region (fun r => { r with tripped := false }) else s)

/-- Sets or clears a memory device's trip bit. -/
def State.putMemTrip (s : State) (dev : MemDev) (on : Bool) : State :=
  match dev with
  | .hbm f k =>
    let m := BitVec.ofNat 24 (2 ^ (2 * f.val + k.val))
    { s with thm.memHbm := if on then s.thm.memHbm ||| m else s.thm.memHbm &&& ~~~ m }
  | .lpddr f k =>
    let m := BitVec.ofNat 48 (2 ^ (4 * f.val + k.val))
    { s with thm.memLp := if on then s.thm.memLp ||| m else s.thm.memLp &&& ~~~ m }

/-- Whether a memory device is tripped. -/
def State.memTripped (s : State) : MemDev → Bool
  | .hbm f k => s.thm.memHbm.getLsbD (2 * f.val + k.val)
  | .lpddr f k => s.thm.memLp.getLsbD (4 * f.val + k.val)

/-- The number of a memory device: stacks from 0, packages from 24. -/
def devKey : MemDev → Nat
  | .hbm f k => 2 * f.val + k.val
  | .lpddr f k => 24 + 4 * f.val + k.val

/-- MEM_TRIP (R193, R388): a reading above 95 °C. -/
def execMemTrip (dev : MemDev) (quarterC : Nat) (s : State) : Result :=
  .next (
    if s.gen.state = .reset ∨ quarterC ≤ 380 ∨ s.memTripped dev = true then s
    else { s.putMemTrip dev true with
      thm.status := setFlag s.thm.status 5, thm.memTrips := sat s.thm.memTrips, thm.memCool := tdel s.thm.memCool (devKey dev) })

/-- MEM_TRIP_END (R388): a reading of a tripped device, which leaves self-refresh once it has read below 85 °C for 10 ms. -/
def execMemTripEnd (dev : MemDev) (quarterC : Nat) (s : State) : Result :=
  .next (
    if s.gen.state = .reset ∨ s.memTripped dev = false then s
    else if 340 ≤ quarterC then { s with thm.memCool := tdel s.thm.memCool (devKey dev) }
    else
      let since := coolFrom (tget? s.thm.memCool (devKey dev)) s.stamp true
      if s.cooledFor since 10000000 then { s.putMemTrip dev false with thm.memCool := tdel s.thm.memCool (devKey dev) }
      else { s with thm.memCool := tput s.thm.memCool (devKey dev) (since.getD s.stamp) })

/-- THERMAL_SENSOR_FAILED (R366): reported, and read as 125 °C from then on. -/
def execThermalSensorFailed (region : RegionId) (sensor : Fin 8) (s : State) : Result :=
  .next (
    let r := s.region region
    if s.gen.state = .reset ∨ (if region.val < 120 then 4 else 8) ≤ sensor.val ∨ r.sensorFailed.contains sensor.val = true then s
    else
      let s := s.setRegion region { r with sensorFailed := r.sensorFailed ++ [sensor.val], temp := BitVec.ofInt 16 (max 500 (signed 16 r.temp.toNat)) }
      let f := regionField region
      let s := (s.modRegion region (fun r => { r with coolSince := none })).readField f
      s.record 0x09 13 (regionDetail region) (le 1 region ++ le 1 2 ++ le 1 sensor) (regionField region))

/-! ## The COOLANT_OK stop (R389) -/

/-- What the stop does once begun: items end, regions go dark, the setpoints of F1 to F11 are on their way to the floor (R362),
memories enter self-refresh, links go idle. The
locus in the items' DETAIL is one the spec does not give: a free value of class 0x7. -/
def State.coolantStop (s : State) : State :=
  let s := { s with thm.coolantStop := true, thm.status := setFlag s.thm.status 8, gen.stopCoolant := true }
  let s := s.refresh
  let (x, s) := s.fresh32
  let s := s.endItems (fun _ => true) stCoolant (0x7000 + x.toNat % 4096)
  let s := (List.range 120).foldl (fun (s : State) c =>
    if (s.region c).state = .on ∨ (s.region c).state = .ramping then
      let s := if (s.region c).state = .ramping ∧ (s.region c).rampDone = false then s.endRampFloor c else s
      (s.goDark c 4).modRegion c (fun r => { r with subst := none })
    else s) s
  let s := (List.range 11).foldl (fun (s : State) i =>
    let s := s.modRegion (121 + i) (fun r => { r with target := tget s.part.floors (121 + i) 0 })
    { s with clk.lock := tdel s.clk.lock (241 + i) }) s
  { s with
    cxl.selfRefresh := true
    cls.links := (List.range 6).map (fun l => let k := s.link l; (l, if k.state = .off then k else { k.wipe with state := .off, offCause := 5, lanes := [] })) }

/-- Whether the regulators have been started in this bring-up: the stop runs from step 3 on (R449). -/
def State.regulated (s : State) : Bool :=
  decide (s.gen.state ≠ .reset) && decide (s.gen.state ≠ .recovery) && s.gen.bringStep != 2 && s.gen.bringStep != 3 && !s.pwr.faulted

/-- COOLANT_OK_STOP (R389, R449): COOLANT_OK deasserts. -/
def execCoolantOkStop (s : State) : Result :=
  .next (
    let s := { s with thm.coolantOk := false }
    if s.thm.coolantStop || !s.regulated then s else s.coolantStop)

end Sys2Proof.Machine
end

