-- ==== Sys2Proof/Machine/Clock.lean ====
section
/-! DEFINITION. Clocking (R333-R342, R352-R355): loss of reference, relock and realignment, the Calendar
counters of the fields, and Filigree beats that fail. -/

namespace Sys2Proof.Machine

/-- Sets or clears ALM_STATE.HOLDOVER; its change is a device event (R255, R326). -/
def State.setHoldover (s : State) (on : Bool) : State :=
  if s.alm.holdover = on then s else ({ s with alm.holdover := on } : State).event 4

/-- REFERENCE_LOSS (R255, R352, R355, R492): every PLL goes on with the holdover source; a pull-in is abandoned. In RESET it
has no effect but that bring-up waits for validity. -/
def execReferenceLoss (s : State) : Result :=
  .next (
    let s := { s with pins.refBad := true }
    if s.gen.state = .reset ∨ (s.clk.ref = .holdover ∧ s.clk.refValid = false) then s
    else
      ({ s with clk.ref := .holdover, clk.refValid := false, clk.refLoss := sat s.clk.refLoss
                clk.status := setFlag s.clk.status 2 } : State).setHoldover true)

/-- The reference is valid again: relock starts at once unless MANUAL_RELOCK is set (R353). -/
def State.referenceValid (s : State) : State :=
  let s := { s with pins.refBad := false }
  if s.clk.ref = .holdover ∧ s.clk.refValid = false then
    { s with clk.refValid := true, clk.ref := if s.clk.cfg.getLsbD 0 then .holdover else .pullIn }
  else s

/-- The RELOCK command (R353, R355): ignored with BAD_CMD unless in HOLDOVER with the reference valid again. -/
def State.relock (s : State) : State :=
  if s.clk.ref = .holdover ∧ s.clk.refValid = true then { s with clk.ref := .pullIn }
  else { s with clk.status := setFlag s.clk.status 1 }

/-- RELOCK: the command through CLK_CTRL, where a register write reaches. -/
def execRelock (s : State) : Result :=
  .next (if s.gen.state = .reset ∨ s.gen.state = .recovery ∨ s.cxl.d3 = true then s else s.relock)

/-- Begins to realign a core (R353): every item with a run on it ends FAULT_REFERENCE, issue stops and its queues are
emptied; scratchpad, planes, bank and vector registers stay. -/
def State.realign (s : State) (c : Nat) : State :=
  let s := s.endItems (s.itemRuns (fun l => s.phys l == some c) (fun _ => false)) stReference (0x7000 + (s.logicalOf c).getD 0)
  let s := (s.overtake c (fun _ => true)).modCore c (fun k => { k with
    arrQ := [], passes := [], dmaQ := [], drain := none, hstop := false, realigning := true })
  { s with clk.realigning := true }

/-- A core whose crossings Equinox has aligned again (R353). -/
def CoreSt.realigned (k : CoreSt) : CoreSt :=
  if k.realigning then { k with realigning := false, aligned := true, slip := 0, slipArray := 0, holding := false, holdingArray := false, holdBefore := none }
  else k

/-- Relock is complete: admission resumes (R255, R353). -/
def State.relocked (s : State) : State := ({ s with clk.status := setFlag s.clk.status 3 } : State).setHoldover false

/-- The realignments under way are complete: each is counted; admission resumes, unless the reference has been lost again
(R353, R355). -/
def State.endRealign (s : State) : State :=
  let n := (s.cores.filter (fun e => e.2.realigning)).length
  let s : State := { s with
    cores := tmap s.cores (fun _ k => k.realigned), clk.realigning := false
    clk.status := if n = 0 then s.clk.status else setFlag s.clk.status 4
    clk.realign := (List.range n).foldl (fun x _ => sat x) s.clk.realign }
  if s.clk.ref = .locked then s.relocked else s

/-- Whether the realignments under way end: the spec gives them 2 us at most, and the time they take is a free value (R353). -/
def State.realignDue (s : State) : Bool := s.clk.realigning && decide (s.clk.realignEnd.toNat ≤ s.stamp.toNat)

/-- The magnitude of a slip in half entries as a number of entries, a half counting as one (log 103). -/
def slipMag (v : Int) : Nat := (v.natAbs + 1) / 2

/-- What pull-in's end does to one core: the reference has shifted its two crossings by so many entries, and stretch
slip counts as well (R353). -/
def State.judgeSlip (s : State) (x : Nat × Int × Int) : State :=
  let k := s.core x.1
  if !k.aligned || k.realigning then s
  else
    let v := k.slip + 2 * x.2.1
    let w := k.slipArray + 2 * x.2.2
    let s := { s with clk.maxSlip := BitVec.ofNat 4 (Nat.max s.clk.maxSlip.toNat (min 15 (Nat.max (slipMag v) (slipMag w)))) }
    if v.natAbs ≤ 6 ∧ w.natAbs ≤ 6 then
      s.setCore x.1 { k with slip := v, slipArray := w
                             holding := decide (v ≠ 0) && (k.holding || decide (4 ≤ v.natAbs))
                             holdingArray := decide (w ≠ 0) && (k.holdingArray || decide (4 ≤ w.natAbs)) }
    else s.realign x.1

/-- The end of pull-in (R353, R355): the slip of every crossing is judged, and cores beyond 3 entries are realigned;
admission resumes when that is complete, which with no core to realign it is at once. A core that the command does not
name has not been shifted. -/
def State.pullInEnd (s : State) (shifts : List (CoreId × Int × Int)) : State :=
  if s.clk.ref ≠ .pullIn then s
  else
    let s := (List.range 120).foldl (fun (s : State) c =>
      s.judgeSlip (c, ((shifts.find? (fun x => x.1.val == c)).map (·.2)).getD (0, 0))) s
    let s := { s with clk.ref := .locked }
    if s.clk.realigning then
      let (x, s) := s.fresh32
      { s with clk.realignEnd := s.stamp + BitVec.ofNat 64 (x.toNat % 2001) }
    else s.relocked

/-! ## Calendar counters (R339, R340) -/

/-- CALENDAR_SYNC (R339, R340): a field compares its count with the count that the master sent, `travel` ns ago, plus
the field's path delay. Up to 16 ns is slewed; beyond, a field behind steps forward and one ahead holds until the
master reaches it (slewPhase 64). -/
def execCalendarSync (field : FieldId) (travel : Nat) (s : State) : Result :=
  .next (
    if s.gen.state = .reset then s
    else
      let k := s.field field
      let d : Int := k.calDiff + travel - k.pathDelay
      let k := { k with calOff := max (-128) (min d 127) }
      if k.slewPhase = 64 then s.setField field k
      else if d.natAbs ≤ 16 then s.setField field { k with slew := -d }
      else
        let s := { s with clk.status := setFlag s.clk.status 7 }
        if d < 0 then s.setField field { k with calDiff := k.calDiff - d, slew := 0, slewPhase := 0 }
        else s.setField field { k with slew := 0, slewPhase := 64 })

/-- Half of each field's round trip is its path delay (R339). -/
def State.measureTrips (s : State) (trips : List Nat) : State :=
  (trips.zipIdx.filter (fun x => decide (x.2 < 12))).foldl (fun (s : State) x => s.modField x.2 (fun k => { k with pathDelay := x.1 / 2 })) s

/-- PATH_DELAY_MEASURE (R339): every 1 ms. -/
def execPathDelayMeasure (trips : List Nat) (s : State) : Result :=
  .next (if s.gen.state = .reset then s else s.measureTrips trips)

/-! ## Filigree beats (R334, R337) -/

/-- What is lost with a CONTROL beat whose second copy fails: the items it belonged to end, a strand that lost
a message is emptied and rebound; the other kinds of message are sent again (R337). -/
def State.loseBeat (s : State) (detector : Nat) (cargo : BeatCargo) : State :=
  let dead := fun (s : State) (ws : List W32) => ws.foldl (fun (s : State) w => s.killItem w stMemory (0x7300 + detector)) s
  match cargo with
  | .strandMsg n ws => (dead s ws).rebindStrand n
  | .eventSignal ws => dead s ws
  | .calendar => s
  | .invalidation => s
  | .management => s

/-- CTRL_RESEND (R337): a beat with an uncorrectable error is asked for once more; `twice`: that copy fails too. -/
def execCtrlResend (link : Fin 16) (dir : Bool) (detector : FieldId) (twice : Bool) (cargo : BeatCargo) (s : State) : Result :=
  .next (
    if s.gen.state = .reset then s
    else
      let s := { s with clk.ctrlResend := sat s.clk.ctrlResend }
      if twice then
        let s := { s with clk.status := setFlag s.clk.status 8 }
        let s := s.record 0x05 (1 + detector.val) (0x7300 + detector.val) (le 1 link ++ le 1 (if dir then 1 else 0) ++ le 1 detector)
        s.loseBeat detector cargo
      else s)

end Sys2Proof.Machine
end

