-- ==== Sys2Proof/Machine/Rings.lean ====
section
/-! DEFINITION. Rings, doorbells, descriptor fetch, completions and interrupts (R277-R298). -/

namespace Sys2Proof.Machine

/-- Whether the CXL link is down: in RESET, or because it has not trained to CXL (R261, R263). -/
def State.linkDown (s : State) : Bool := decide (s.gen.state = .reset) || s.cxl.down

/-- Whether a BAR access reaches the device: the link is up, and not in D3hot (R261, R264, R313). -/
def State.reachable (s : State) : Bool := !s.linkDown && !s.cxl.d3

/-- Whether a register write has effect: reachable, and not in RECOVERY (R313, R440). -/
def State.writable (s : State) : Bool := s.reachable && decide (s.gen.state ≠ .recovery)

/-! ## Doorbells -/

/-- Whether an index moves from its last value towards a limit and not past it, modulo 65,536 (R281). -/
def indexOk (last limit new : W16) : Bool := decide ((new - last).toNat ≤ (limit - last).toNat)

/-- Whether SQ_TAIL is valid: no earlier than the last, and at most the ring ahead of SQ head (R281). -/
def RingSt.tailOk (k : RingSt) (t : W16) : Bool :=
  decide ((k.sqTail - k.sqHead).toNat ≤ (t - k.sqHead).toNat) && decide ((t - k.sqHead).toNat ≤ 2 ^ k.sqLog)

/-- The indices a doorbell write carries: SQ_TAIL and CQ_HEAD, TILE_HEAD (R280); none for another size or
alignment, which has no effect (R266). -/
def doorbellCarries (size off : Nat) (v : W64) : Option (Option (W16 × W16) × Option W16) :=
  let lo := some (BitVec.ofNat 16 v.toNat, BitVec.ofNat 16 (v.toNat / 65536))
  if size = 8 ∧ off = 0 then some (lo, some (BitVec.ofNat 16 (v.toNat / 2 ^ 32)))
  else if size = 4 ∧ off = 0 then some (lo, none)
  else if size = 4 ∧ off = 4 then some (none, some (BitVec.ofNat 16 v.toNat))
  else none

/-- A doorbell on an ON or STOPPING ring (R278, R281): every index carried must be valid, or the ring
halts with DOORBELL_ERR and none is applied. A STOPPING ring ignores SQ_TAIL. -/
def State.doorbell (s : State) (n : Nat) (lo : Option (W16 × W16)) (hi : Option W16) : State :=
  let k := s.ring n
  let on := decide (k.state = .on)
  if lo.all (fun l => (!on || k.tailOk l.1) && indexOk k.cqHead k.cqTail l.2) && hi.all (indexOk k.tileHead k.tileTail) then
    s.setRing n { k with sqTail := if on then (lo.map (·.1)).getD k.sqTail else k.sqTail,
                         cqHead := (lo.map (·.2)).getD k.cqHead, tileHead := hi.getD k.tileHead }
  else s.ringHalt n 1

/-- A write of `size` bytes at an offset of a ring's doorbell: it has effect on an ON or STOPPING ring (R280, R281). -/
def State.doorbellWrite (s : State) (n size off : Nat) (v : W64) : State :=
  match doorbellCarries size off v with
  | some (lo, hi) => if (s.ring n).state = .on ∨ (s.ring n).state = .stopping then s.doorbell n lo hi else s
  | none => s

/-- A write at a BAR2 offset; past the doorbells it has no effect (R266). -/
def State.bar2Write (s : State) (off size : Nat) (v : W64) : State :=
  if 65536 ≤ off then s else s.doorbellWrite (off / 8) size (off % 8) v

/-- DOORBELL (R280, R281). -/
def execDoorbell (ring : RingId) (size off : Nat) (value : W64) (s : State) : Result :=
  .next (if s.reachable then s.doorbellWrite ring size off value else s)

/-- Code of a ring state in a doorbell read (R280). -/
def RingState.code : RingState → Nat
  | .off => 0 | .on => 1 | .stopping => 2 | .halted => 3

/-- The 64 bits that a read of a ring's doorbell finds (R280). -/
def RingSt.doorbellValue (k : RingSt) : W64 :=
  BitVec.ofNat 64 (k.sqHead.toNat + 2 ^ 16 * k.cqTail.toNat + 2 ^ 32 * k.tileTail.toNat + 2 ^ 48 * k.state.code)

/-- A read of `size` bytes at a BAR2 offset: aligned 4 and 8 bytes of a doorbell; another size or alignment, or an offset
past the doorbells, reads 0 (R266, R280). -/
def State.bar2Value (s : State) (off size : Nat) : W64 :=
  if 65536 ≤ off then 0
  else
    let v := (s.ring (off / 8)).doorbellValue
    if size = 8 ∧ off % 8 = 0 then v
    else if size = 4 ∧ off % 8 = 0 then v &&& 0xFFFFFFFF#64
    else if size = 4 ∧ off % 8 = 4 then v >>> 32
    else 0

/-! ## Fetch -/

/-- Whether the hub may fetch from a ring: ON, a descriptor pending, free CQ entries beyond the descriptors
not yet completed and the steps in flight of its streams, and no descriptor waiting for intake (R283, R284). -/
def State.fetchable (s : State) (n : Nat) (k : RingSt) : Bool :=
  let steps := (s.alm.items.filter (fun i => i.step.isSome && i.ring == n)).length
  decide (k.state = .on) && (k.sqTail != k.sqHead) && decide (k.outstanding + steps < k.cqFree) && !k.waitIntake

/-- The ring whose turn it is: the next eligible one after the last in round robin (R283). -/
def State.fetchTurn (s : State) : Option Nat :=
  let es := (s.rng.rings.filter (fun e => s.fetchable e.1 e.2)).map (·.1)
  let key := fun n => (n + 8191 - s.rng.rr) % 8192
  es.foldl (fun b n => match b with | none => some n | some m => if key n < key m then some n else some m) none

/-- DESCRIPTOR_FETCH (R268, R269, R283, R299). -/
def execDescriptorFetch (mem : HostMem) (cplBad : Bool) (s : State) : Result :=
  .next (
    if (s.gen.state == .ready || s.gen.state == .stopped) && !s.cxl.down && !s.cxl.d3 then
      match s.fetchTurn with
      | some n =>
        let k := s.ring n
        let a := k.sqBase.toNat + 64 * (k.sqHead.toNat % 2 ^ k.sqLog)
        let s := ({ s with rng.rr := n } : State).put (.hostRead a 64)
        if hostFails mem a 64 then s.ringHalt n 2
        else
          let d : Desc := { ring := n, index := k.sqHead, bytes := hostRead mem a 64, cplBad := cplBad }
          s.setRing n { k with sqHead := k.sqHead + 1, fetched := k.fetched ++ [d], outstanding := k.outstanding + 1 }
      | none => s
    else s)

/-- NOP (R287): no operands, no effect. -/
def execNopDesc (ring : RingId) (s : State) : Result :=
  .next (s.land ring 0x01 (fun _ => []) (fun d s => s.finish (descPend d) stDone 0))

/-! ## Completions of admitted items -/

/-- The completion of an item (R21, R149, R292): its status, or DONE, or DONE_SUSPECT. -/
def State.itemRec (s : State) (i : Item) : Rec32 :=
  let st := i.status.getD (if i.suspect then stSuspect else stDone, 0)
  { tag := i.tag, sqIndex := if i.step.isSome then 0 else i.sqIndex, status := st.1
    kind := if i.step.isSome then 1 else 0, sat := i.sat, time := s.stamp, detail := st.2
    count := BitVec.ofNat 16 (if i.step.isSome then i.slotsIn.length else 0)
    tileTail := (s.ring i.ring).tileTail, tileCount := BitVec.ofNat 16 i.tilesOut
    value := BitVec.ofNat 64 (if i.step.isSome then i.stepNo else 0), irq := i.irq, item := true }

/-- Whether an item's completion may be formed: it has ended otherwise, or its last window has ended, its
tiles are written and its DEADLINE has not passed (R22, R234, R295). -/
def State.completable (s : State) (i : Item) : Bool :=
  i.status.isSome || (s.itemEnded i && !s.tilesDue i && decide (s.now ≤ i.deadline.toNat))

/-- Whether an item's completion is held on its ring (R294). -/
def State.heldItem (s : State) (i : Item) : Bool := (s.ring i.ring).held.any (fun r => r.item && r.tag == i.tag)

/-- Writes the completion of an item; a write that fails halts the ring with CPL_ERR (R269). -/
def State.writeItem (s : State) (n : Nat) (r : Rec32) (ok : Bool) : State :=
  if ok then ((s.writeCpl n r).settleItem r.tag r.status).finishHalts else s.ringHalt n 3

/-- Whether an item is the next whose completion is formed: of those that may be, the one of the earliest priced
completion (R295). -/
def State.nextFormed (s : State) (i : Item) : Bool :=
  !s.heldItem i && s.completable i &&
  s.alm.items.all (fun j => decide (i.cslot ≤ j.cslot) || s.heldItem j || !s.completable j)

/-- COMPLETION (R269, R279, R293-R295). -/
def execCompletion (tag : W32) (writeOk : Bool) (s : State) : Result :=
  .next (match s.item? tag with
    | some i =>
      if !s.nextFormed i then s
      else
        let k := s.ring i.ring
        let r := s.itemRec i
        if k.silent then ((s.loseCpl i.ring r).settleItem tag r.status).finishHalts
        else if k.held.isEmpty && decide (0 < k.cqFree) then s.writeItem i.ring r writeOk
        else s.setRing i.ring { k with held := k.held ++ [r] }
    | none => s)

/-- Counts an item that the host's withheld space ended (R258, R260, R294). -/
def State.countHostAbort (s : State) : State :=
  { s with alm.status := setFlag s.alm.status 3, alm.hostAbortCount := sat s.alm.hostAbortCount }

/-- Whether a held completion is that of an item whose DEADLINE has passed and that nothing has ended (R294). -/
def State.heldLate (s : State) (r : Rec32) : Bool :=
  r.item && (match s.item? r.tag with
    | some i => i.status.isNone && decide (i.deadline.toNat < s.now)
    | none => false)

/-- A held completion as it is written: a held item is incomplete, so what has ended it since decides its status, the
DEADLINE that passed with it held among the causes (R22, R234, R294, R303). -/
def State.heldRec (s : State) (r : Rec32) : Rec32 :=
  if s.heldLate r then { r with status := stAborted, detail := 0x1004 }
  else if r.item then
    match (s.item? r.tag).bind (·.status) with
    | some st => { r with status := st.1, detail := st.2 }
    | none => r
  else r

/-- HELD_COMPLETION_WRITE (R269, R294): the oldest held completion of a ring with a free CQ entry. -/
def execHeldCompletionWrite (ring : RingId) (writeOk : Bool) (s : State) : Result :=
  .next (
    let k := s.ring ring
    match k.held with
    | r :: rest =>
      if k.silent || decide (k.cqFree = 0) then s
      else if writeOk && !r.bad then
        let w := s.heldRec r
        let s := if s.heldLate r then s.countHostAbort else s
        let s := (s.setRing ring { k with held := rest }).writeCpl ring w
        (if r.item then s.settleItem r.tag w.status else s.settleRing ring).finishHalts
      else s.ringHalt ring 3
    | [] => s)

/-- HOST_STALL (R294): at the DEADLINE of an item whose completion is held. -/
def execHostStall (tag : W32) (s : State) : Result :=
  .next (match s.item? tag with
    | some i =>
      if s.heldItem i && decide (i.deadline.toNat ≤ s.now) && i.status.isNone then
        let s := s.modItem tag (fun i => { i with status := some (stAborted, 0x1004) })
        (s.modRing i.ring (fun k => { k with held := k.held.map (fun r =>
          if r.item && r.tag == tag then { r with status := stAborted, detail := 0x1004 } else r) })).countHostAbort
      else s
    | none => s)

/-- Free slots of a ring's tile area (R291). -/
def RingSt.tileFree (k : RingSt) : Nat := if k.tileLog = 0 then 0 else 2 ^ k.tileLog - (k.tileTail - k.tileHead).toNat

/-- Whether the host's withheld space keeps a strand into a HOST station from taking an item's tiles: its outbound buffer
holds DEPTH tiles, or it holds a tile of the item while the ring's tile area is full (R258, R291). -/
def State.outboundStuck (s : State) (i : Item) (k : StrandSt) : Bool :=
  match s.dstStn k with
  | some st => decide (st.kind = .host) &&
      (decide (k.entry.depth ≤ k.outbound.length) ||
        (decide ((s.ring st.target).tileFree = 0) && k.outbound.any (fun t => t.work == i.tag)))
  | none => false

/-- Whether a buffer of R258 that an item needs stays full: one of a strand out of a station in its windows, or out of
another module (log 97). -/
def State.hostBlocked (s : State) (i : Item) : Bool :=
  s.strands.any (fun e => e.2.job == i.job && s.outboundStuck i e.2 &&
    (e.2.entry.place == .fromPeer || i.wins.any (fun w => w.station == e.2.entry.src)))

/-- HOST_ABORT (R258): at the DEADLINE of an item that waits for the host to take its tiles. -/
def execHostAbort (tag : W32) (s : State) : Result :=
  .next (match s.item? tag with
    | some i =>
      if i.status.isNone && !s.heldItem i && decide (i.deadline.toNat ≤ s.now) && s.hostBlocked i then
        (s.endItem tag stAborted 0x1004).countHostAbort
      else s
    | none => s)

/-- HOST_TILE_WRITE (R258, R269, R279, R291): the oldest tile of a strand's outbound buffer; one bound for a HALTED
ring is discarded and ends its item. -/
def execHostTileWrite (strand : StrandId) (writeOk : Bool) (s : State) : Result :=
  .next (match s.strand? strand with
    | some k =>
      match k.outbound, s.dstStn k with
      | t :: rest, some st =>
        let n := st.target
        let r := s.ring n
        if st.kind = .host ∧ r.state = .halted then s.endItem t.work stAborted 0x1005
        else if st.kind != .host || r.silent || decide (r.tileFree = 0) then s
        else if !writeOk then (s.endItem t.work stAborted 0x1009).ringHalt n 3
        else
          let a := r.tileBase.toNat + 4096 * (r.units.toNat % 128) * (r.tileTail.toNat % 2 ^ r.tileLog)
          let s := s.hostPut a (tileHeader t ++ t.payload)
          let s := s.setRing n { r with tileTail := r.tileTail + 1 }
          let g := s.groupOf k t.srcMember t.seq
          let k : StrandSt := { k with outbound := rest }
          let s := if k.entry.place = .fromPeer then (s.setStrand strand k).ackPeer strand [] [g] else s.setStrand strand (k.addCredit g 1)
          s.modItem t.work (fun i => if i.ring = n then { i with tilesOut := i.tilesOut + 1, sat := i.sat || t.anchorSat } else i)
      | _, _ => s
    | none => s)

/-- INTERRUPT_COALESCE_EXPIRY (R297): the 1 us after a vector's message ends. -/
def execInterruptCoalesceExpiry (vector : Fin 2048) (s : State) : Result :=
  .next (match tget? s.rng.coalesce vector with
    | some true => ({ s with rng.coalesce := tdel s.rng.coalesce vector } : State).sendMsix vector
    | some false => { s with rng.coalesce := tdel s.rng.coalesce vector }
    | none => s)

/-! ## Enable and disable -/

/-- The memory a ring's SQ, CQ and tile area occupy: base and bytes. -/
def RingSt.areas (k : RingSt) : List (Nat × Nat) :=
  [(k.sqBase.toNat, 64 * 2 ^ k.sqLog), (k.cqBase.toNat, 32 * 2 ^ k.cqLog)] ++
  (if k.tileLog = 0 then [] else [(k.tileBase.toNat, 4096 * (k.units.toNat % 128) * 2 ^ k.tileLog)])

/-- Whether any two of some ranges share an address. -/
def overlaps : List (Nat × Nat) → Bool
  | [] => false
  | a :: rest => rest.any (fun b => decide (a.1 < b.1 + b.2) && decide (b.1 < a.1 + a.2)) || overlaps rest

/-- The first failing check of an ENABLE, 0 for none (R277, R327). -/
def State.cfgFault (s : State) (k : RingSt) : Nat :=
  if k.sqLog < 4 then 1
  else if k.cqLog < k.sqLog then 2
  else if 12 < k.tileLog ∨ (k.tileLog = 0 ∧ k.tileBase ≠ 0) then 3
  else if k.tileLog ≠ 0 ∧ ¬ (1 ≤ k.units.toNat % 128 ∧ k.units.toNat % 128 ≤ 65) then 4
  else if k.areas.any (fun a => s.inWindow a.1 1) then 5
  else if overlaps k.areas then 6
  else if s.gen.state ≠ .ready ∧ s.gen.state ≠ .stopped then 7
  else 0

/-- The ENABLE command of a ring (R278). -/
def State.enableRing (s : State) (n : Nat) : State :=
  let k := s.ring n
  if k.state ≠ .off then s
  else
    let f := s.cfgFault k
    if f = 0 then
      s.setRing n { k with state := .on, cfgFault := 0, sqHead := 0, sqTail := 0, cqTail := 0, cqHead := 0,
                           tileTail := 0, tileHead := 0, fetched := [], held := [], outstanding := 0, disabled := false, disReq := false,
                           waitIntake := false }
    else s.setRing n { k with flags := k.flags ||| 1, cfgFault := BitVec.ofNat 4 f }

/-- Whether something keeps a ring from being disabled: a HOST station of a committed job on it, or a Feast
stream bound through it (R278). -/
def State.ringBusy (s : State) (n : Nat) : Bool :=
  s.jobs.any (fun e => e.2.phase != .opened && (e.2.stations.getD []).any (fun t => t.kind == .host && t.target == n)) ||
  s.fst.streams.any (fun e => e.2.ring == n)

/-- The DISABLE command of a ring (R278). -/
def State.disableRing (s : State) (n : Nat) : State :=
  let k := s.ring n
  match k.state with
  | .on =>
    if s.ringBusy n then s.setRing n { k with flags := k.flags ||| 16 }
    else (s.setRing n { k with state := .stopping, disabled := false }).settleRing n
  | .halted => (s.setRing n { k with state := .stopping, disabled := true }).settleRing n
  | _ => s

/-- ENABLE (R278): the write of 0x0001_0001 to RNG_CTRL. -/
def execRingEnable (ring : RingId) (s : State) : Result := .next (if s.writable then s.enableRing ring else s)

/-- DISABLE (R278): the write of 0x0002_0002 to RNG_CTRL. -/
def execRingDisable (ring : RingId) (s : State) : Result := .next (if s.writable then s.disableRing ring else s)

end Sys2Proof.Machine
end

