-- ==== Sys2Proof/Machine/Cxl.lean ====
section
/-! DEFINITION. The CXL attachment beside the rings: D3hot, the HDM decoder and the staging window, loss of the
link and Viral (R263, R264, R270-R275, R303). -/

namespace Sys2Proof.Machine

/-- The contents of the structures that the standards define change: configuration space with its AER capability and DOE
mailbox, and the CXL component registers with the RAS capability (R261, R266, R302). -/
def State.changeStandard (s : State) : State := { s with cxl.compRev := s.cxl.compRev + 1 }

/-- What the host sees of a CXL link or protocol error: AER and the CXL RAS capability, as the standard defines (R302). -/
def State.cxlError (s : State) : State := (s.put .aer).changeStandard

/-- D3HOT_REQUEST (R264): D3hot is entered only while every ring is OFF; D0 is returned to at once. -/
def execD3hotRequest (d3 : Bool) (s : State) : Result :=
  .next (
    if s.linkDown then s
    else if !d3 then { s with cxl.d3 := false }
    else if s.rng.rings.all (fun e => e.2.state == .off) then { s with cxl.d3 := true } else s)

/-- Module memory address that backs window offset 0 (R304). -/
def State.windowBase (s : State) : Nat := (s.cxl.hdmTarget.toNat % 32768) * 0x10000000

/-- Whether the decoder may commit (R270). -/
def State.hdmOk (s : State) (size ways : Nat) : Bool :=
  decide (ways = 1) && decide (size % 0x10000000 = 0) && decide (0x10000000 ≤ size) && decide (size ≤ 0x4000000000) &&
  decide (0x20000000000 ≤ s.windowBase) && decide (s.windowBase + size ≤ 0x50000000000) && decide (s.gen.state = .ready)

/-- HDM_COMMIT (R270). -/
def execHdmCommit (base size ways : Nat) (s : State) : Result :=
  .next (
    if !s.reachable then s
    else
      let s := s.changeStandard
      if s.hdmOk size ways then { s with cxl.hdm := some (base, size), cxl.hdmErr := false }
      else { s with cxl.hdm := none, cxl.hdmErr := true })

/-- Data of a read that no memory answers: eight words of no stated value. -/
def State.badLine (s : State) : List Byte := (List.range 8).flatMap (fun i => le 8 (Config.badWord (8 * s.free + i)).toNat)

/-- A window read answered with poison (R274, R304). -/
def State.poisonedRead (s : State) (x : Nat) (bytes : List Byte) : State :=
  { s.put (.memRead x bytes true) with cxl.winPoison := sat s.cxl.winPoison, cxl.status := setFlag s.cxl.status 1 }

/-- Counts the bytes of an access between the field of the host hub or of a link and another field's memory on the Filigree
links of their route (R332, R334, R356). -/
def State.countAccess (s : State) (src dst n : Nat) : State := s.countLinks (filRoute src dst) n

/-- The words of an access between two fields that arrive with an error no code corrects; one that stays in a field
crosses no Filigree link and meets none (R331). -/
def wireBad (src dst : Nat) (wire : List Nat) : List Nat := if (filRoute src dst).isEmpty then [] else wire

/-- A 64-byte host load: from the home memory's field to the hub in F0 (R274, R275, R331, R332, R388). -/
def State.windowRead (s : State) (x a : Nat) (linkFail : Bool) (wire : List Nat) : State :=
  let s := { s with cxl.winRd := s.cxl.winRd + 1 }
  if s.cxl.selfRefresh then
    let s := { s with cxl.status := setFlag s.cxl.status 2, free := s.free + 1 }
    s.poisonedRead x s.badLine
  else if s.devTripped a then ({ s with free := s.free + 1 } : State).poisonedRead x s.badLine
  else
    let (s, got) := (s.countAccess (memField a) 0 64).readPiece a 64 0 (if linkFail then List.range 8 else []) (s.entriesAt a).head?
    if got.poison.isEmpty && (wireBad (memField a) 0 wire).all (fun w => decide (8 ≤ w)) then s.put (.memRead x got.bytes false)
    else s.poisonedRead x got.bytes

/-- Stores the enabled bytes of one 8-byte word: a whole word clears its poison, a partial one merges (R179, R274). -/
def State.windowWord (s : State) (a : Nat) (bs : List (Option Byte)) : State :=
  if bs.all (·.isSome) then s.memWrite a (bs.map (·.getD 0))
  else (bs.zipIdx.foldl (fun (s : State) x => match x.1 with | some b => s.memWrite (a + x.2) [b] | none => s) s)

/-- A host store: from the hub in F0 to the home memory's field (R274, R275, R331, R332, R388). -/
def State.windowWrite (s : State) (a : Nat) (bs : List (Option Byte)) (poison : Bool) (wire : List Nat) : State :=
  let s := { s with cxl.winWr := s.cxl.winWr + 1 }
  if s.cxl.selfRefresh then { s with cxl.status := setFlag s.cxl.status 2 }
  else
    let s := s.countAccess 0 (memField a) 64
    if s.devTripped a then s else
    (List.range 8).foldl (fun (s : State) i =>
      let w := cut (bs ++ List.replicate 64 none) (8 * i) 8
      let s := s.windowWord (a + 8 * i) w
      if (poison || (wireBad 0 (memField a) wire).contains i) && w.any (·.isSome) then s.poisonWord (a / 8 + i) else s) s

/-- Whether an offset's 64-byte line lies in the window that the committed decoder maps (R270). -/
def State.windowHolds (s : State) (addr : Nat) : Bool :=
  match s.cxl.hdm with
  | some (_, size) => decide (addr / 64 * 64 + 64 ≤ size)
  | none => false

/-- CXL_MEM_REQUEST (R264, R270, R273-R275, R302): in D3hot it completes with a completer abort, and so does a request that
no committed decoder maps, which the device does not serve either (log 91). A request that breaks the protocol is an error
that AER and the RAS capability show, and has no other effect. -/
def execCxlMemRequest (addr : Nat) (write : Option (List (Option Byte))) (poison linkFail : Bool) (wire : List Nat) (proto : Bool)
    (s : State) : Result :=
  .next (
    if s.linkDown then s
    else if proto then s.cxlError
    else if s.cxl.d3 || !s.windowHolds addr then s.put (.memAbort addr)
    else
      let a := s.windowBase + addr / 64 * 64
      match write with
      | some bs => s.windowWrite a bs poison wire
      | none => s.windowRead addr a linkFail wire)

/-- CXL_LINK_DOWN (R263, R302): acts as PERST_N; an IDE integrity failure is reported first. -/
def execCxlLinkDown (ideFailure : Bool) (s : State) : Result :=
  .next (
    if s.linkDown then s
    else
      let s := if ideFailure && (s.sec.ideIo || s.sec.ideCm) then s.cxlError else s
      s.perst false)

/-- VIRAL (R303). -/
def execViral (s : State) : Result :=
  .next (
    if s.gen.state = .reset then s
    else
      let s := { s with gen.stopViral := true, cxl.status := setFlag s.cxl.status 3 }
      s.refresh.endItems (fun _ => true) stAborted 0x1006)

end Sys2Proof.Machine
end

