-- ==== Sys2Proof/Machine/Locket.lean ====
section
/-! DEFINITION. Locket: pools, entries and their operations (R199-R202), promotion, demotion and the switch
of a migration (R203-R207). -/

namespace Sys2Proof.Machine

/-! ## Entries and pools -/

/-- STATE of an entry as LKT_READ writes it (R200). -/
def LktState.code : LktState → Nat
  | .free => 0 | .hbm => 1 | .lpddr => 2 | .peer => 3 | .promoting => 4 | .demoting => 5 | .poisoned => 6

/-- The 8 bytes of an entry (R200). -/
def LktEntry.bytes (e : LktEntry) : List Byte :=
  le 8 (e.state.code + (if e.pin then 8 else 0) + (if e.owned then 16 else 0) + 32 * e.slot + 65536 * e.field + 2 ^ 20 * e.trayPos +
    2 ^ 22 * e.frame + 2 ^ 44 * (if e.state = .peer then e.peerTier else 0) + 2 ^ 48 * e.age)

/-- The entries of a range. -/
def entryRange (first count : Nat) : List Nat := (List.range count).map (first + ·)

/-- Makes an entry FREE. -/
def State.clearEntry (s : State) (n : Nat) : State := { s with lkt.entries := tdel s.lkt.entries n }

/-- A pool of a field. -/
def State.pool (s : State) (f : Nat) (lp : Bool) : List Nat := tget (if lp then s.lkt.lpPool else s.lkt.hbmPool) f []

/-- Sets a pool of a field. -/
def State.setPool (s : State) (f : Nat) (lp : Bool) (fs : List Nat) : State :=
  if lp then { s with lkt.lpPool := tput s.lkt.lpPool f fs } else { s with lkt.hbmPool := tput s.lkt.hbmPool f fs }

/-- Draws a frame from a pool: which of the free ones is a free value (R201). -/
def State.drawFrame (s : State) (f : Nat) (lp : Bool) : Option (Nat × State) :=
  let fs := s.pool f lp
  let (x, s) := s.fresh32
  match fs[x.toNat % fs.length]? with
  | some fr => some (fr, s.setPool f lp (fs.filter (· != fr)))
  | none => none

/-- Frames of 64 KiB units in a tier of a field. -/
def tierUnits (lp : Bool) : Nat := (if lp then lpSize else hbmSize) / 65536

/-- Whether a frame of a tier is mapped by an entry, or is a copy's destination. -/
def State.frameUsed (s : State) (f : Nat) (lp : Bool) (fr : Nat) : Bool :=
  s.lkt.entries.any (fun e => e.2.state != .free && !e.2.isPeer && e.2.field == f && e.2.inLp == lp && e.2.frame == fr) ||
  s.lkt.copies.any (fun c => c.1 == f && (!c.2.up) == lp && c.2.dst == fr)

/-- The frames that a pool operation names. -/
def State.namedFrames (s : State) (d : Desc) : List Nat :=
  (List.range (descF d 0x0C 4)).map (fun i => descF d 0x10 4 + i * s.pageUnits)

/-- The faults of a pool operation's operands (R202, R215, R287). -/
def State.poolFaults (s : State) (d : Desc) : List (Nat × Bool) :=
  [(0x08, decide (11 < descF d 0x08 1)), (0x09, decide (1 < descF d 0x09 1)),
   (0x0C, decide (descF d 0x0C 4 = 0) || decide (4194304 < descF d 0x0C 4)), (0x10, decide (descF d 0x10 4 % s.pageUnits ≠ 0))]

/-- LKT_POOL_ADD (R190, R201, R202). -/
def execLktPoolAdd (ring : RingId) (s : State) : Result :=
  .next (s.land ring 0x20 s.poolFaults (fun d s =>
    let f := descF d 0x08 1
    let lp := decide (descF d 0x09 1 = 1)
    let last := descF d 0x10 4 + descF d 0x0C 4 * s.pageUnits
    if tierUnits lp < last ∨ (lp = true ∧ s.lkt.lend.getLsbD f = true) then s.refuse d 0x800A
    else
      let fs := s.namedFrames d
      if fs.any (fun x => (s.pool f lp).contains x || s.frameUsed f lp x) then s.refuse d 0x800A
      else (s.setPool f lp (fs.foldl (fun p x => insertFrame x p) (s.pool f lp))).finish (descPend d) stDone 0))

/-- LKT_POOL_REMOVE (R201, R202). -/
def execLktPoolRemove (ring : RingId) (s : State) : Result :=
  .next (s.land ring 0x21 s.poolFaults (fun d s =>
    let f := descF d 0x08 1
    let lp := decide (descF d 0x09 1 = 1)
    let n := descF d 0x0C 4
    if (s.pool f lp).length < n then s.refuse d 0x800A
    else
      let fs := s.namedFrames d
      if fs.all (s.pool f lp).contains then
        (s.setPool f lp ((s.pool f lp).filter (fun x => !fs.contains x))).finish (descPend d) stDone 0
      else s.refuse d 0x800A))

/-- The faults of an operation's entry range (R202, R215). -/
def rangeFaults (d : Desc) : List (Nat × Bool) :=
  let first := descF d 0x08 4
  let n := descF d 0x0C 4
  [(0x08, decide (2097152 ≤ first)), (0x0C, decide (n = 0) || decide (65536 < n) || decide (2097152 < first + n))]

/-! ## LKT_MAP, UNMAP, PIN, READ -/

/-- The faults of LKT_MAP's operands; those of a PEER map are judged for TIER 2 alone. -/
def State.mapFaults (s : State) (d : Desc) : List (Nat × Bool) :=
  let peer := decide (descF d 0x10 1 = 2)
  rangeFaults d ++ [(0x10, decide (2 < descF d 0x10 1)), (0x11, decide (11 < descF d 0x11 1)),
    (0x12, peer && decide (3 < descF d 0x12 1)), (0x13, peer && decide (1 < descF d 0x13 1)),
    (0x14, peer && decide (descF d 0x14 4 % s.pageUnits ≠ 0))]

/-- Maps entries to HBM or LPDDR, one frame of the pool each. -/
def State.mapLocal (s : State) (f : Nat) (lp : Bool) (ns : List Nat) : State :=
  ns.foldl (fun s n =>
    match s.drawFrame f lp with
    | some (fr, s) => s.setEntry n { state := if lp then .lpddr else .hbm, field := f, trayPos := s.gen.straps.toNat % 4, frame := fr }
    | none => s) s

/-- Coordinates of the tray peer at a position. -/
def State.trayCoord (s : State) (pos : Nat) : Option Coord := s.cls.place.bind (fun (p : Placement) => (p.tray[pos]?).join)

/-- The route of PEER requests to a tray position. -/
def State.trayRoute (s : State) (pos : Nat) : Option (List Nat) :=
  match s.cls.place, s.trayCoord pos with
  | some p, some c => some (claspRoute p p.coord c)
  | _, _ => none

/-- A PEER map whose form is good: licence, then what the lender answers (R190, R202, R419). -/
def State.mapPeer (s : State) (d : Desc) (ns : List Nat) (lender : Option LenderAnswer) : State :=
  let pos := descF d 0x12 1
  let f := descF d 0x11 1
  let fr := descF d 0x14 4
  let tier := descF d 0x13 1
  let route := (s.trayRoute pos).getD []
  if !s.gen.cl && route.any (fun l => decide (2 ≤ l)) then s.finish (descPend d) stLicence 0x2012
  else if ns.any (fun n => (s.entry n).state != .free) || route.isEmpty || decide (s.cls.cfg.toNat % 16 = 0) || decide (tierUnits (tier == 1) < fr + ns.length * s.pageUnits) then
    s.refuse d 0x800A
  else
    let s := s.putOn (s.trayLink pos) 3 (.peerMapMsg pos { requester := s.gen.straps.toNat % 4, field := f, first := fr, frames := ns.length, pageUnits := s.pageUnits, hbm := decide (tier = 0) })
    match lender with
    | some a =>
      if !a.lends || a.refuses then s.refuse d 0x800A
      else
        (ns.zipIdx.foldl (fun (s : State) (x : Nat × Nat) =>
          s.setEntry x.1 { state := .peer, field := f, trayPos := pos, frame := fr + x.2 * s.pageUnits, peerTier := tier, peerEpoch := a.epoch })
          s).finish (descPend d) stDone 0
    | none => s.refuse d 0x800A

/-- LKT_MAP (R190, R201, R202). -/
def execLktMap (ring : RingId) (lender : Option LenderAnswer) (s : State) : Result :=
  .next (s.land ring 0x22 s.mapFaults (fun d s =>
    let ns := entryRange (descF d 0x08 4) (descF d 0x0C 4)
    let f := descF d 0x11 1
    let lp := decide (descF d 0x10 1 = 1)
    if descF d 0x10 1 = 2 then s.mapPeer d ns lender
    else if ns.any (fun n => (s.entry n).state != .free) || decide ((s.pool f lp).length < ns.length) then s.refuse d 0x800A
    else (s.mapLocal f lp ns).finish (descPend d) stDone 0))

/-- Unmaps one entry: a migration is cancelled, the frames go to their pools, the lender of a PEER frame is
told (R190, R202). -/
def State.unmapEntry (s : State) (n : Nat) : State :=
  let e := s.entry n
  if e.state = .free then s
  else
    let s := (s.dropCopy n).clearEntry n
    if e.isPeer then
      s.putOn (s.trayLink e.trayPos) 3 (.peerMapMsg e.trayPos { requester := s.gen.straps.toNat % 4, field := e.field, first := e.frame, frames := 1, pageUnits := s.pageUnits, hbm := decide (e.peerTier = 0), unmap := true })
    else s.freeFrame e.field e.inLp e.frame

/-- LKT_UNMAP (R202). -/
def execLktUnmap (ring : RingId) (s : State) : Result :=
  .next (s.land ring 0x23 rangeFaults (fun d s =>
    let ns := entryRange (descF d 0x08 4) (descF d 0x0C 4)
    if ns.any (fun n => (s.entry n).owned) then s.refuse d 0x800A
    else (ns.foldl (fun s n => s.unmapEntry n) s).finish (descPend d) stDone 0))

/-- LKT_PIN (R202). -/
def execLktPin (ring : RingId) (s : State) : Result :=
  .next (s.land ring 0x24 (fun d => rangeFaults d ++ [(0x10, decide (1 < descF d 0x10 1))]) (fun d s =>
    let ns := entryRange (descF d 0x08 4) (descF d 0x0C 4)
    if ns.any (fun n => (s.entry n).state == .free) then s.refuse d 0x800A
    else (ns.foldl (fun s n => s.setEntry n { s.entry n with pin := decide (descF d 0x10 1 = 1) }) s).finish (descPend d) stDone 0))

/-- LKT_READ (R200, R202). -/
def execLktRead (ring : RingId) (s : State) : Result :=
  .next (s.land ring 0x25 (fun d => rangeFaults d ++ [(0x10, !s.hostAddrOk (descF d 0x10 8) 64 (8 * descF d 0x0C 4))]) (fun d s =>
    let ns := entryRange (descF d 0x08 4) (descF d 0x0C 4)
    (s.hostPut (descF d 0x10 8) (ns.flatMap (fun n => (s.entry n).bytes))).finish (descPend d) stDone 0))

/-! ## Migration (R203-R206) -/

/-- Whether the copy engine of a field may work: neither share is 0, and the memories are awake. A share of 0 stops
migration in a direction that R203 does not name, and a copy either way uses both tiers: either share stops both
(DESIGN CHOICE, log 99). -/
def State.copyRuns (s : State) (f : Nat) : Bool :=
  decide (bits s.lkt.cfg.toNat 9 4 ≠ 0) && decide (bits s.lkt.cfg.toNat 15 10 ≠ 0) && !s.cxl.selfRefresh && !s.fieldTripped f

/-- Whether the copy engine of a field may start a copy: it may work, and none is under way. -/
def State.copyIdle (s : State) (f : Nat) : Bool := (tget? s.lkt.copies f).isNone && s.copyRuns f

/-- Whether a slot owns an LPDDR entry. -/
def State.ownsLpddr (s : State) (n : Nat) : Bool :=
  s.lkt.entries.any (fun e => e.2.owned && e.2.slot == n && e.2.state == .lpddr)

/-- Inserts a slot by due time, then by number. -/
def byDue (due : Nat → Nat) (n : Nat) : List Nat → List Nat
  | [] => [n]
  | m :: ms => if due n < due m ∨ (due n = due m ∧ n < m) then n :: m :: ms else m :: byDue due n ms

/-- Slots in order of due time, then of number. -/
def sortDue (due : Nat → Nat) (ns : List Nat) : List Nat := ns.foldl (fun l n => byDue due n l) []

/-- The promotion queue (R204). -/
def State.promotionQueue (s : State) : List Nat :=
  sortDue (fun n => (s.slot n).due.toNat)
    ((s.fst.slots.filter (fun e => e.2.state == .ready && s.ownsLpddr e.1)).map (·.1))

/-- The next entry that a field's engine promotes (R204). -/
def State.promoteNext (s : State) (f : Nat) : Option Nat :=
  (s.promotionQueue.filterMap (fun n =>
    (s.lkt.entries.find? (fun e => e.2.owned && e.2.slot == n && e.2.state == .lpddr && e.2.field == f)).map (·.1))).head?

/-- PROMOTE (R203, R204): starts the next promotion of a field, or notes that its pool is empty. -/
def execPromote (field : FieldId) (s : State) : Result :=
  .next (
    if !s.copyIdle field then s
    else
      match s.promoteNext field with
      | some n =>
        match s.drawFrame field false with
        | some (fr, s) =>
          let s := s.setEntry n { s.entry n with state := .promoting }
          { s with lkt.copies := tput s.lkt.copies field { entry := n, dst := fr, up := true } }
        | none => { s with lkt.status := setFlag s.lkt.status 2 }
      | none => s)

/-- Whether an HBM entry may be demoted (R205). -/
def State.candidate (s : State) (queue : List Nat) (f : Nat) (e : LktEntry) : Bool :=
  decide (e.state = .hbm) && decide (e.field = f) && !e.pin && decide (s.lkt.demoteAge.toNat ≤ e.age) &&
  (!e.owned || (match (s.slot e.slot).state with
    | .paused => true
    | .faulted => true
    | .ready => !queue.contains e.slot
    | _ => false))

/-- The candidate that is demoted next: highest AGE, then lowest index (R205). -/
def State.demoteNext (s : State) (f : Nat) : Option Nat :=
  let queue := s.promotionQueue
  ((s.lkt.entries.filter (fun e => s.candidate queue f e.2)).foldl (fun (b : Option (Nat × Nat)) e =>
    match b with
    | none => some (e.1, e.2.age)
    | some (n, a) => if a < e.2.age then some (e.1, e.2.age) else some (n, a)) none).map (·.1)

/-- Free HBM3E frames at which demotion stops (R205, R216). -/
def State.demoteHigh (s : State) : Nat := 32 * Nat.max s.lkt.hbmHigh.toNat s.lkt.hbmLow.toNat

/-- DEMOTE (R203, R205): starts the next demotion of a field while it is needed. The rules do not say what happens when a
candidate exists and the field's LPDDR5X pool has no free frame: here nothing does, and no flag is set (DESIGN CHOICE,
log 127). -/
def execDemote (field : FieldId) (s : State) : Result :=
  .next (
    let free := (s.pool field false).length
    let low := decide (free < 32 * s.lkt.hbmLow.toNat)
    let on := low || (tget s.lkt.demoting field false && decide (free < s.demoteHigh))
    if !s.copyIdle field then s
    else if !on then { s with lkt.demoting := tdel s.lkt.demoting field }
    else
      match s.demoteNext field with
      | none =>
        { s with lkt.demoting := tdel s.lkt.demoting field, lkt.status := if low then setFlag s.lkt.status 3 else s.lkt.status }
      | some n =>
        match s.drawFrame field true with
        | some (fr, s) =>
          let s := s.setEntry n { s.entry n with state := .demoting }
          { s with lkt.copies := tput s.lkt.copies field { entry := n, dst := fr, up := false }, lkt.demoting := tput s.lkt.demoting field true }
        | none => s)

/-- Copies a page of module memory with its poison; the words in `bad` (counted from the page's start) are
found uncorrectable by the copy. The result says whether any word was poisoned (R195-R197, R206). -/
def State.copyPage (s : State) (src dst : Nat) (bad : List Nat) : State × Bool :=
  let n := s.pageBytes
  let ws := (List.range (n / 8)).filter (fun i => bad.contains i || s.wordPoison (src / 8 + i))
  let bytes := s.memRead src n
  let s := bad.foldl (fun s i => (if isHbm src then (s.setPoison (src / 8 + i) true).1 else s).memRecord (src + 8 * i)) s
  (ws.foldl (fun s i => s.poisonWord (dst / 8 + i)) (s.memWrite dst bytes), !ws.isEmpty)

/-- MIGRATION_SWITCH (R206, R207): the copy under way in a field is complete and the entry moves to its new
frame; the old one returns to its pool. -/
def execMigrationSwitch (field : FieldId) (bad : List Nat) (s : State) : Result :=
  .next (
    match tget? s.lkt.copies field with
    | some c =>
      if !s.copyRuns field then s
      else
        let e := s.entry c.entry
        let dst := (if c.up then hbmBase field else lpBase field) + 65536 * c.dst
        let (s, poisoned) := s.copyPage (e.addr 0) dst (bad.filter (fun i => decide (i < s.pageBytes / 8)))
        let s := { s with lkt.copies := tdel s.lkt.copies field }
        let s := s.freeFrame field c.up e.frame
        let s := s.setEntry c.entry { e with state := if c.up then .hbm else .lpddr, frame := c.dst }
        let s := if c.up then { s with lkt.promoteCount := s.lkt.promoteCount + 1 } else { s with lkt.demoteCount := s.lkt.demoteCount + 1 }
        if poisoned then s.poisonEntry c.entry else s
    | none => s)

end Sys2Proof.Machine
end

