-- ==== Sys2Proof/Machine/Clasp.lean ====
section
/-! DEFINITION. Clasp (R392-R423): blocks received, link states and training, lane faults, channels and their
binding, loss of a route and RESYNC, peer memory, placement and time. -/

namespace Sys2Proof.Machine

/-! ## Links in and out of service -/

/-- Whether a link needs the CL licence that is not in effect (R9, R28, R422). -/
def State.linkUnlicensed (s : State) (l : Nat) : Bool := decide (2 ≤ l) && !s.gen.cl

/-- The cause for which a link stays OFF (R400, R424); 0 when it may train. -/
def State.linkOffCause (s : State) (l : Nat) : Nat :=
  if s.linkUnlicensed l then 1
  else if !s.cls.linkEn.getLsbD l then 2
  else if (s.link l).outService then 4
  else if s.thm.coolantStop || decide (s.gen.state = .reset) then 5
  else 0

/-- TIME_LOST is set while the time parent's link is not in service (R421). -/
def State.checkTime (s : State) : State :=
  match s.cls.place.bind (fun (p : Placement) => p.timeParent) with
  | some l => if s.clk.cfg.getLsbD 1 && !(s.link l).carries then { s with cls.status := setFlag s.cls.status 9, cls.timeErr := 0 } else s
  | none => s

/-- Publishes the change of a link once a first report exists (R461). -/
def State.linkChanged (s : State) : State := (if s.gen.floorplanSeq = 0 then s else s.publish).checkTime

/-! ## Channels (R411, R412) -/

/-- Rate reserved on the channels of one direction. -/
def reserved (t : Tab Channel) : Nat := (t.map (fun c => c.2.rate)).foldl (· + ·) 0

/-- The lowest channel number not in use, if any of the 256 is free. -/
def freeChannel (t : Tab Channel) : Option Nat := (List.range 256).find? (fun c => t.all (fun x => x.1 != c))

/-- Whether one direction of a link has the strand capacity for a further RATE (R411). -/
def State.rateFits (s : State) (l : Nat) (t : Tab Channel) (rate : Nat) : Bool := (qn (reserved t + rate)).le (s.strandCap l)

/-- Records a bind refused here: BIND_FAIL, its count and a fault record (R411, R436). -/
def State.bindRefused (s : State) (strand l : Nat) (why : BindReason) : State :=
  let code := match why with | .notInService => 1 | .noChannel => 2 | .capacity => 3 | .disagreement => 4
  let s := { s with cls.status := setFlag s.cls.status 5, cls.bindFails := sat s.cls.bindFails }
  s.record 0x0B 0 (0x7100 + l) (le 2 strand ++ le 1 l ++ le 1 code)

/-- Whether 10 ms have passed since the last bind of a strand was begun (R411). -/
def StrandSt.mayTry (k : StrandSt) (now : Nat) : Bool := k.tried.all (fun t => decide (t + 10000000 ≤ now))

/-- Why a link direction cannot take a channel, if it cannot (R411). -/
def State.channelFault (s : State) (l rate : Nat) : Option BindReason :=
  let k := s.link l
  if !k.carries then some .notInService
  else if (freeChannel k.outCh).isNone then some .noChannel
  else if !s.rateFits l k.outCh rate then some .capacity
  else none

/-- Reserves a channel going out on a link, last in the order of binding. -/
def LinkSt.reserveOut (k : LinkSt) (ch : Channel) : LinkSt := { k with outCh := k.outCh ++ [((freeChannel k.outCh).getD 0, ch)] }
/-- Reserves a channel coming in on a link. -/
def LinkSt.reserveIn (k : LinkSt) (ch : Channel) : LinkSt := { k with inCh := k.inCh ++ [((freeChannel k.inCh).getD 0, ch)] }

/-- Takes the channels of a strand off one link, with what was part received on them. -/
def LinkSt.dropStrand (k : LinkSt) (n : Nat) (p : Channel → Bool) : LinkSt :=
  let hit := fun (c : Nat × Channel) => c.2.strand == n && p c.2
  { k with outCh := k.outCh.filter (fun c => !hit c), inCh := k.inCh.filter (fun c => !hit c)
           assembling := k.assembling.filter (fun a => !k.inCh.any (fun c => c.1 == a.1 && hit c)) }

/-! ## Binding at the origin (R411, R415, R416) -/

/-- The axis on which the alternate route of a strand would go the other way, when the link on its way leaves
along that axis and the axis wraps (R410). -/
def altAxis (p : Placement) (l : Nat) : Option Nat := if Placement.wraps p (l / 2) then some (l / 2) else none

/-- One attempt to bind a TO_PEER strand on a route: reservation on the first link and BIND along it, or a refusal. -/
def State.tryBind (s : State) (n : Nat) (k : StrandSt) (p : Placement) (alt : Option Nat) : State × Option BindReason :=
  match strandRoute p k.entry alt with
  | l :: _ =>
    match s.channelFault l k.entry.rate with
    | some why => (s.bindRefused n l why, some why)
    | none =>
      let t := s.setStrand n { k with bound := false, binding := true, altRoute := alt }
      if alt.isSome && !t.flowsFit (t.allFlows 0) then (s.bindRefused n l .capacity, some .capacity)
      else
      let s := t.modLink l (fun x => x.reserveOut { strand := n, origin := p.coord, rate := k.entry.rate, alt := alt })
      (s.putOn l 3 (.claspBind l { entry := k.entry, origin := p.coord, alt := alt, members := s.srcCount k, again := k.reroute }), none)
  | [] => (s, none)

/-- A strand that could not be rerouted is unbound: it starts anew with SEQ 0 (R416). -/
def State.giveUpRoute (s : State) (n : Nat) : State :=
  s.modStrand n (fun k => if k.reroute then { k.empty with binding := true } else { k with altRoute := none })

/-- Begins to bind a strand of this module that is not bound and whose cores are in place (R77): the route of R410 first,
the alternate route when that was refused because a link is not in service; a reroute tries the alternate alone (R411,
R415). -/
def State.beginBind (s : State) (n : Nat) : State :=
  match s.strand? n, s.cls.place with
  | some k, some p =>
    let committed := match s.job? k.job with | some j => decide (j.phase = .committed) | none => false
    if k.bound || decide (k.entry.place ≠ .toPeer) || !committed || !s.coresPlaced k || (s.ownChannel n true).isSome then s
    else
      let k := { k with tried := some s.now }
      let s := s.setStrand n k
      let (s, why) := s.tryBind n k p k.altRoute
      match why with
      | none => s
      | some why =>
        match if decide (why = .notInService) && k.altRoute.isNone then ((strandRoute p k.entry).head?).bind (altAxis p) else none with
        | some axis => let (s, again) := s.tryBind n k p (some axis); if again.isSome then s.giveUpRoute n else s
        | none => s.giveUpRoute n
  | _, _ => s

/-! ## Loss of a route (R413-R416) -/

/-- Whether the runs of an item's window at a station have all ended, whatever has become of the item (R247). -/
def State.runsOut (s : State) (i : Item) (w : Win) : Bool :=
  (List.range (((s.stn i.job w.station).map memberCount).getD 0)).all (fun m => i.runsDone.contains (w.station, m))

/-- Whether an item has tiles on a cross-module strand: from its admission until its last tile there has landed; one that
a halt has ended in this cycle has those that it had (R414, R259). -/
def State.hasTiles (s : State) (n : Nat) (k : StrandSt) (i : Item) : Bool :=
  let here := if k.entry.place = .toPeer then k.entry.src else k.entry.dst
  let sts := ((s.job? k.job).bind (fun j => j.stations)).getD []
  let sks := ((s.job? k.job).bind (fun j => j.strands)).getD []
  let halted := s.haltNow i
  s.tileOn i n k || halted.any (fun h => h.strands.contains n) ||
  (decide (i.job = k.job) && (planStrands sts sks i.plan).contains n &&
    i.wins.any (fun w => w.station == here && !(if halted.isSome then s.runsOut i w else s.winDone i w)))

/-- The loss of the route of a strand that ends here, with its own link on it: items with tiles on it end
FAULT_LINK, the channel is released, and the origin binds on the alternate route if there is one. The
destination keeps what has landed and what SEQ it expects until the RESYNC (R414-R416). -/
def State.loseRoute (s : State) (n l : Nat) (axis : Option Nat) : State :=
  match s.strand? n with
  | none => s
  | some k =>
    if !k.bound then s
    else
      let s := s.endItems (s.hasTiles n k) stLink (0x7100 + l)
      let s := (s.putOn l 3 (.claspRelease l n)).modLink l
        (fun x => x.dropStrand n (fun c => c.other.isNone))
      let alt := match s.cls.place, axis with
        | some p, some a => if k.altRoute.isNone && Placement.wraps p a then some a else none
        | _, _ => none
      match s.strand? n with
      | none => s
      | some k =>
        if k.entry.place = .toPeer then
          match alt with
          | some a =>
            (s.setStrand n { k with bound := false, binding := true, reroute := true, altRoute := some a, unacked := [], credits := [] }).beginBind n
          | none => s.setStrand n { k.empty with binding := true }
        else s.setStrand n { k with bound := false, binding := true }

/-- A refusal reaches the origin: the reservation goes; the alternate route is tried if a link was not in service. -/
def State.refusedHere (s : State) (l n : Nat) (k : StrandSt) (why : BindReason) (axis : Nat) : State :=
  let s := s.modLink l (fun x => x.dropStrand n (fun c => c.other.isNone))
  let s := { s with cls.status := setFlag s.cls.status 5, cls.bindFails := sat s.cls.bindFails }
  match if decide (why = .notInService) && k.altRoute.isNone then s.cls.place.bind (fun (p : Placement) => altAxis p (2 * axis)) else none with
  | some axis => (s.setStrand n { k with altRoute := some axis }).beginBind n
  | none => s.giveUpRoute n

/-- A link on the route of a strand that ends here is down: the loss of the route, or a bind refused at that hop. A notice
for a route that the strand has left already is ignored (R414, R423). -/
def State.routeDown (s : State) (l n : Nat) (alt : Option Nat) (axis : Nat) : State :=
  match s.strand? n with
  | some k =>
    if k.altRoute ≠ alt then s
    else if k.binding && !k.bound && decide (k.entry.place = .toPeer) then s.refusedHere l n k .notInService axis else s.loseRoute n l (some axis)
  | none => s

/-- A link leaves service: blocks queued or held are discarded, and every channel that crosses it learns (R414). -/
def State.linkGone (s : State) (l : Nat) (st : LinkState) (cause : Nat) : State :=
  let own := (((s.link l).outCh ++ (s.link l).inCh).filter (fun c => c.2.other.isNone)).map (·.2)
  let s := s.notifyTransit l
  let s := s.modLink l (fun k => { k.wipe with state := st, offCause := BitVec.ofNat 3 cause, lanes := [] })
  let s := own.foldl (fun (s : State) c => s.routeDown l c.strand c.alt (l / 2)) s
  s.linkChanged

/-- LINK_DOWN_DECLARE (R399, R414): a link in service that meets a condition of R399 declares itself down; `excess`: for its
retry total. -/
def execLinkDownDeclare (link : LinkId) (excess : Bool) (s : State) : Result :=
  .next (
    let k := s.link link
    if !k.serves || !(if excess then k.retryExcess s.now else k.failed s.now) then s
    else
      let s := s.modLink link (fun k => { k with downs := sat k.downs })
      let st := setFlag s.cls.status 1
      ({ s with cls.status := if excess then setFlag st 3 else st } : State).linkGone link .down 0)

/-- Whether a link holds the channel that a LINK_DOWN names. -/
def LinkSt.holds (k : LinkSt) (m : DownMsg) : Bool := (k.outCh ++ k.inCh).any (fun c => c.2.strand == m.strand && c.2.alt == m.alt)

/-- The other hop of the channel that a LINK_DOWN names, in transit here. -/
def LinkSt.downTransit (k : LinkSt) (m : DownMsg) : Option Nat :=
  ((k.outCh ++ k.inCh).find? (fun c => c.2.strand == m.strand && c.2.alt == m.alt && c.2.other.isSome)).bind (fun c => c.2.other.map (·.1))

/-- The channel of a link for a strand in transit: the other hop. -/
def LinkSt.transitOf (k : LinkSt) (n : Nat) : Option (Nat × Nat) :=
  ((k.outCh ++ k.inCh).find? (fun c => c.2.strand == n && c.2.other.isSome)).bind (fun c => c.2.other)

/-- Whether a link holds the own channel of a strand. -/
def LinkSt.owns (k : LinkSt) (n : Nat) : Bool := (k.outCh ++ k.inCh).any (fun c => c.2.strand == n && c.2.other.isNone)


/-- Whether a tile sent has waited for its acknowledgement for the transport timeout of its route, 64 µs and
20 µs a hop (R413). -/
def StrandSt.timedOut (k : StrandSt) (now : Nat) : Bool :=
  k.unacked.any (fun u => decide (u.2.2.2 + 64000 + 20000 * k.hops ≤ now))

/-- TRANSPORT_TIMEOUT (R413, R414): a tile sent was not acknowledged in time; the loss of the route, at the origin. -/
def execTransportTimeout (strand : StrandId) (s : State) : Result :=
  .next (
    match s.strand? strand, s.ownLinkOf strand true with
    | some k, some l =>
      if !k.timedOut s.now || !k.bound then s
      else ({ s with cls.status := setFlag s.cls.status 6 } : State).loseRoute strand l (some (l / 2))
    | _, _ => s)

/-! ## BIND, BOUND, RELEASE, RESYNC -/

/-- The link by which a bind leaves a module in transit: on along the axis it came by, else the next axis (R410). -/
def transitLink (p : Placement) (m : BindMsg) (l : Nat) : Option Nat :=
  let here := fun (c : Coord) (a : Nat) => if a = 0 then c.x else if a = 1 then c.y else c.z
  if here p.coord (l / 2) ≠ here m.entry.peer (l / 2) then some (oppLink l)
  else ((claspRoute p p.coord m.entry.peer m.alt).filter (fun x => decide (l / 2 < x / 2))).head?

/-- Whether the entries of the two ends agree (R83). -/
def entriesAgree (mine : StrandE) (m : BindMsg) (own : Coord) : Bool :=
  decide ({ mine with place := m.entry.place, peer := m.entry.peer, slices := m.entry.slices, bufBase := m.entry.bufBase } = m.entry) &&
  decide (mine.place = .fromPeer) && decide (m.entry.place = .toPeer) && decide (mine.peer = m.origin) && decide (m.entry.peer = own)

/-- The hop counts with which the windows of the plans that use a strand were computed (R417). -/
def State.pricedHops (s : State) (n : Nat) (k : StrandSt) : List Nat :=
  (((s.job? k.job).map (·.priced)).getD []).flatMap (fun e => (e.2.hops.filter (fun h => h.1 == n)).map (·.2))

/-- A strand binds at this end on a route of some hops; a hop count other than the one that the windows of its plans were
computed with leaves them to be recomputed (R417). -/
def State.setBound (s : State) (n : Nat) (k : StrandSt) (hops : Nat) : State :=
  let changed := (s.pricedHops n k).any (fun h => h != hops)
  let s := s.setStrand n { k with bound := true, binding := false, hops := hops, recompute := changed }
  if changed then s.markStale else s

/-- Whether the job of a strand is COMMITTED (R83, R411). -/
def State.jobBinds (s : State) (k : StrandSt) : Bool :=
  match s.job? k.job with | some j => decide (j.phase = .committed) | none => false

/-- Why the destination of a BIND cannot take it: its flows on the alternate route must fit as R73 requires of a commit,
and so must those of the source members of a GATHER strand, which its entry alone does not tell, and their slots as R61
requires (log 92). -/
def State.membersFault (s : State) (k : StrandSt) (n : Nat) : Option BindReason :=
  match s.job? k.job with
  | none => some .disagreement
  | some j =>
    let sts := j.stations.getD []
    let s := s.setStrand k.entry.strand { k with members := n }
    let bs := buffersOf sts (j.strands.getD []) s.peerMembers
    let mine := buffersOf sts [k.entry] s.peerMembers
    let others := s.jobs.any (fun e => e.1 != k.job && e.2.holds &&
      (buffersOf (e.2.stations.getD []) (e.2.strands.getD []) s.peerMembers).any (fun b => b.slices && mine.any b.meets))
    let more := k.entry.srcMode == .gather && decide (1 < n)
    if more && ((bufferFault sts [] bs).isSome || others || s.bufferFenced mine) then some .disagreement
    else if (more || k.altRoute.isSome) && !s.flowsFit (s.allFlows 0) then some .capacity
    else none

/-- A BIND received on link l is refused for link m: the refusal names the axis of that link (R410, R411). -/
def State.refuseBind (s : State) (l m n : Nat) (why : BindReason) : State :=
  (s.bindRefused n m why).putOn l 3 (.claspBound l (.refused n why (m / 2)))

/-- A BIND reaches its destination (R77, R83, R411, R415, R416): agreement, cores in place, a free channel number,
reservation, BOUND; the banks under what a GATHER buffer grows to are awake as long as it exists (R175). A strand that is
rerouted keeps what its lost route left, for the RESYNC; any other starts with SEQ 0. -/
def State.bindHere (s : State) (l : Nat) (p : Placement) (m : BindMsg) : State :=
  let n := m.entry.strand
  match s.strand? n with
  | some k =>
    if !entriesAgree k.entry m p.coord then
      let s := s.record 0x04 0 0xFFFF (le 2 k.job ++ le 2 n)
      s.refuseBind l l n .disagreement
    else if !s.jobBinds k || !s.coresPlaced k then s.refuseBind l l n .disagreement
    else if (freeChannel ((s.dropChannel n).link l).inCh).isNone then s.refuseBind l l n .noChannel
    else match s.membersFault { k with altRoute := m.alt } m.members with
      | some why => s.refuseBind l l n why
      | none =>
        let s := (s.dropChannel n).modLink l (fun x => x.reserveIn { strand := n, origin := m.origin, rate := m.entry.rate, alt := m.alt })
        let hops := (claspRoute p m.origin p.coord m.alt).length
        let k := { (if m.again then k else k.empty) with altRoute := m.alt, members := m.members }
        let s := s.setBound n k hops
        let sts := ((s.job? k.job).bind (fun j => j.stations)).getD []
        (s.wakeBuffers (buffersOf sts [k.entry] s.peerMembers)).putOn l 3 (.claspBound l (.bound n hops (s.dstCount k)))
  | none => s.refuseBind l l n .disagreement

/-- A BIND passes through this module (R411, R412): the outgoing link, a channel number, and the strand capacity
and Filigree paths it needs. -/
def State.bindTransit (s : State) (l m : Nat) (b : BindMsg) : State :=
  let n := b.entry.strand
  let inNo := (freeChannel (s.link l).inCh).getD 0
  let outNo := (freeChannel (s.link m).outCh).getD 0
  let s1 := s.modLink l (fun x => x.reserveIn { strand := n, origin := b.origin, rate := b.entry.rate, alt := b.alt, other := some (m, outNo) })
  let s1 := s1.modLink m (fun x => x.reserveOut { strand := n, origin := b.origin, rate := b.entry.rate, alt := b.alt, other := some (l, inNo) })
  match if (freeChannel (s.link l).inCh).isNone then some BindReason.noChannel else s.channelFault m b.entry.rate with
  | some why => s.refuseBind l m n why
  | none => if s1.flowsFit (s1.allFlows 0) then s1.putOn m 3 (.claspBind m b) else s.refuseBind l m n .capacity

/-- BIND (R411): begun by this module, received as its destination, or in transit. -/
def execClsBind (link : Option LinkId) (msg : BindMsg) (s : State) : Result :=
  .next (
    match link with
    | none => if ((s.strand? msg.entry.strand).map (fun k => k.mayTry s.now)).getD false then s.beginBind msg.entry.strand else s
    | some l =>
      match s.cls.place with
      | none => s
      | some p =>
        if !(s.link l).serves then s
        else if msg.entry.peer = p.coord then s.bindHere l p msg
        else
          match transitLink p msg l with
          | some m => s.bindTransit l m msg
          | none => s.refuseBind l l msg.entry.strand .notInService)

/-- BOUND reaches the origin (R65, R83, R415): a first binding gives every group its credits and SEQ 0; a reroute sends
RESYNC with the largest next SEQ among the source members, and its credits are to come. A job no longer COMMITTED
releases the channel. -/
def State.boundHere (s : State) (l n hops count : Nat) (k : StrandSt) : State :=
  let k := { k with members := count }
  if !s.jobBinds k then s.dropChannel n
  else if k.reroute then
    let members := List.range (s.srcCount k)
    let seq := members.foldl (fun (b : Nat) m => Nat.max b (tget k.nextSeq m 0).toNat) 0
    let w : W32 := BitVec.ofNat 32 seq
    let s := s.setBound n { k with reroute := false, nextSeq := members.map (fun m => (m, w)), credits := [], unacked := [] } hops
    { s.putOn l 3 (.claspResync l n w) with cls.status := setFlag s.cls.status 7, cls.resyncs := sat s.cls.resyncs }
  else s.setBound n { s.bindStrand k with altRoute := k.altRoute } hops

/-- LINK_DOWN on its way around an axis to the far side of the failed link: it goes on until it comes to the module where
the channel holds the link ahead and not the one by which the message came; from there it goes along the path (R414). -/
def State.downRound (s : State) (l : Nat) (m : DownMsg) : State :=
  let far := oppLink l
  if (s.link l).holds m || !(s.link far).holds m then s.putOn far 3 (.claspLinkDown far m)
  else
    let along := { m with round := false }
    match (s.link far).downTransit m with
    | some h => s.putOn h 3 (.claspLinkDown h along)
    | none => s.routeDown far m.strand m.alt m.axis

/-- LINK_DOWN (R414, R423): passed on along the path of the channel it names, or the loss of a route that ends here. One that
names a channel already released is ignored. -/
def execClsLinkDown (link : LinkId) (msg : DownMsg) (s : State) : Result :=
  .next (
    let k := s.link link
    if !k.serves then s
    else if msg.round then s.downRound link msg
    else
      match k.downTransit msg with
      | some h => s.putOn h 3 (.claspLinkDown h msg)
      | none => if k.holds msg then s.routeDown link msg.strand msg.alt msg.axis else s)

/-- BOUND (R411): BOUND or a refusal, passed back along the path; a refusal releases each reservation. -/
def execClsBound (link : LinkId) (msg : BoundMsg) (s : State) : Result :=
  .next (
    let n := match msg with | .bound n _ _ => n | .refused n _ _ => n
    let k := s.link link
    if !k.serves then s
    else
      match k.transitOf n, s.strand? n with
      | some (m, _), _ =>
        let s := match msg with
          | .bound _ _ _ => s
          | .refused _ _ _ => (s.modLink link (fun x => x.dropStrand n (fun c => c.other.isSome))).modLink m (fun x => x.dropStrand n (fun c => c.other.isSome))
        s.putOn m 3 (.claspBound m msg)
      | none, some x =>
        if k.owns n && x.binding && decide (x.entry.place = .toPeer) then
          match msg with
          | .bound _ hops count => s.boundHere link n hops count x
          | .refused _ why axis => s.refusedHere link n x why axis
        else s
      | none, none => s)

/-- The peer's end of a strand is gone (R84): items with tiles on it end ABORTED, the strand is unbound, the job stays. -/
def State.peerUnbound (s : State) (l n : Nat) : State :=
  match s.strand? n with
  | some k =>
    let s := s.endItems (s.hasTiles n k) stAborted 0x1007
    (s.modLink l (fun x => x.dropStrand n (fun c => c.other.isNone))).modStrand n (fun k => { k.empty with binding := true })
  | none => s.modLink l (fun x => x.dropStrand n (fun c => c.other.isNone))

/-- RELEASE (R84, R411, R423): received, it frees a reservation and passes on, or unbinds a strand that ends here;
begun by this module, it frees the channel of a strand that is no longer bound. -/
def execClsRelease (link : Option LinkId) (strand : StrandId) (origin : Coord) (s : State) : Result :=
  .next (
    match link with
    | none =>
      let live := match s.strand? strand with | some k => k.bound || k.binding | none => false
      if live then s else s.dropChannel strand
    | some l =>
      let k := s.link l
      match (k.outCh ++ k.inCh).find? (fun c => c.2.strand == strand.val && c.2.origin == origin) with
      | some c =>
        match c.2.other with
        | some (m, _) =>
          let hit := fun (c : Channel) => c.other.isSome && c.origin == origin
          ((s.modLink l (fun x => x.dropStrand strand hit)).modLink m (fun x => x.dropStrand strand hit)).putOn m 3 (.claspRelease m strand)
        | none => s.peerUnbound l strand
      | none => s)

/-- BIND_RETRY (R411, R416): a strand of a committed job that is not bound is tried again. -/
def execBindRetry (strand : StrandId) (s : State) : Result :=
  .next (match s.strand? strand with
    | some k =>
      if k.bound || !k.mayTry s.now || (s.ownChannel strand true).isSome then s
      else (if k.reroute then s else s.setStrand strand { k with altRoute := none }).beginBind strand
    | none => s)

/-- RESYNC (R415): the destination discards what is part received, frees the slots of ended items, expects one
SEQ from every member, starts GATHER anew and answers with its free slots. -/
def execClsResync (link : LinkId) (strand : StrandId) (seq : W32) (s : State) : Result :=
  .next (
    match s.strand? strand, (s.link link).transitOf strand with
    | _, some (m, _) => s.putOn m 3 (.claspResync m strand seq)
    | some k, none =>
      if (s.link link).owns strand && decide (k.entry.place = .fromPeer) then
        let live := k.slots.filter (fun r => r.phase != 2)
        let s := s.modLink link (fun x => { x with assembling := x.assembling.filter (fun a => !x.inCh.any (fun c => c.1 == a.1 && c.2.strand == strand.val)) })
        let free := fun (g : Nat) => k.entry.depth - ((live.filter (fun r => r.group == g)).map (fun r => r.tile.seq)).eraseDups.length
        let first := if k.entry.srcMode = .gather then 0 else k.entry.srcMember
        let s := s.setStrand strand { k with
          slots := live, flight := [], discard := [], turn := [], due := [], baseSeq := seq
          expSeq := (List.range (s.srcCount k)).map (fun m => (first + m, seq)) }
        let s := s.putOn link 3 (.claspAck link strand [] ((List.range (s.groups k)).flatMap (fun g => List.replicate (free g) g)))
        { s with cls.status := setFlag s.cls.status 7, cls.resyncs := sat s.cls.resyncs }
      else s
    | none, none => s)

/-! ## Blocks received (R395-R398, R402) -/

/-- A lane fault (R402): a Heirloom event of the receiving lane; a pair that falls due on a link that no job uses is retired
(R156). -/
def State.laneFault (s : State) (l lane : Nat) : State :=
  let s := s.heirEvent 4 (laneIndex l lane)
  let s := s.modLink l (fun k => { k with laneFaults := sat k.laneFaults, laneErr := tdel k.laneErr lane })
  ({ s with cls.status := setFlag s.cls.status 2 } : State).retirePairs l

/-- LANE_FAULT (R402, R423): a lane of a trained link loses lock. -/
def execLaneFault (link : LinkId) (lane : Fin 32) (s : State) : Result :=
  .next (if (s.link link).lanes.contains lane.val then s.laneFault link lane else s)

/-- Charges a lane with one error; the 64th within 1 s is a lane fault (R402). -/
def State.chargeLane (s : State) (l lane : Nat) : State :=
  let times := s.stamp :: ((tget (s.link l).laneErr lane []).filter (fun t => decide (s.now < t.toNat + 1000000000)))
  if 64 ≤ times.length then s.laneFault l lane
  else s.modLink l (fun k => { k with laneErr := tput k.laneErr lane times })

/-- NAK: set in the next block sent, with ACK (R398). -/
def State.nak (s : State) (l : Nat) : State := s.modLink l (fun k => { k with nakNext := true, ackDue := true })

/-- A tile complete on a channel that ends here is in flight on its strand, its header being 4 words (R61, R396). -/
def State.arrive (s : State) (n : Nat) (bs : List Byte) (poison : List Nat) : State :=
  s.modStrand n (fun k => { k with flight := k.flight ++ [{ tileOfBytes (bs.take 32) (bs.drop 32) with
    strand := n, poison := (poison.filter (fun w => decide (4 ≤ w))).map (· - 4) }] })

/-- Counts the bytes of a block in transit on the Filigree links between the halves it crosses (R356, R412). -/
def State.countTransit (s : State) (l m n : Nat) : State :=
  let (x0, x1) := claspFields l
  let (y0, y1) := claspFields m
  (s.countLinks (filRoute x0 y0) (n / 2)).countLinks (filRoute x1 y1) (n - n / 2)

/-- Part of a tile or message, with the poison of its words, added to what has come of it. -/
def joinPart (got : List Byte × List Nat) (payload : List Byte) (poison : List Nat) : List Byte × List Nat :=
  (got.1 ++ payload, got.2 ++ poison.map (got.1.length / 8 + ·))

/-- The payload of a DATA block: collected into its tile, or sent on along a transit channel (R396, R412). -/
def State.dataBlock (s : State) (l ch : Nat) (first last : Bool) (payload : List Byte) (poison : List Nat) : State :=
  match (s.link l).inCh.find? (fun c => c.1 == ch) with
  | some (_, c) =>
    match c.other with
    | some (m, out) =>
      let s := s.countTransit l m payload.length
      if (s.link m).carries then
        s.queueBlock m { type := 1, channel := out + (if first then 256 else 0) + (if last then 512 else 0), payload := payload, poison := poison }
      else s
    | none =>
      let got := joinPart (if first then ([], []) else tget (s.link l).assembling ch ([], [])) payload poison
      if last then (s.modLink l (fun k => { k with assembling := tdel k.assembling ch })).arrive c.strand got.1 got.2
      else s.modLink l (fun k => { k with assembling := tput k.assembling ch got })
  | none => s

/-- The payload of a PEER block: the messages to this module have commands of their own; a message to another tray position
goes on along the route there, within that link's share (R418, R420, log 49). What has come of a message is kept as
channel 256. -/
def State.peerBlock (s : State) (l : Nat) (first last : Bool) (payload : List Byte) (poison : List Nat) : State :=
  let got := joinPart (if first then ([], []) else tget (s.link l).assembling 256 ([], [])) payload poison
  if !last then s.modLink l (fun k => { k with assembling := tput k.assembling 256 got })
  else
    let s := s.modLink l (fun k => { k with assembling := tdel k.assembling 256 })
    let pos := Config.peerTarget got.1
    let m := s.trayLink pos
    if pos = s.gen.straps.toNat % 4 ∨ (s.link m).carries = false then s
    else ((dataPieces got.1).zipIdx).foldl (fun (s : State) p =>
      s.queueBlock m { type := 2, channel := p.1.1, payload := p.1.2, poison := piecePoison got.2 p.2 }) (s.countTransit l m got.1.length)

/-- A block accepted: BSEQ, ACK and NAK, then what it carries. The messages of CONTROL and MANAGEMENT blocks have commands
of their own (R396, R398, log 49). -/
def State.acceptBlock (s : State) (l : Nat) (bs : List Byte) (poison : List Nat) : State :=
  let type := fld bs 0 1 % 16
  let s := s.modLink l (fun k => ({ k with rxNext := k.rxNext + 1, rxAt := s.now, ackDue := k.ackDue || decide (type ≠ 0) } : LinkSt).takeAck
    (BitVec.ofNat 16 (fld bs 4 2)) s.now)
  let s := if (fld bs 0 1).testBit 4 then s.goBack l else s
  let payload := cut bs 12 (min 240 (fld bs 1 1))
  if !(s.link l).carries then s
  else if type = 1 then s.dataBlock l (fld bs 6 2 % 256) ((fld bs 6 2).testBit 8) ((fld bs 6 2).testBit 9) payload poison
  else if type = 2 then s.peerBlock l ((fld bs 6 2).testBit 8) ((fld bs 6 2).testBit 9) payload poison
  else s

/-- Whether a block passes its CRC and is of a TYPE that R396 lists. -/
def blockGood (bs : List Byte) : Bool :=
  decide (bs.length = 256) && decide (fld bs 252 4 = (crc32c (bs.take 252)).toNat) && decide (fld bs 0 1 % 16 ≤ 5)

/-- CLASP_BLOCK_RECEIVE (R395-R398, R402): `lanePar` is the parity received on each lane. A TRAIN_ID block, sent only in
training, is not accepted in service (log 49). -/
def execClaspBlockReceive (link : LinkId) (bytes : List Byte) (lanePar : W32) (poison : List Nat) (s : State) : Result :=
  .next (
    let k := s.link link
    if !k.serves then s
    else if !blockGood bytes then
      let s := s.modLink link (fun k => { k with crcFail := k.crcFail + 1 })
      let s := (k.lanes.filter (fun n => (fld bytes 8 4).testBit n != lanePar.getLsbD n)).foldl (fun (s : State) n => s.chargeLane link n) s
      s.nak link
    else if BitVec.ofNat 16 (fld bytes 2 2) ≠ k.rxNext ∨ fld bytes 0 1 % 16 = 5 then s.nak link
    else s.acceptBlock link bytes poison)

/-- ACK_TIMEOUT (R398): no progress of ACK for 1 us while blocks are outstanding. -/
def execAckTimeout (link : LinkId) (s : State) : Result :=
  .next (let k := s.link link; if k.serves && !k.replay.isEmpty && decide (k.ackAt + 1000 ≤ s.now) then s.goBack link else s)

/-! ## Training (R392-R394, R401, R403, R408) -/

/-- Lane acceptance of a lane that has had a fault reproduces it: its record becomes PERMANENT (R153, R403). -/
def State.failLanes (s : State) (l : Nat) (pass : List Nat) : State :=
  ((List.range 32).filter (fun n => !pass.contains n)).foldl (fun (s : State) n =>
    if (s.heir? 4 (laneIndex l n)).isSome then s.makePermanent 4 (laneIndex l n) 2 else s) s

/-- The channels that a link keeps when it comes back narrower, in the order they were bound, and the rest (R403). -/
def keepChannels (fits : Nat → Bool) : Nat → List (Nat × Channel) → List (Nat × Channel) × List (Nat × Channel)
  | _, [] => ([], [])
  | sum, c :: cs =>
    if fits (sum + c.2.rate) then
      let (k, d) := keepChannels fits (sum + c.2.rate) cs
      (c :: k, d)
    else ([], c :: cs)

/-- Channels beyond the capacity of a link in SHORT are treated as though it were down (R403, R414). -/
def State.trimChannels (s : State) (l : Nat) : State :=
  let fits := fun n => (qn n).le (s.strandCap l)
  let k := s.link l
  let (keepOut, dropOut) := keepChannels fits 0 k.outCh
  let (keepIn, dropIn) := keepChannels fits 0 k.inCh
  let s := s.modLink l (fun k => { k with outCh := keepOut, inCh := keepIn })
  (dropOut ++ dropIn).foldl (fun (s : State) c =>
    match c.2.other with
    | some (m, _) => s.putOn m 3 (.claspLinkDown m { strand := c.2.strand, alt := c.2.alt, axis := l / 2 })
    | none => s.routeDown l c.2.strand c.2.alt (l / 2)) s

/-- A link trained: LONG, HELD, UP or SHORT, by its delay, neighbour and width (R394, R400, R403, R408). -/
def State.linkTrained (s : State) (l : Nat) (pairs : List Nat) (delay : Nat) (nbr : Option Neighbour) : State :=
  let k := s.link l
  let k := { k.wipe with nbr := nbr, delay := BitVec.ofNat 8 (min delay 255), lanes := pairs ++ pairs.map (· + 16), offCause := 0
                         rxAt := s.now, ackAt := s.now, failedAt := none }
  if 150 < delay then s.setLink l { k with state := .off, offCause := 3, lanes := [] }
  else
    let id := nbr.map (fun n => (n.serial, n.link))
    let held := k.lastUp.isSome && id != k.lastUp
    let full := decide (pairs.length = 16 - k.pairsOut.length)
    let st : LinkState := if held then .held else if full then .up else .short
    let s := s.setLink l { k with state := st, lastUp := if held then k.lastUp else id }
    let s := if held then { s with cls.status := setFlag s.cls.status 4 } else s
    if full then s else s.trimChannels l

/-- This module's neighbour record of a link (R408). -/
def State.ownRecord (s : State) (l : Nat) : Neighbour :=
  { serial := s.part.serial, straps := s.gen.straps, link := l, cl := s.gen.cl, epoch := s.cls.epoch }

/-- A link begins training: it sends this module's neighbour record in a TRAIN_ID block (R396, R400, R408). -/
def State.beginTraining (s : State) (l : Nat) : State :=
  let o : Output := .trainId l (s.ownRecord l)
  (((s.modLink l (fun k => { k.wipe with state := .training, offCause := 0, lanes := [] })).put o).sendBlock l { type := 5, payload := (Config.messageBytes o).take 240 })

/-- Whether an interface has a saved setting in a band, for a link with the neighbour it was saved with (R454). -/
def State.hasSaved (s : State) (band i : Nat) (nbr : W64 × Nat) : Bool := s.flash.trained.contains (i, band, nbr.1, nbr.2)

/-- Saves the setting of a full training (R454). -/
def State.saveTraining (s : State) (band i : Nat) (nbr : W64 × Nat) : State :=
  { s with flash.trained := s.flash.trained.filter (fun e => !(e.1 == i && e.2.1 == band)) ++ [(i, band, nbr.1, nbr.2)] }

/-- One training of a link, by the lanes that pass acceptance; fewer than the 24 of the narrowest width fail it. -/
def State.trainLink (s : State) (l : Nat) (lanes : List Nat) (delay : Nat) (nbr : Option Neighbour) : State :=
  let k := s.link l
  let s := if lanes.isEmpty then s else s.failLanes l lanes
  let pairs := (List.range 16).filter (fun p => lanes.contains p && lanes.contains (p + 16) && !k.pairsOut.contains p)
  if pairs.length < 12 then s.setLink l { k.wipe with state := .down, lanes := [], failedAt := some s.now } else s.linkTrained l pairs delay nbr

/-- One training of a link from its TRAINING on, with saved settings if there are any for its band and neighbour; a full
training that succeeds saves its own. Whether it was a fast one (R401, R403, R454). -/
def State.trainSaved (s : State) (l : Nat) (lanes : List Nat) (delay : Nat) (nbr : Option Neighbour) (band : Nat) (fastFail : Bool) : State × Bool :=
  let id := (nbr.map (fun n => (n.serial, n.link))).getD (0, 0)
  let fast := nbr.isSome && s.hasSaved band (36 + l) id && !fastFail
  let s := s.trainLink l lanes delay nbr
  (if (s.link l).serves && !fast then s.saveTraining band (36 + l) id else s, fast)

/-- LINK_RETRAIN (R401, R403, R404, R408, R423, R454): a link that is DOWN goes to TRAINING, at once or 1 s after a
retraining that failed; pairs whose retirement fell due while it was down are retired first. A link in TRAINING comes to
the end of it. -/
def execLinkRetrain (link : LinkId) (lanes : List (Fin 32)) (delay : Nat) (nbr : Option Neighbour) (band : Fin 4) (fastFail : Bool) (s : State) : Result :=
  .next (
    let k := s.link link
    if s.linkOffCause link ≠ 0 then s
    else if k.state = .down then
      if k.failedAt.any (fun t => decide (s.now < t + 1000000000)) then s
      else
        let s := s.retirePairs link true
        if (s.link link).outService then s else (s.beginTraining link).linkChanged
    else if k.state = .training then ((s.trainSaved link (lanes.map (·.val)) delay nbr band fastFail).1.retirePairs link).linkChanged
    else s)

/-- TRAIN_ID (R396, R408): the neighbour record, received in training. -/
def execTrainId (link : LinkId) (nbr : Neighbour) (s : State) : Result :=
  .next (if (s.link link).state = .training then s.modLink link (fun k => { k with nbr := some nbr }) else s)

/-! ## Peer memory, as the lender (R190, R418, R419) -/

/-- The 64 KiB units that a map message names. -/
def mapUnits (m : PeerMap) : List Nat := (List.range (m.frames * m.pageUnits)).map (m.first + ·)

/-- PEER_MAP_MESSAGE (R190, R419): a mapping is refused unless it names the LPDDR5X of a field that is lent and its
frames overlap none that any peer has mapped. -/
def execPeerMapMessage (msg : PeerMap) (s : State) : Result :=
  .next (
    if s.gen.state = .reset then s
    else if msg.unmap then
      ({ s with lkt.peerMaps := s.lkt.peerMaps.filter (fun e => !(e.1 == msg.field && e.2.1 == msg.requester && (mapUnits msg).contains e.2.2)) } : State).putOn
        (s.trayLink msg.requester) 3 (.peerMapAnswer msg.requester true)
    else
      let ok := !msg.hbm && decide (msg.field < 12) && s.lkt.lend.getLsbD msg.field && decide (msg.first + msg.frames * msg.pageUnits ≤ tierUnits true) &&
        !s.lkt.peerMaps.any (fun e => e.1 == msg.field && (mapUnits msg).contains e.2.2)
      let s := if ok then { s with lkt.peerMaps := s.lkt.peerMaps ++ (mapUnits msg).map (fun u => (msg.field, msg.requester, u)) } else s
      s.putOn (s.trayLink msg.requester) 3 (.peerMapAnswer msg.requester ok))

/-- Whether a requester has mapped every byte of a request. -/
def State.peerMapped (s : State) (r : PeerReq) : Bool :=
  !r.hbm && (List.range ((r.offset % 65536 + r.len + 65535) / 65536)).all (fun i =>
    s.lkt.peerMaps.contains (r.field, r.requester, r.frame + r.offset / 65536 + i))

/-- The Filigree routes of an access that a peer makes to a field of this module, from the halves of the link it comes by,
each with the bytes it carries; the data of a read goes the other way (R332, R412). -/
def State.peerRoutes (s : State) (r : PeerReq) : List (List Path × Nat) :=
  (linkHalves (s.trayLink r.requester) r.len).map (fun h =>
    (if r.data.isSome then filRoute h.1 r.field else filRoute r.field h.1, h.2))

/-- An answer to a peer, on the route to it (R418). -/
def State.answerPeer (s : State) (r : PeerReq) (ok : Bool) (data : List Byte) (poison : List Nat) : State :=
  s.putPeer (s.trayLink r.requester) (.peerAnswer r.requester ok data poison)

/-- A request within what its requester has mapped (R331, R388, R418): `wire` are the words that cross Filigree with an error
no code corrects. -/
def State.servePeer (s : State) (r : PeerReq) (bad wire : List Nat) : State :=
  let a := lpBase r.field + 65536 * r.frame + r.offset
  let routes := s.peerRoutes r
  let wire := if routes.all (fun x => x.1.isEmpty) then [] else wire.filter (fun w => decide (8 * w < r.len))
  let s := routes.foldl (fun (s : State) x => s.countLinks x.1 x.2) s
  match r.data with
  | some bs => (s.storeBytes a bs (r.poison ++ wire)).answerPeer r true [] []
  | none =>
    let (s, got) := s.readPiece a r.len 0 bad none
    s.answerPeer r true got.bytes (got.poison ++ wire)

/-- PEER_REQUEST (R418, R419): a stale epoch is refused with poisoned data; a frame not mapped reads zeros and
takes no write. -/
def execPeerRequest (req : PeerReq) (bad wire : List Nat) (s : State) : Result :=
  .next (
    if s.gen.state = .reset ∨ s.thm.coolantStop = true ∨ 4096 < req.len then s
    else if req.epoch ≠ s.cls.lendEpoch then ({ s with cls.status := setFlag s.cls.status 8 } : State).answerPeer req false [] []
    else if s.peerMapped req then s.servePeer req bad wire
    else
      let s := { s with cls.status := setFlag s.cls.status 8 }
      let s := s.record 0x0C 0 0xFFFF (le 1 req.requester ++ le 4 req.frame)
      s.answerPeer req true (if req.data.isSome then [] else List.replicate req.len 0) [])

/-! ## Placement and time (R406, R407, R421) -/

/-- The first check of R406 that a placement record breaks, numbered from 1. -/
def placementFault (p : Placement) : Option Nat :=
  let ext := fun n => decide (1 ≤ n) && decide (n ≤ 32)
  if !(ext p.extent.x && ext p.extent.y && ext p.extent.z) then some 1
  else if !Placement.holds p p.coord then some 2
  else if (p.wrapX && p.extent.x == 1) || (p.wrapY && p.extent.y == 1) || (p.wrapZ && p.extent.z == 1) then some 3
  else if p.tray.any (fun t => t == some p.coord) then some 4
  else none

/-- PLACEMENT (R406, R407, R434): a valid record is pending until it may be applied. -/
def execPlacement (hdr : VHdr) (rec : Placement) (s : State) : Result :=
  .next (vendor 0x20 hdr (fun s =>
    match placementFault rec with
    | some n => (s.record 0x0A 0 0xFFFF (le 4 rec.epoch.toNat ++ le 1 n)).answer 0x20 hdr .badForm
    | none => ({ s with cls.pendingPlace := some rec } : State).answer 0x20 hdr .ok) s)

/-- Whether a pending placement may be applied (R407). -/
def State.placeable (s : State) : Bool :=
  s.masterUp && s.jobs.all (fun e => e.2.phase != .committed || (e.2.strands.getD []).all (fun k => k.place == .locl)) &&
  s.lkt.entries.all (fun e => e.2.state != .peer)

/-- PLACEMENT_APPLY (R407, R408): the values and the epoch are set together; links in HELD return to service;
a broadcast session's bitmap is lost (R444). -/
def execPlacementApply (s : State) : Result :=
  .next (
    match s.cls.pendingPlace with
    | some p =>
      if !s.placeable then s
      else
        let s := { s with
          cls.place := some p, cls.epoch := p.epoch, cls.pendingPlace := none
          mgmt.bcast := s.mgmt.bcast.map (fun (b : BcastSt) => if b.root then b else { b with have_ := [], data := [] }) }
        let held := (s.cls.links.filter (fun e => e.2.state == .held)).map (·.1)
        let s := held.foldl (fun (s : State) l => s.modLink l (fun k => { k with
          state := if k.lanes.length = 32 - 2 * k.pairsOut.length then .up else .short
          lastUp := k.nbr.map (fun n => (n.serial, n.link)) })) s
        if held.isEmpty then s.checkTime else s.linkChanged
    | none => s)

/-- The link of the time parent, while CAL_SOURCE is set and it is in service (R421). -/
def State.parentLink (s : State) : Option Nat :=
  if s.clk.cfg.getLsbD 1 then
    (s.cls.place.bind (fun (p : Placement) => p.timeParent)).bind (fun l => if (s.link l).carries then some l else none)
  else none

/-- TIME (R421): the parent's time plus the path delay is what the master slews toward. -/
def execTimeMsg (t : W64) (s : State) : Result :=
  .next (match s.parentLink with
    | some _ => { s with cls.timeErr := ((t.toNat : Int) + s.cls.timeDelay) * 16777216 - s.cal.toNat }
    | none => s.checkTime)

/-- TIME_PATH_DELAY_EXCHANGE (R421): this end's timestamp goes out; with the time parent, half the round trip is the path
delay, and the neighbour on any other link is a module whose time parent this one is (log 116). -/
def execTimePathDelay (link : LinkId) (roundTrip : Nat) (s : State) : Result :=
  .next (
    let s := s.checkTime
    if !(s.link link).carries then s
    else if s.parentLink = some link.val then ({ s with cls.timeDelay := roundTrip / 2 } : State).putOn link 3 (.timeMsg link s.stamp)
    else (s.modLink link (fun k => { k with timeChild := true })).putOn link 3 (.timeMsg link s.stamp))

/-- The TIME messages that a time parent sends every 10 us (R421). -/
def State.sendTime (s : State) : State :=
  ((s.cls.links.filter (fun e => e.2.timeChild && e.2.carries)).map (·.1)).foldl (fun s l => s.putOn l 3 (.timeMsg l s.stamp)) s

end Sys2Proof.Machine
end

