-- ==== Sys2Proof/Machine/Stores.lean ====
section
/-! DEFINITION. Upkeep of the stores (R152, R153, R174-R176, R180-R183, R195-R197): scrubbing, repair of
slices, slice bank retention, targeted self-test, and Heirloom's way to flash (R155, R157). -/

namespace Sys2Proof.Machine

/-! ## Scrubbing (R179-R181, R195-R197) -/

/-- SCRUB_READ (R174, R179-R181): a scratchpad row is 4 words, a slice row 64; a bank in retention is not scrubbed. Rows
24,576 to 25,087 are the redundancy rows of the scratchpad banks, rows 131,072 to 135,167 those of the slice banks. The
rules do not say whether a fenced slice is scrubbed: it is not (DESIGN CHOICE, log 96); nor whether a scrub read that
reaches an ENTERING bank is a late access: it is none, and the bank is scrubbed without waking the field (DESIGN CHOICE,
log 127). -/
def execScrubRead (space : ScrubSpace) (row : Nat) (finds : List (Nat × EccFind)) (s : State) : Result :=
  .next (
    match space with
    | .spad core =>
      if row < 25088 ∧ (s.region core).state = .on then
        (finds.filter (fun x => decide (x.1 < 4))).foldl (fun s x => s.spadFind true core (4 * row + x.1) x.2) s
      else s
    | .slice field =>
      let bank := sliceWordBank (64 * row)
      if row < 135168 ∧ (s.region (120 + field)).state = .on ∧ tget (s.field field).ret bank .awake ≠ .retained ∧
          (s.field field).fenced.getLsbD (bank / 8) = false then
        (finds.filter (fun x => decide (x.1 < 64))).foldl (fun s x => s.sliceFind true field (64 * row + x.1) x.2) s
      else s)

/-- PATROL_SCRUB (R195, R197, R207): an uncorrectable word is poisoned and recorded, and its page POISONED. -/
def execPatrolScrub (addr : Nat) (find : Option EccFind) (s : State) : Result :=
  .next (
    if !isHbm addr || s.devTripped addr || find != some .uncorrectable || s.wordPoison (addr / 8) then s
    else
      let s := (s.setPoison (addr / 8) true).1.memRecord (addr / 8 * 8)
      (s.entriesAt addr).foldl (fun s n => s.poisonEntry n) s)

/-- ERROR_CHECK_AND_SCRUB (R197, R436 KIND 0x02). -/
def execErrorCheckAndScrub (field : FieldId) (package : Fin 4) (count : W32) (s : State) : Result :=
  .next (s.record 0x02 (1 + field) (0x7300 + field) (le 1 field ++ le 1 package ++ le 4 count.toNat))

/-! ## Slice repair (R156, R183) -/

/-- Whether a slice is PERMANENT and so due for repair. -/
def State.repairDue (s : State) (f sl : Nat) : Bool :=
  match s.heir? 3 (sliceIndex f sl) with
  | some r => r.state == .permanent
  | none => false

/-- Copies one failing row, an access that may be late (R176); a word of it that cannot be corrected stays poisoned, or is so from now on, at a
place the spec leaves open. -/
def State.copyRow (s : State) (f sl : Nat) (x : Nat × Bool) : State :=
  let first := sl * 524288 + 64 * x.1
  let k := s.field f
  let bank := 8 * sl + x.1 / 1024
  let s := (s.setField f { k with sliceRows := tput k.sliceRows bank (tget k.sliceRows bank 0 + 1) }).touch f (8 * first) 512
  let k := s.field f
  if x.2 && !k.slicePoison.any (fun w => decide (first ≤ w) && decide (w < first + 64)) then
    let (r, s) := s.fresh32
    s.slicePoisonAt f [first + r.toNat % 64]
  else s

/-- Fences a slice: its contents are lost (R183). -/
def State.fence (s : State) (f sl : Nat) : State :=
  s.modField f (fun k => { k.zeroSlices (sl * 0x400000) 0x400000 with
    fenced := setFlag k.fenced sl, memStatus := setFlag k.memStatus 5 })

/-- SLICE_REPAIR (R156, R183, R184, R461): a PERMANENT slice in which no committed job has a strand buffer; rows
are numbered within the slice. -/
def execSliceRepair (field : FieldId) (slice : Fin 16) (rows : List (Nat × Bool)) (s : State) : Result :=
  .next (
    if !s.repairDue field slice || s.sliceHeld field (slice * 0x400000) 0x400000 || !s.managerUp field then s
    else
      let rows := rows.filter (fun x => decide (x.1 < 8192))
      let need := fun (b : Nat) => tget (s.field field).sliceRows (8 * slice + b) 0 + (rows.filter (fun x => decide (x.1 / 1024 = b))).length
      let past := (List.range 8).any (fun b => decide (32 < need b))
      let s := rows.foldl (fun s x => if tget (s.field field).sliceRows (8 * slice + x.1 / 1024) 0 < 32 then s.copyRow field slice x else s) s
      let s := if past then s.fence field slice else s
      (s.markRetired 3 (sliceIndex field slice)).publish)

/-! ## Slice bank retention (R174-R176) -/

/-- Whether an item keeps a field's banks awake: a run of it at a CORE station that binds a core of the field has not
ended, on whichever of the station's members, and it was priced when no bank of the field was requested. A run that
binds a core of the field is read as R177 says it, a run of a CORE station that does (R174; DEDUCED, log 98). -/
def State.unpricedRun (s : State) (f : Nat) : Bool :=
  s.alm.items.any (fun i => i.status.isNone && i.unpriced.contains f && i.wins.any (fun w =>
    match s.stn i.job w.station with
    | some e => e.kind == .core && e.cores.any (fun l => lcoreField l == f) && !s.winDone i w
    | none => false))

/-- Whether a cause holds a requested bank awake (R174). -/
def State.heldAwake (s : State) (f bank : Nat) : Bool :=
  s.sliceHeld f (bank * 0x80000) 0x80000 || s.repairDue f (bank / 8) || (s.field f).cancelled || s.unpricedRun f

/-- ENTERING (R174). -/
def execRetEntering (field : FieldId) (bank : Fin 128) (s : State) : Result :=
  .next (
    if tget (s.field field).ret bank .awake = .pending ∧ s.heldAwake field bank = false then
      s.modField field (fun k => { k with ret := tput k.ret bank .entering })
    else s)

/-- RETAINED (R174): a bank whose request was cleared while it entered wakes at once. -/
def execRetRetained (field : FieldId) (bank : Fin 128) (s : State) : Result :=
  .next (
    if tget (s.field field).ret bank .awake = .entering then
      s.modField field (fun k => { k with ret := if k.retBit bank then tput k.ret bank .retained else tdel k.ret bank })
    else s)

/-- LATE_ACCESS (R176): an access that reaches a bank which is ENTERING or RETAINED. -/
def execLateAccess (field : FieldId) (bank : Fin 128) (s : State) : Result :=
  .next (s.touch field (bank * 0x80000) 1)

/-- Whether a core is a member of a CORE station that binds a core of a field. -/
def State.stationIn (s : State) (c f : Nat) : Bool :=
  match (s.core c).station.bind (fun n => s.stn (s.core c).job n) with
  | some e => e.cores.any (fun l => lcoreField l == f)
  | none => false

/-- The runs in progress of CORE stations that bind a core of a field: tag and core (R176). -/
def State.runsIn (s : State) (f : Nat) : List (W32 × Nat) :=
  s.cores.filterMap (fun e => if s.stationIn e.1 f then e.2.run.map (fun r => (r.work, e.1)) else none)

/-- Clearing WAKE re-arms retention once the runs now in progress have ended (R176). -/
def State.clearWake (s : State) (f : Nat) : State :=
  s.modField f (fun k => if flag k.memStatus 4 then { k with memStatus := clrFlag k.memStatus 4, rearmWait := some (s.runsIn f) } else k)

/-- WAKE_CLEAR (R176, R185). -/
def execWakeClear (field : FieldId) (s : State) : Result :=
  .next (if s.gen.state = .reset ∨ s.gen.state = .recovery ∨ s.cxl.d3 = true then s else s.clearWake field)

/-- RETENTION_REARM (R176): every run that was in progress at the clear has ended. -/
def execRetentionRearm (field : FieldId) (s : State) : Result :=
  .next (
    match (s.field field).rearmWait with
    | some rs =>
      if rs.any (fun x => (s.runsIn field).contains x) then s
      else s.modField field (fun k => { k with cancelled := false, rearmWait := none })
    | none => s)

/-! ## Heirloom (R152-R157) -/

/-- Whether the field manager can test a unit: no committed job uses the slice, or binds the core, whose region is ON:
the port of a dark core answers UNAVAILABLE, and the test is tried again (R153, R372). The rule does not say what it is
to use a slice: to have a strand buffer in it (DESIGN CHOICE, log 127). -/
def State.unitFree (s : State) (kind idx : Nat) : Bool :=
  if kind = 3 then !s.sliceHeld (idx % 16) (idx / 16 * 0x400000) 0x400000
  else !s.coreBound (physCore (idx % 256)) && decide ((s.region (physCore (idx % 256))).state = .on)

/-- The field whose manager tests a unit. -/
def unitField (kind idx : Nat) : Nat := if kind = 3 then idx % 16 else coreField (physCore (idx % 256))

/-- TARGETED_SELF_TEST (R153): of a column, bank or slice that has had an event; one that the test reproduces
makes the unit PERMANENT. -/
def execTargetedSelfTest (kind index : Nat) (reproduced : Bool) (s : State) : Result :=
  .next (
    if (s.heir? kind index).isNone || !([1, 2, 3].contains kind) || !s.unitFree kind index || !s.managerUp (unitField kind index) || !reproduced then s
    else
      let s := s.makePermanent kind index 2
      if kind = 3 then s else s.settleCore (physCore (index % 256)))

/-- Writes a record into the flash copy of Heirloom (R155). -/
def flashHeir (rs : List HRec) (r : HRec) : List HRec :=
  let same := fun (a b : HRec) => a.kind == b.kind && a.index == b.index
  if rs.any (same r) then rs.map (fun x => if same r x then r else x)
  else if rs.length < 16384 then rs ++ [r]
  else match oldestWatch rs with
    | some o => rs.map (fun x => if same o x then r else x)
    | none => rs

/-- HEIRLOOM_WRITE (R155, R157, R427): the oldest waiting change is written by the device master. -/
def execHeirloomWrite (s : State) : Result :=
  .next (
    if !s.masterUp then s
    else
      match s.hwQueue, s.replaceDue with
      | r :: rest, _ => { s with flash.heirloom := flashHeir s.flash.heirloom r, hwQueue := rest }
      | [], c :: rest => { s with flash.replacement := s.flash.replacement ++ [c], replaceDue := rest }
      | [], [] => s)

/-- OPERATING_MINUTE (R153, R427): the counter is hardware and counts outside RESET. -/
def execOperatingMinute (s : State) : Result :=
  .next (if s.gen.state = .reset then s else { s with flash.minutes := sat s.flash.minutes })

end Sys2Proof.Machine
end

