-- ==== Sys2Proof/Machine/Work.lean ====
section
/-! DEFINITION. Work items: the form, state and price checks of a WORK descriptor (R234-R237, R246-R248,
R255, R288-R290), admission, the timed release (R247), recomputed plans (R244) and ABORT (R300). -/

namespace Sys2Proof.Machine

/-! ## The calendar (R246) -/

/-- What the price check decides of an item or step: refused, or its place in the calendar. -/
inductive Verdict where
  | late
  | place (t0 cslot : Nat) (wins : List Win)
  deriving DecidableEq, Repr, Inhabited

/-- The first completion slot from one on that fewer than 128 admitted items hold (R246). -/
def freeCslot (held : Tab Nat) : Nat → Nat → Nat
  | 0, n => n
  | fuel + 1, n => if tget held n 0 < 128 then n else freeCslot held fuel (n + 1)

/-- A window in slots, from t0 on: S floored, E widened to a whole slot (R246). -/
def winAt (t0 : Nat) (w : Window) : Win :=
  { station := w.station, first := t0 + (w.s.floor / 1000), last := t0 + ((w.e.ceil + 999) / 1000) }

/-- The earliest start of some windows, in slots: the first boundary at or after landing and RELEASE, and
every station's tail (R246). -/
def State.earliest (s : State) (release : Nat) (ws : List Window) : Nat :=
  ws.foldl (fun t w => Nat.max t (tget s.alm.tails w.station 0 - w.s.floor / 1000))
    (Nat.max ((s.now + 999) / 1000) ((release + 999) / 1000))

/-- The span of some windows in slots, with the completion allowance of 1,000 ns (R241, R243). -/
def spanSlots (ws : List Window) : Nat := ((ws.foldl (fun d w => Nat.max d w.e.ceil) 0) + 1000 + 999) / 1000

/-- The price check (R246): the place at which the windows fit, or REJECTED_LATE. -/
def State.verdict (s : State) (deadline release : Nat) (ws : List Window) : Verdict :=
  let t0 := s.earliest release ws
  let c := freeCslot s.alm.cslots s.alm.cslots.length (t0 + spanSlots ws)
  if c * 1000 ≤ deadline ∧ c * 1000 ≤ s.now + 10000000000 then .place t0 c (ws.map (winAt t0)) else .late

/-- Notes how long a verdict took, which the spec leaves to 250 ns at most (R236, R260). -/
def State.noteVerdict (s : State) : State :=
  let (t, s) := s.fresh32
  { s with alm.verdictMax := BitVec.ofNat 8 (Nat.max s.alm.verdictMax.toNat (t.toNat % 251)) }

/-- Counts an item refused with REJECTED_LATE (R260). -/
def State.countLate (s : State) : State :=
  { s with alm.status := setFlag s.alm.status 1, alm.lateCount := sat s.alm.lateCount }

/-- The steps and items admitted and incomplete are as many as may be (R248). -/
def State.almFull (s : State) : Bool := decide (32768 ≤ s.alm.items.length)

/-- Notes an item or step refused for want of room (R248). -/
def State.markFull (s : State) : State := { s with alm.status := setFlag s.alm.status 4 }

/-- Reserves an item's windows and completion slot and adds it to the admitted ones; a tag may come again once its item
has completed, so that tiles with it are an item's again (R76, R246, R260). -/
def State.admitItem (s : State) (i : Item) : State :=
  { s with
    strands := tmap s.strands (fun _ k => { k with ended := k.ended.filter (· != i.tag) })
    alm.items := s.alm.items ++ [{ i with unpriced := (List.range 12).filter (fun f => !(s.field f).requested) }]
    alm.tails := i.wins.foldl (fun t w => tput t w.station w.last) s.alm.tails
    alm.cslots := tput s.alm.cslots i.cslot (tget s.alm.cslots i.cslot 0 + 1)
    alm.admitCount := s.alm.admitCount + 1 }

/-! ## Tile lists (R290) -/

/-- An entry of a tile list. -/
structure ListEntry where
  addr   : Nat := 0
  strand : Nat := 0
  bytes  : Nat := 0
  bad    : Bool := false
  deriving DecidableEq, Repr, Inhabited

/-- An entry from its 16 bytes; `bad` tells of reserved bits. -/
def listEntryOf (e : List Byte) : ListEntry :=
  { addr := fld e 0 8, strand := fld e 8 2 % 4096, bytes := fld e 0xC 4, bad := decide (4096 ≤ fld e 8 2) || !zeros e 0xA 2 }

/-- The tile list that a WORK descriptor names; none when its read fails (R269). -/
def tileList (mem : HostMem) (d : Desc) : Option (List ListEntry) :=
  let n := descF d 0x1C 1
  let a := descF d 0x20 8
  if hostFails mem a (16 * n) then none
  else some ((List.range n).map (fun i => listEntryOf (hostRead mem (a + 16 * i) 16)))

/-- Bytes of elements and scales before the padding (R58). -/
def dataBytes (fmt rows cols : Nat) : Nat := rows * cols * elemBits fmt / 8 + if isMx fmt then rows * cols / 32 else 0

/-- Whether a tile from the host meets R55 to R58: the fields that the device overwrites are not judged. The rules give a SLOT
outside 0 to 2,047 and 0xFFFF, and an OFFSET on a strand that is no store strand, no breach of their own; here neither is one,
and both fields pass on with the tile (DESIGN CHOICE, log 127). -/
def hostTileOk (h payload : List Byte) : Bool :=
  let fmt := fld h 2 1
  let fl := fld h 3 1
  let rows := fld h 8 2
  let cols := fld h 0xA 2
  let anchor := signed 16 (fld h 0xC 2)
  let n := fld h 0x10 4
  decide (fl < 4) && zeros h 0x17 1 && decide (fld h 0 2 < 4096) && decide (fld h 0xE 2 < 1024) &&
  (if fl.testBit 1 then decide (fmt = 0) && decide (rows = 0) && decide (cols = 0) && decide (n = 0) && decide (anchor = 0)
   else shapeOk fmt rows cols anchor n && (payload.drop (dataBytes fmt rows cols)).all (· == 0))

/-- The tile of an entry, if it passes the checks that need no table: address, reserved bits, BYTES against
the header, the tile's own form; the device's fields are still to be written (R56, R267, R290). -/
def State.listTile (s : State) (mem : HostMem) (e : ListEntry) : Option Tile :=
  if e.bad || !s.hostAddrOk e.addr 32 e.bytes || decide (e.bytes < 32) || decide (262144 + 32 < e.bytes) || hostFails mem e.addr e.bytes then none
  else
    let h := hostRead mem e.addr 32
    if fld h 0x10 4 + 32 ≠ e.bytes then none
    else
      let p := hostRead mem (e.addr + 32) (e.bytes - 32)
      if hostTileOk h p then some (tileOfBytes h p) else none

/-- Whether an entry's strand leaves the HOST station of the job that is bound to the carrying ring, with
room for the tile (R290). -/
def State.hostStrandOk (s : State) (j ring : Nat) (e : ListEntry) : Bool :=
  match s.strand? e.strand with
  | some k =>
    decide (k.job = j) &&
    (match s.srcStn k with
      | some st => decide (st.kind = .host) && decide (st.target = ring)
      | none => false) &&
    decide (e.bytes ≤ k.entry.maxKib * 1024 + 32)
  | none => false

/-- The tiles of a list, or the index of its first failing entry: the running sum of BYTES is held to 4 MiB
(R290). `tables` adds the checks that need the job's tables. -/
def State.listTiles (s : State) (mem : HostMem) (tables : ListEntry → Bool) : Nat → Nat → List Tile → List ListEntry → Nat ⊕ List Tile
  | _, _, done, [] => .inr done
  | i, sum, done, e :: rest =>
    match if sum + e.bytes ≤ 4194304 ∧ tables e = true then s.listTile mem e else none with
    | some t => s.listTiles mem tables (i + 1) (sum + e.bytes) (done ++ [t]) rest
    | none => .inl i

/-- Bytes of the intake buffer in use: host tiles that have not left for their strands (R284). -/
def State.intakeUse (s : State) : Nat :=
  ((s.alm.items.flatMap (·.tiles) ++ s.strands.flatMap (fun e => e.2.hostQ)).map tileBytes).foldl (· + ·) 0

/-! ## WORK -/

/-- The faults of a WORK descriptor's own bytes (R237, R288, R289). -/
def State.workFaults (s : State) (d : Desc) : List (Nat × Bool) :=
  let f := descF d
  [(0x04, (descTag d).getLsbD 31), (0x08, decide (f 0x08 8 = 0)), (0x10, decide (f 0x18 1 % 16 ≠ 1) && decide (f 0x18 1 % 16 ≤ 2) && decide (f 0x10 8 ≠ 0)),
   (0x18, decide (2 < f 0x18 1)), (0x19, decide (14 < f 0x19 1)), (0x1C, decide (64 < f 0x1C 1)),
   (0x20, if f 0x1C 1 = 0 then decide (f 0x20 8 ≠ 0) else !s.hostAddrOk (f 0x20 8) 64 (16 * f 0x1C 1))]

/-- Whether a plan uses a station of some set. -/
def planUses (sts : List StationE) (sks : List StrandE) (p : Nat) (q : StationE → Bool) : Bool :=
  sts.any (fun e => (planStations sts sks p).contains e.station && q e)

/-- A station whose card has a plan-15 record (R250). -/
def isStepStation (e : StationE) : Bool := decide (e.kind = .core) && (cardPlan? e.card 15).isSome

/-- Whether a stream of a job is bound (R250). -/
def State.streamBound (s : State) (j : Nat) : Bool := s.fst.streams.any (fun e => e.2.job == j)

/-- Whether a station has a member that is not in service, or that a thermal trip holds (R77, R78, R387, R465). -/
def State.stationDown (s : State) (e : StationE) : Bool :=
  match e.kind with
  | .core => e.cores.any (fun l => !s.inService l || (s.region (120 + lcoreField l)).tripped ||
      (match s.phys l with | some c => (s.region c).tripped | none => true))
  | .loupe => (s.region (120 + e.target)).tripped
  | _ => false

/-- Whether a strand is unbound, being rebound, or bound and not yet repriced (R83, R417). -/
def State.strandUnready (s : State) (n : Nat) : Bool :=
  match s.strand? n with | some k => !k.bound || k.recompute | none => true

/-- Whether a plan needs a strand that is not ready. -/
def State.planUnbound (s : State) (sts : List StationE) (sks : List StrandE) (p : Nat) : Bool :=
  (planStrands sts sks p).any s.strandUnready

/-- The state checks of an item of a committed job that do not depend on its tag: service, strands, plan (R77,
R244, R387, R417). -/
def State.planState (s : State) (jb : JobSt) (sts : List StationE) (sks : List StrandE) (p : Nat) : Option Nat :=
  if planUses sts sks p s.stationDown then some 0x800C
  else if s.planUnbound sts sks p then some 0x800B
  else if jb.stale.contains p then some 0x800D
  else none

/-- The state checks of a WORK item; the strands that its host tiles enter are needed as its plan's are (R83, R236,
R250, R289). -/
def State.workState (s : State) (d : Desc) (jb : JobSt) (sts : List StationE) (sks : List StrandE) (p : Nat) (into : List Nat) : Option Nat :=
  if (s.item? (descTag d)).isSome then some 0x8008
  else if s.streamBound (descJob d) && planUses sts sks p isStepStation then some 0x800A
  else match s.planState jb sts sks p with
    | some detail => if into.any s.strandUnready ∧ detail = 0x800D then some 0x800B else some detail
    | none => if into.any s.strandUnready then some 0x800B else none

/-- The price check of a WORK item whose other checks passed, and its admission (R237, R246-R248, R255). -/
def State.priceWork (s : State) (d : Desc) (jb : JobSt) (sts : List StationE) (sks : List StrandE) (tiles : List Tile) : State :=
  let f := descF d
  let p := f 0x19 1
  let n := f 0x1A 2
  let release := f 0x10 8
  let late := fun (s : State) => s.countLate.finish (descPend d) stLate 0
  let ws := s.windows sts sks p n (tget jb.priced p {})
  if s.alm.holdover then late s
  else if s.almFull then late s.markFull
  else if f 0x08 8 < s.now ∨ s.now + 10000000000 < release then late s
  else if f 0x18 1 = 2 then
    let c := freeCslot s.alm.cslots s.alm.cslots.length (s.earliest 0 ws + spanSlots ws)
    s.finish (descPend d) stDone 0 0 (c * 1000)
  else
    match s.verdict (f 0x08 8) release ws with
    | .late => late s
    | .place t0 c wins =>
      (s.admitItem {
        tag := descTag d, job := descJob d, ring := d.ring, sqIndex := d.index, irq := (f 1 1).testBit 0
        deadline := BitVec.ofNat 64 (f 0x08 8), release := BitVec.ofNat 64 release, released := decide (release ≤ s.now)
        plan := p, batch := n, t0 := t0, cslot := c, wins := wins
        tiles := tiles.map (fun (t : Tile) => { t with work := descTag d, slot := t.slot, srcMember := 0 }) }).feedHost

/-- What a WORK descriptor does once its own fields and the device state are in order. -/
def State.judgeWork (s : State) (mem : HostMem) (d : Desc) : State :=
  let form := fun (s : State) (detail : Nat) => s.finish (descPend d) stForm detail
  let tag := fun (es : List ListEntry) (ts : List Tile) =>
    ts.zip es |>.map (fun (x : Tile × ListEntry) =>
      { x.1 with strand := x.2.strand, srcStation := ((s.strand? x.2.strand).map (fun (k : StrandSt) => k.entry.src)).getD 0 })
  match (s.job? (descJob d)).bind (fun (jb : JobSt) =>
      if jb.phase = .committed then jb.stations.bind (fun a => jb.strands.map (fun b => (jb, a, b))) else none) with
  | none =>
    match tileList mem d with
    | none => form s 0x2020
    | some es =>
      match s.listTiles mem (fun _ => true) 0 0 [] es with
      | .inl i => form s (0x6000 + i)
      | .inr _ => s.refuse d 0x8002
  | some (jb, sts, sks) =>
    let p := descF d 0x19 1
    if (planStations sts sks p).isEmpty then form s 0x2019
    else
      match tileList mem d with
      | none => form s 0x2020
      | some es =>
        match s.listTiles mem (s.hostStrandOk (descJob d) d.ring) 0 0 [] es with
        | .inl i => form s (0x6000 + i)
        | .inr ts =>
          match s.workState d jb sts sks p (es.map (·.strand)) with
          | some detail => s.refuse d detail
          | none => s.priceWork d jb sts sks (tag es ts)

/-- Bytes of intake space that a WORK descriptor's tiles need (R284). -/
def intakeNeed (mem : HostMem) (d : Desc) : Nat :=
  let sum := (((tileList mem d).getD []).map (·.bytes)).foldl (· + ·) 0
  if sum ≤ 4194304 then sum else 0

/-- The reads that hold a WORK descriptor's tiles: its tile list, then every tile it names (R268, R284). -/
def State.readTiles (s : State) (mem : HostMem) (d : Desc) : State :=
  if descF d 0x1C 1 = 0 ∨ 64 < descF d 0x1C 1 then s
  else
    ((tileList mem d).getD []).foldl (fun s e => s.put (.hostRead e.addr e.bytes))
      (s.put (.hostRead (descF d 0x20 8) (16 * descF d 0x1C 1)))

/-- WORK (R234-R237, R284, R287-R290, R299): lands once its tiles are held. -/
def execWork (ring : RingId) (mem : HostMem) (s : State) : Result :=
  .next (
    let need := match s.landing ring 0x02 with
      | .go d => if descF d 0x1C 1 ≤ 64 then intakeNeed mem d else 0
      | _ => 0
    if 16777216 < s.intakeUse + need then s.modRing ring (fun k => { k with waitIntake := true })
    else
      let s := s.modRing ring (fun k => { k with waitIntake := false })
      let s := match s.landing ring 0x02 with
        | .go d => (s.readTiles mem d).noteVerdict
        | _ => s
      s.land ring 0x02 s.workFaults (fun d s => s.judgeWork mem d))

/-! ## Release, recomputation, abort -/

/-- TIMED_RELEASE (R247): the RELEASE time of a TIMED item has come. -/
def execTimedRelease (tag : W32) (s : State) : Result :=
  .next (match s.item? tag with
    | some i =>
      if !i.released && decide (i.release.toNat ≤ s.now) then (s.modItem tag (fun i => { i with released := true })).feedHost else s
    | none => s)

/-- PLAN_RECOMPUTE (R244, R417): every affected plan of a committed job is computed with the values now in
force. -/
def execPlanRecompute (job : W16) (s : State) : Result :=
  .next (
    match s.job? job.toNat with
    | some jb =>
      match jb.phase, jb.stations, jb.strands with
      | .committed, some sts, some sks =>
        let s := s.setJob job.toNat { jb with priced := s.reprice sts sks, stale := [] }
        { s with strands := tmap s.strands (fun _ k => if k.job = job.toNat then { k with recompute := false } else k) }
      | _, _, _ => s
    | none => s)

/-- Whether an item is already ending: it has a status, or its last window has ended (R300). -/
def State.isEnding (s : State) (i : Item) : Bool := i.status.isSome || s.itemEnded i

/-- ABORT (R287, R300). -/
def execAbort (ring : RingId) (s : State) : Result :=
  .next (s.land ring 0x03 (fun _ => []) (fun d s =>
    let target := BitVec.ofNat 32 (descF d 0x08 4)
    match s.item? target with
    | none => s.refuse d 0x8009
    | some i =>
      if s.isEnding i then s.finish (descPend d) stDone 0
      else (s.endItem target stAborted 0x1002).finish (descPend d) stDone 0 1))

end Sys2Proof.Machine
end

