-- ==== Sys2Proof/Machine/Registers.lean ====
section
/-! DEFINITION. The register blocks of BAR0 (R305-R328 and the register tables of every chapter): what a read
returns, what a write does, the configuration, and the Assay with its sweeps and commands. -/

namespace Sys2Proof.Machine

/-! ## What a read returns -/

/-- What an offset holds as a BAR0 read finds it: a word, the LO word of a 64-bit value, or the HI word, whose
value is the shadow latched at that LO offset (R309). -/
inductive Reg where
  | word (v : Nat)
  | lo (v : Nat)
  | hi (lo : Nat)
  deriving DecidableEq, Repr, Inhabited

/-- A 64-bit counter at a LO offset and the word after it. -/
def pairReg (off lo v : Nat) : Reg := if off = lo then .lo v else .hi lo

def RetState.code : RetState → Nat
  | .awake => 0 | .pending => 1 | .entering => 2 | .retained => 3

def RegionState.code : RegionState → Nat
  | .off => 0 | .waiting => 1 | .ramping => 2 | .on => 3 | .retention => 4 | .lost => 5

def ProcState.code : ProcState → Nat
  | .boot => 0 | .running => 1 | .restarting => 2 | .halted => 3

def AssayState.code : AssayState → Nat
  | .opened => 0 | .committing => 1 | .armed => 2 | .fault => 3

def RefState.code : RefState → Nat
  | .locked => 0 | .holdover => 1 | .pullIn => 2

/-- A bit as a number. -/
def bit (b : Bool) : Nat := if b then 1 else 0

/-- GEN_STATE (R326). -/
def State.genState (s : State) : Nat :=
  s.gen.state.code + 16 * bit s.gen.replaceReq + 256 * bit s.gen.stopAssay + 512 * bit s.gen.stopCoolant +
    1024 * bit s.gen.stopHost + 2048 * bit s.gen.stopViral

/-- A field's window of the GEN_ block (R185). -/
def State.fieldReg (s : State) (f w : Nat) : Reg :=
  let k := s.field f
  let at_ := fun (lo : Nat) (v : W64) => pairReg w lo v.toNat
  if w < 0x20 then .word (tget k.retReq (w / 4) 0).toNat
  else if w < 0x40 then
    .word (((List.range 16).map (fun i => (tget k.ret (16 * ((w - 0x20) / 4) + i) .awake).code * 4 ^ i)).foldl (· + ·) 0)
  else match w with
    | 0x40 => .word k.fenced.toNat
    | 0x44 => .word k.memStatus.toNat
    | 0x48 => .word k.wakeCount.toNat
    | 0x4C => .word k.spdUe.toNat
    | 0x50 => .word k.slcUe.toNat
    | 0x58 => at_ 0x58 k.spdCe
    | 0x5C => at_ 0x58 k.spdCe
    | 0x60 => at_ 0x60 k.slcCe
    | 0x64 => at_ 0x60 k.slcCe
    | 0x68 => at_ 0x68 k.merges
    | 0x6C => at_ 0x68 k.merges
    | _ => .word 0

/-- A HI word's LO offset is counted from the block: it is moved by the window's own offset. -/
def Reg.shift (r : Reg) (base : Nat) : Reg :=
  match r with
  | .hi x => .hi (base + x)
  | r => r

/-- The GEN_ block (R185, R326). -/
def State.genReg (s : State) (o : Nat) : Reg :=
  if 0x10000 ≤ o ∧ o < 0x10C00 then (s.fieldReg ((o - 0x10000) / 256) (o % 256)).shift (o / 256 * 256)
  else match o with
    | 0x00 => .word (0x0D800000 + 256 * variantCode s.part.variant + s.part.stepping.toNat)
    | 0x04 => .word (bit s.gen.cl + 2 * bit s.gen.lp)
    | 0x08 => .word s.genState
    | 0x0C => .word (bit s.gen.stopHost)
    | 0x10 => .word s.gen.eventVector.toNat
    | 0x14 => .word s.gen.eventStatus.toNat
    | 0x18 => .lo s.now
    | 0x1C => .hi 0x18
    | 0x20 => .word (bit (s.heirloom.any (fun r => r.state == .permanent)) + 2 * bit (s.heirloom.any (fun r => r.state == .retired)))
    | 0x24 => .word s.gen.hallmarks.toNat
    | 0x28 => .word s.gen.resolved.toNat
    | 0x2C => .word s.gen.suspects.toNat
    | 0x30 => .lo s.part.serial.toNat
    | 0x34 => .hi 0x30
    | 0x38 => .word s.flash.minutes.toNat
    | 0x3C => .word s.gen.floorplanSeq.toNat
    | _ => .word 0

/-- Whether a clock domain is locked: a core's domains only while its region is ON, a link's while it is licensed, up or
not (R343, R344, R356). -/
def State.domainLocked (s : State) (d : Nat) : Bool :=
  tget s.clk.lock d false &&
    (if d < 240 then decide ((s.region (d / 2)).state = .on) else if 288 ≤ d ∧ d < 294 then !s.linkUnlicensed (d - 288) else true)

/-- The CLK_ block (R356). -/
def State.clkReg (s : State) (o : Nat) : Reg :=
  let k := s.clk
  if 0x10 ≤ o ∧ o < 0x38 then .word (bitmap ((List.range 32).filter (fun i => s.domainLocked (8 * (o - 0x10) + i))))
  else if 0x80 ≤ o ∧ o < 0xB0 then .word (unsignedOf 8 (s.field ((o - 0x80) / 4)).calOff)
  else match o with
    | 0x00 => .word k.cfg.toNat
    | 0x08 => .word (k.ref.code + 4 * bit k.refValid + 8 * bit k.equinoxDone + 16 * bit k.realigning)
    | 0x0C => .word k.status.toNat
    | 0x40 => .word k.refLoss.toNat
    | 0x44 => .word k.realign.toNat
    | 0x48 => .word k.denied.toNat
    | 0x4C => .word k.breaches.toNat
    | 0x50 => .word k.ctrlResend.toNat
    | 0x54 => .word k.maxSlip.toNat
    | 0x58 => .lo k.stretch.toNat
    | 0x5C => .hi 0x58
    | 0x60 => .lo k.slipHold.toNat
    | 0x64 => .hi 0x60
    | 0x68 => .lo k.holdNs.toNat
    | 0x6C => .hi 0x68
    | 0xC0 => .word k.filSel.toNat
    | 0xC4 => .lo (tget k.filBytes (2 * (k.filSel.toNat % 16) + k.filSel.toNat / 16 % 2) 0).toNat
    | 0xC8 => .hi 0xC4
    | _ => .word 0

/-- The word of a low-water record (R376). -/
def LowWater.word (l : LowWater) (top : Byte) : Nat := l.mv.toNat + 65536 * l.sensor.toNat + 16777216 * top.toNat

/-- A region's window of the PWR_ block (R376). -/
def State.regionReg (s : State) (r w : Nat) : Reg :=
  let k := s.region r
  match w with
  | 0x00 => .word (k.state.code + 16 * k.darkCause.toNat + 256 * k.lost + 4096 * bit k.capped)
  | 0x04 => .word (k.setpoint.toNat + 256 * (tget s.part.floors r 0).toNat)
  | 0x08 => .word (2 ^ phaseCount r - 1 - bitmap k.phasesOut)
  | 0x0C => .word (k.vmin.toNat + 65536 * (bitList 16 k.sensorValid.toNat).length)
  | 0x10 => .word k.sensorValid.toNat
  | 0x14 => .word (k.lw.word k.lw.setpoint)
  | 0x18 => .lo k.lw.time.toNat
  | 0x1C => .hi 0x18
  | 0x20 => .word k.temp.toNat
  | 0x24 => .word (k.proc0.toNat + 65536 * k.proc1.toNat)
  | 0x28 => .word k.current.toNat
  | 0x2C => .word k.rampCount.toNat
  | _ => .word 0

/-- The PWR_ block (R376). -/
def State.pwrReg (s : State) (o : Nat) : Reg :=
  if o < 0x18 then .word (tget s.pwr.park (o / 4) 0).toNat
  else if 0x40 ≤ o ∧ o < 0x100 then
    let l := tget s.pwr.lwField ((o - 0x40) / 16) {}
    match o % 16 with
    | 0 => .word (l.word l.region)
    | 4 => .lo l.time.toNat
    | 8 => .hi (o - 4)
    | _ => .word 0
  else if 0x1000 ≤ o ∧ o < 0x3100 then (s.regionReg ((o - 0x1000) / 64) (o % 64)).shift (o / 64 * 64)
  else match o with
    | 0x20 => .word s.pwr.status.toNat
    | 0x28 => .word s.pwr.convOk.toNat
    | 0x2C => .word (((List.range 132).map (fun r => (s.region r).lost)).foldl (· + ·) 0)
    | 0x30 => .word (s.pwr.lwDev.word s.pwr.lwDev.region)
    | 0x34 => .lo s.pwr.lwDev.time.toNat
    | 0x38 => .hi 0x34
    | _ => .word 0

/-- The THM_ block (R391). -/
def State.thmReg (s : State) (o : Nat) : Reg :=
  let k := s.thm
  let trip := fun w => bitmap ((List.range 32).filter (fun i => (s.region (32 * w + i)).tripped && decide (32 * w + i < 132)))
  let held := decide ((s.proc 13).state = .restarting) || decide ((s.proc 13).state = .halted)
  if 0x08 ≤ o ∧ o < 0x38 then .word (tget k.capField ((o - 8) / 4) 0).toNat
  else if 0x48 ≤ o ∧ o < 0x5C then .word (trip ((o - 0x48) / 4))
  else if 0x70 ≤ o ∧ o < 0xA0 then .word (s.field ((o - 0x70) / 4)).heatCap.toNat
  else if 0xA0 ≤ o ∧ o < 0xD0 then
    let f := (o - 0xA0) / 4
    let b := ((List.range 10).map (fun i => (s.region (10 * f + i)).bubble.toNat)).foldl Nat.max 0
    .word (b + 256 * (tget k.fieldTemp f 0).toNat + 65536 * (tget k.fieldEst f 0).toNat)
  else if 0x100 ≤ o ∧ o < 0x2E0 then .word (tget k.capRegion ((o - 0x100) / 4) 0).toNat
  else if 0x300 ≤ o ∧ o < 0x510 then
    let i := (o - 0x300) / 4
    let r := s.region i
    let l := s.loupe (i - 120)
    let b := if i < 120 then r.bubble.toNat + 64 * bit r.floor else l.applied + 64 * bit (l.capped && decide (l.loop < 26))
    .word (b + 256 * s.trimOf i + 65536 * r.est.toNat)
  else match o with
    | 0x00 => .word k.cfg.toNat
    | 0x04 => .word k.capDev.toNat
    | 0x40 => .word k.status.toNat
    | 0x44 => .word (bit k.coolantOk + 2 * bit k.coolantStop + 4 * bit (k.cfg.getLsbD 0) + 8 * bit held)
    | 0x5C => .word k.memHbm.toNat
    | 0x60 => .word (k.memLp.toNat % 2 ^ 32)
    | 0x64 => .word (k.memLp.toNat / 2 ^ 32)
    | 0x68 => .word k.capDevEff.toNat
    | 0x6C => .word k.estDev.toNat
    | 0xD0 => .word k.trips.toNat
    | 0xD4 => .word k.memTrips.toNat
    | 0xD8 => .word k.halts.toNat
    | 0xDC => .word k.excess.toNat
    | 0xE0 => .lo k.bubbles.toNat
    | 0xE4 => .hi 0xE0
    | _ => .word 0

/-- The ASY_ block (R325). -/
def State.asyReg (s : State) (o : Nat) : Reg :=
  let k := s.asy
  if 0x40 ≤ o ∧ o < 0x78 then .word (tget k.blockCrc ((o - 0x40) / 4) 0).toNat
  else if 0x80 ≤ o ∧ o < 0xB8 then .word (tget k.snapCrc ((o - 0x80) / 4) 0).toNat
  else match o with
    | 0x04 => .word k.ref.toNat
    | 0x08 => .word k.crc.toNat
    | 0x0C => .word k.state.code
    | 0x10 => .word k.status.toNat
    | 0x14 => .word k.faultCrc.toNat
    | 0x18 => .word k.faultBlocks.toNat
    | 0x1C => .lo k.faultTime.toNat
    | 0x20 => .hi 0x1C
    | 0x24 => .word k.words.toNat
    | 0xB8 => .word k.faultCount.toNat
    | _ => .word 0

/-- The ALM_ block (R260). -/
def State.almReg (s : State) (o : Nat) : Reg :=
  let k := s.alm
  if 0x04 ≤ o ∧ o < 0x34 then .word (tget k.betaField ((o - 4) / 4) 0).toNat
  else match o with
    | 0x00 => .word k.betaDev.toNat
    | 0x40 => .word k.status.toNat
    | 0x44 => .word (bit s.admitting + 2 * bit k.holdover + 4 * bit k.capPending)
    | 0x48 => .word k.items.length
    | 0x4C => .word k.verdictMax.toNat
    | 0x50 => .lo k.admitCount.toNat
    | 0x54 => .hi 0x50
    | 0x58 => .word k.lateCount.toNat
    | 0x5C => .word k.overrunCount.toNat
    | 0x60 => .word k.hostAbortCount.toNat
    | _ => .word 0

/-- The LKT_ block (R216). -/
def State.lktReg (s : State) (o : Nat) : Reg :=
  let k := s.lkt
  if 0x40 ≤ o ∧ o < 0x70 then .word (s.pool ((o - 0x40) / 4) false).length
  else if 0x70 ≤ o ∧ o < 0xA0 then .word (s.pool ((o - 0x70) / 4) true).length
  else match o with
    | 0x00 => .word k.cfg.toNat
    | 0x04 => .word k.demoteAge.toNat
    | 0x08 => .word k.hbmLow.toNat
    | 0x0C => .word k.hbmHigh.toNat
    | 0x10 => .word k.lend.toNat
    | 0x14 => .word k.status.toNat
    | 0x18 => .word (k.entries.filter (fun e => e.2.state != .free)).length
    | 0x1C => .word s.promotionQueue.length
    | 0x20 => .lo k.promoteCount.toNat
    | 0x24 => .hi 0x20
    | 0x28 => .lo k.demoteCount.toNat
    | 0x2C => .hi 0x28
    | 0x30 => .word k.poisonCount.toNat
    | 0x34 => .word k.unmappedCount.toNat
    | _ => .word 0

/-- The FST_ block (R217). -/
def State.fstReg (s : State) (o : Nat) : Reg :=
  let k := s.fst
  let busy := (k.slots.filter (fun e => e.2.state == .running || e.2.state == .closing)).length
  let used := (k.slots.filter (fun e => e.2.state != .free)).length
  match o with
  | 0x00 => .word k.cfg.toNat
  | 0x04 => .word k.status.toNat
  | 0x08 => .word (used + 65536 * busy)
  | 0x0C => .word (bitmap (k.streams.map (·.1)))
  | 0x10 => .lo k.stepCount.toNat
  | 0x14 => .hi 0x10
  | 0x18 => .word k.stepFaults.toNat
  | 0x1C => .word k.stepRefused.toNat
  | _ => .word 0

/-- The LOU_ block; without the LP licence every register reads 0 (R233). -/
def State.louReg (s : State) (o : Nat) : Reg :=
  let k := s.loupe (o / 256)
  if s.gen.lp = false ∨ 0xC00 ≤ o then .word 0
  else match o % 256 with
    | 0x00 => .word (bit k.powered + 2 * bit k.station.isSome + 4 * bit k.workTag.isSome)
    | 0x04 => .word ((k.workTag.map (·.toNat)).getD 0)
    | 0x08 => .word k.status.toNat
    | 0x0C => .word k.workCount.toNat
    | 0x10 => .word k.nanCount.toNat
    | 0x14 => .word k.strayCount.toNat
    | 0x18 => .word k.ceCount.toNat
    | 0x1C => .word k.ueCount.toNat
    | 0x20 => .lo k.candCount.toNat
    | 0x24 => .hi (o - 4)
    | _ => .word 0

/-- The CXL_ block (R304). -/
def State.cxlReg (s : State) (o : Nat) : Reg :=
  let k := s.cxl
  match o with
  | 0x00 => .word k.hdmTarget.toNat
  | 0x04 => .word k.status.toNat
  | 0x08 => .word (k.width.toNat + 256 * k.speed.toNat + 1024 * bit s.sec.ideIo + 2048 * bit s.sec.ideCm)
  | 0x10 => .lo k.descCount.toNat
  | 0x14 => .hi 0x10
  | 0x18 => .lo k.winRd.toNat
  | 0x1C => .hi 0x18
  | 0x20 => .lo k.winWr.toNat
  | 0x24 => .hi 0x20
  | 0x28 => .word k.winPoison.toNat
  | 0x2C => .word s.intakeUse
  | 0x30 => .word ((s.rng.rings.map (fun e => e.2.held.length)).foldl (· + ·) 0)
  | 0x34 => .word k.haltCount.toNat
  | _ => .word 0

/-- Coordinates as CLS_PLACE_COORD lays them out, with VALID (R424). -/
def coordWord (c : Option Coord) : Nat :=
  match c with
  | some c => c.x + 256 * c.y + 65536 * c.z + 2 ^ 31
  | none => 0

/-- A link's window of the CLS_ block (R424). -/
def State.linkReg (s : State) (l w : Nat) : Reg :=
  let k := s.link l
  match w with
  | 0x00 => .word (k.state.code + 16 * k.offCause.toNat + 256 * min 4 k.pairsOut.length + 65536 * k.lanes.length)
  | 0x04 => .word (bitmap k.lanes)
  | 0x08 => .lo (match k.nbr with | some n => n.serial.toNat | none => 0)
  | 0x0C => .hi 0x08
  | 0x10 => .word (match k.nbr with | some n => n.straps.toNat + 256 * (n.link % 8) + 65536 + 131072 * bit n.cl | none => 0)
  | 0x14 => .word ((if k.lanes.isEmpty then 0 else (s.strandCap l).floor) + 65536 * reserved k.outCh)
  | 0x18 => .word (k.outCh.length + 65536 * k.inCh.length)
  | 0x1C => .word k.delay.toNat
  | 0x20 => .word k.episodes.toNat
  | 0x24 => .word k.downs.toNat
  | 0x28 => .lo k.crcFail.toNat
  | 0x2C => .hi 0x28
  | 0x30 => .lo k.txPayload.toNat
  | 0x34 => .hi 0x30
  | 0x38 => .word k.laneFaults.toNat
  | _ => .word 0

/-- The CLS_ block (R424). -/
def State.clsReg (s : State) (o : Nat) : Reg :=
  let k := s.cls
  if 0x100 ≤ o ∧ o < 0x280 then (s.linkReg ((o - 0x100) / 64) (o % 64)).shift (o / 64 * 64)
  else if 0x20 ≤ o ∧ o < 0x30 then .word (coordWord (s.trayCoord ((o - 0x20) / 4)))
  else match o with
    | 0x00 => .word k.cfg.toNat
    | 0x04 => .word k.linkEn.toNat
    | 0x08 => .word k.status.toNat
    | 0x10 => .word (coordWord (k.place.map (·.coord)))
    | 0x14 => .word (match k.place with
        | some p => p.extent.x + 256 * p.extent.y + 65536 * p.extent.z + 2 ^ 24 * bit p.wrapX + 2 ^ 25 * bit p.wrapY + 2 ^ 26 * bit p.wrapZ
        | none => 0)
    | 0x18 => .word k.epoch.toNat
    | 0x1C => .word (bit k.pendingPlace.isSome + 2 * (((k.place.bind (fun (p : Placement) => p.timeParent))).getD 7))
    | 0x30 => .word s.gen.straps.toNat
    | 0x34 => .word k.lendEpoch.toNat
    | 0x38 => .word k.bindFails.toNat
    | 0x3C => .word k.resyncs.toNat
    | _ => .word 0

/-- Crashes of a processor within the last 60 operating minutes (R428). -/
def State.crashesHour (s : State) (p : Nat) : List (BitVec 32) :=
  (s.proc p).recent.filter (fun m => decide (s.flash.minutes.toNat ≤ m.toNat + 60))

/-- The Keepsake slot that FW_KS_SEL selects, 2 x PROC + SLOT; PROC 14 and 15 select no record (R445). -/
def State.keepSel (s : State) : Nat := 2 * (s.mgmt.ksSel.toNat % 16) + s.mgmt.ksSel.toNat / 16 % 2

/-- The selected Keepsake record; empty when there is none. -/
def State.keepRec (s : State) : List Byte := if s.keepSel < 28 then tget s.flash.keepsake s.keepSel [] else []

/-- Image number t in flash: MASTER, FIELD, POWER (R438). -/
def State.image (s : State) (t : Nat) : List Byte := tget s.flash.images t []

/-- VERSION of a component, from its signature block (R471). -/
def imageVersion (img : List Byte) : Nat := fld img 4 4

/-- The FW_ block (R445). -/
def State.fwReg (s : State) (o : Nat) : Reg :=
  let k := s.mgmt
  if o < 0x38 then
    let p := o / 4
    .word ((s.proc p).state.code + 16 * min 4 (s.crashesHour p).length + 65536 * (s.proc p).crashes.toNat)
  else if 0x1000 ≤ o ∧ o < 0x2000 then .word (fld s.keepRec (4096 * (k.ksSel.toNat / 32 % 64) + (o - 0x1000)) 4)
  else match o with
    | 0x40 => .word (imageVersion (s.image 0))
    | 0x44 => .word (imageVersion (s.image 1))
    | 0x48 => .word (imageVersion (s.image 2))
    | 0x50 => .word k.status.toNat
    | 0x54 => .word (k.i3cAddr.toNat + 256 * k.eidI3c.toNat + 65536 * k.eidEth.toNat +
        2 ^ 24 * bit k.sgmiiUp + 2 ^ 25 * bit k.ipv4.isSome + 2 ^ 26 * bit k.sink.isSome)
    | 0x58 => .word ((k.ipv4.map (·.toNat)).getD 0)
    | 0x5C => .word k.lostCount.toNat
    | 0x60 => .lo k.sentCount.toNat
    | 0x64 => .hi 0x60
    | 0x68 => .word k.ksDropped.toNat
    | 0x70 => .word k.ksSel.toNat
    | 0x74 => .word (bit (!s.keepRec.isEmpty) + 256 * (tget k.ksGen s.keepSel 0).toNat + 65536 * fld s.keepRec 2 1)
    | _ => .word 0

/-- The SEC_ block (R482). -/
def State.secReg (s : State) (o : Nat) : Reg :=
  let k := s.sec
  match o with
  | 0x00 => .word (1 + 2 * bit k.session.isSome + 256 * k.slotsValid.toNat)
  | 0x04 => .word k.status.toNat
  | 0x08 => .word (tget s.flash.svn 0 0 + 256 * tget s.flash.svn 1 0 + 65536 * tget s.flash.svn 2 0)
  | 0x0C => .lo (leNat ((sha384 (publicKey (scalar s.part.identity))).take 8))
  | 0x10 => .hi 0x0C
  | 0x14 => .word s.part.romVersion.toNat
  | 0x18 => .word k.licRefused.toNat
  | 0x1C => .word k.sessions.toNat
  | _ => .word 0

/-- A register of a ring's window (R327). -/
def RingSt.reg (k : RingSt) (w : Nat) : Nat :=
  match w with
  | 0x00 => k.sqBase.toNat % 2 ^ 32
  | 0x04 => k.sqBase.toNat / 2 ^ 32
  | 0x08 => k.cqBase.toNat % 2 ^ 32
  | 0x0C => k.cqBase.toNat / 2 ^ 32
  | 0x10 => k.tileBase.toNat % 2 ^ 32
  | 0x14 => k.tileBase.toNat / 2 ^ 32
  | 0x18 => k.sizes.toNat
  | 0x1C => k.irqReg.toNat
  | 0x20 => k.units.toNat
  | 0x28 => k.flags.toNat + 4096 * k.state.code
  | 0x2C => k.sqHead.toNat + 65536 * k.cqTail.toNat
  | 0x30 => k.tileTail.toNat + 65536 * k.outstanding
  | 0x34 => k.cfgFault.toNat
  | _ => 0

/-- The RNG_ block (R327, R328). -/
def State.rngReg (s : State) (o : Nat) : Reg :=
  if o < 0x80000 then .word ((s.ring (o / 64)).reg (o % 64))
  else if o < 0x80400 then
    .word (bitmap ((List.range 32).filter (fun i => (s.ring (8 * (o - 0x80000) + i)).state == .halted)))
  else if o = 0x80400 then .word (s.rng.rings.filter (fun e => e.2.state == .on || e.2.state == .stopping)).length
  else .word 0

/-- The MSI-X table and the pending bit array (R266, R297). -/
def State.msixReg (s : State) (o : Nat) : Reg :=
  if o < 0x8000 then .word (tget s.rng.msix (o / 4) (if o % 16 = 12 then 1 else 0)).toNat
  else if 0x10000 ≤ o ∧ o < 0x10100 then
    .word (bitmap ((List.range 32).filter (fun i => tget s.rng.pba (8 * (o - 0x10000) + i) false)))
  else .word 0

/-- Base and size of each block, in the order of its bit in the ASY_ bitmaps (R314). -/
def blockBases : List (Nat × Nat) :=
  [(0x00000, 0x20000), (0x20000, 0x10000), (0x30000, 0x10000), (0x40000, 0x10000), (0x50000, 0x10000), (0x60000, 0x10000),
   (0x70000, 0x10000), (0x80000, 0x10000), (0x90000, 0x10000), (0xA0000, 0x10000), (0xB0000, 0x10000), (0xC0000, 0x10000),
   (0xD0000, 0x10000), (0x100000, 0x90000)]

/-- The block an offset lies in. -/
def blockOf (off : Nat) : Option Nat := blockBases.findIdx? (fun b => decide (b.1 ≤ off) && decide (off < b.1 + b.2))

/-- Base of a block. -/
def blockBase (b : Nat) : Nat := ((blockBases[b]?).map (·.1)).getD 0

/-- What an aligned BAR0 offset holds; in RECOVERY only the GEN_ registers read as they are (R440). -/
def State.reg (s : State) (off : Nat) : Reg :=
  if s.gen.state = .recovery ∧ 0x20000 ≤ off then .word 0
  else match blockOf off with
    | some b =>
      let o := off - blockBase b
      let r := match b with
        | 0 => s.genReg o | 1 => s.clkReg o | 2 => s.pwrReg o | 3 => s.thmReg o | 4 => s.asyReg o | 5 => s.almReg o
        | 6 => s.lktReg o | 7 => s.fstReg o | 8 => s.louReg o | 9 => s.cxlReg o | 10 => s.clsReg o | 11 => s.fwReg o
        | 12 => s.secReg o | _ => s.rngReg o
      r.shift (blockBase b)
    | none => if 0xFE0000 ≤ off then s.msixReg (off - 0xFE0000) else .word 0

/-- The shadows of a port. -/
def State.shadows (s : State) : Port → Tab W32
  | .host => s.regsShadow.host
  | .firmware => s.regsShadow.fw

/-- Latches a LO read's upper word into the pair's shadow for the port (R309). -/
def State.latch (s : State) (p : Port) (off v : Nat) : State :=
  let h := BitVec.ofNat 32 (v / 2 ^ 32)
  match p with
  | .host => { s with regsShadow.host := tput s.regsShadow.host off h }
  | .firmware => { s with regsShadow.fw := tput s.regsShadow.fw off h }

/-- Whether a port reaches the registers (R264, R308, R313): the host over the link, the processors on their own port. -/
def State.portOpen (s : State) : Port → Bool
  | .host => s.reachable
  | .firmware => decide (s.gen.state ≠ .reset) && !s.cxl.d3

/-- The read of a BAR0 word (R305, R309, R312): a LO word latches its pair's shadow and a HI word returns it. An access
of another size or alignment reads 0 and latches nothing (R266). The CXL component registers hold what the standard
defines: their contents are free. -/
def State.regRead (s : State) (p : Port) (o size : Nat) : State :=
  if size ≠ 4 ∨ o % 4 ≠ 0 then s.put (.regRead p o 0)
  else if 0xF00000 ≤ o ∧ o < 0xF10000 ∧ s.gen.state ≠ .recovery then s.put (.regRead p o (Config.cxlComponent s.cxl.compRev o))
  else
    match s.reg o with
    | .word v => s.put (.regRead p o (BitVec.ofNat 32 v))
    | .lo v => (s.latch p o v).put (.regRead p o (BitVec.ofNat 32 v))
    | .hi lo => s.put (.regRead p o (tget (s.shadows p) lo 0))

/-- The function's identity (R265). -/
def State.identity (s : State) : Identity :=
  { vendorId := Config.vendorId
    subsystemId := match s.part.variant with | .uz60 => 0x0060 | .uz48 => 0x0048 | .uz36 => 0x0036 }

/-- RLL_READ (R261, R264-R266, R280, R297, R305, R309, R312, R313): a read of BAR0 or of the registers by a processor; and, by the
host alone, a read of a doorbell or of configuration space, which D3hot leaves open. -/
def execRllRead (port : Port) (space : BarSpace) (offset : Fin 16777216) (size : Nat) (s : State) : Result :=
  .next (
    match space, port with
    | .bar0, _ => if s.portOpen port then s.regRead port offset size else s
    | .bar2, .host => if s.reachable then s.put (.bar2Read offset size (s.bar2Value offset size)) else s
    | .identity, .host => if s.linkDown then s else s.put (.identity s.identity)
    | .msixControl, .host => if s.linkDown then s else s.put (.msixControl s.rng.msixOn s.rng.msixMask)
    | .config, .host => if s.linkDown then s else s.put (.configRead offset size (Config.configSpace s.cxl.compRev offset))
    | _, .firmware => s)

/-! ## The configuration (R315) -/

/-- The configuration registers in canonical order, each with the bits it implements (R315, R356, R376, R391, R424). -/
def configRegs : List (Nat × Nat) :=
  [(0x10, 0x87FF)] ++
  (List.range 12).flatMap (fun f => (List.range 8).map (fun n => (0x10000 + 256 * f + 4 * n, 0xFFFF))) ++
  [(0x20000, 0x3)] ++ (List.range 6).map (fun n => (0x30000 + 4 * n, 0xFFFF)) ++
  [(0x40000, 0x1), (0x40004, 0xFFFF)] ++ (List.range 12).map (fun f => (0x40008 + 4 * f, 0xFFFF)) ++
  (List.range 120).map (fun r => (0x40100 + 4 * r, 0xFFFF)) ++
  (List.range 13).map (fun f => (0x60000 + 4 * f, 0x3F)) ++
  [(0x70000, 0xFFF7), (0x70004, 0xFFFF), (0x70008, 0xFFFF), (0x7000C, 0xFFFF), (0x70010, 0xFFF),
   (0x80000, 0x1), (0xA0000, 0x7FFF), (0xB0000, 0xF), (0xB0004, 0x3F)]

/-- The bits a configuration register implements; none for another offset. -/
def configMask (off : Nat) : Option Nat := (configRegs.find? (fun e => e.1 == off)).map (·.2)

/-- Stores a configuration register's value. -/
def State.putConfig (s : State) (off : Nat) (v : W16) : State :=
  if off < 0x20000 then
    if off = 0x10 then { s with gen.eventVector := v }
    else s.modField ((off - 0x10000) / 256) (fun k => { k with retReq := tput k.retReq (off % 256 / 4) v })
  else if off < 0x30000 then { s with clk.cfg := v }
  else if off < 0x40000 then { s with pwr.park := tput s.pwr.park ((off - 0x30000) / 4) v }
  else if off < 0x60000 then
    if off = 0x40000 then { s with thm.cfg := v }
    else if off = 0x40004 then { s with thm.capDev := v }
    else if off < 0x40100 then { s with thm.capField := tput s.thm.capField ((off - 0x40008) / 4) v }
    else { s with thm.capRegion := tput s.thm.capRegion ((off - 0x40100) / 4) v }
  else if off < 0x70000 then
    if off = 0x60000 then { s with alm.betaDev := v } else { s with alm.betaField := tput s.alm.betaField ((off - 0x60004) / 4) v }
  else match off with
    | 0x70000 => { s with lkt.cfg := v }
    | 0x70004 => { s with lkt.demoteAge := v }
    | 0x70008 => { s with lkt.hbmLow := v }
    | 0x7000C => { s with lkt.hbmHigh := v }
    | 0x70010 => { s with lkt.lend := v }
    | 0x80000 => { s with fst.cfg := v }
    | 0xA0000 => { s with cxl.hdmTarget := v }
    | 0xB0000 => { s with cls.cfg := v }
    | 0xB0004 => { s with cls.linkEn := v }
    | _ => s

/-- The value of a register that is not a HI word. -/
def State.regValue (s : State) (off : Nat) : Nat :=
  match s.reg off with
  | .word v => v
  | .lo v => v % 2 ^ 32
  | .hi _ => 0

/-- Whether any job is COMMITTED. -/
def State.anyCommitted (s : State) : Bool := s.jobs.any (fun e => e.2.phase == .committed)

/-- Whether the Locket uses LPDDR5X frames of a field: mapped, or the target of a copy. They are frames of the field's pool
that are not free; "holds frames" is read to take them in, since a lent field's LPDDR5X takes no part in the pools
(DEDUCED, log 130; R190, R202, R216). -/
def State.lpInUse (s : State) (f : Nat) : Bool :=
  s.lkt.entries.any (fun e => e.2.state != .free && !e.2.isPeer && e.2.field == f && e.2.inLp) ||
  s.lkt.copies.any (fun c => c.1 == f && !c.2.up)

/-- Whether a block refuses the write of a configuration register, from its old value to its new one, the
write's MASK being `m` (R199, R216, R217, R260, R304, R355, R379, R385, R424). -/
def State.configRefused (s : State) (off m old new : Nat) : Bool :=
  let busy := s.anyCommitted
  let lost := bitList 12 old |>.filter (fun f => !new.testBit f)
  let lent := bitList 12 new |>.filter (fun f => !old.testBit f)
  let cap := moduleCap s.part.variant
  if off = 0x20000 then busy && m.testBit 1
  else if off = 0x40000 then busy && m.testBit 0
  else if off = 0x40004 then decide (new < cap / 2) || decide (cap < new)
  else if 0x60000 ≤ off ∧ off < 0x60034 then busy || decide (32 < new)
  else if off = 0x70000 then
    busy || (decide (old % 4 ≠ new % 4) && (s.lkt.entries.any (fun e => e.2.state != .free) ||
      s.lkt.hbmPool.any (fun p => !p.2.isEmpty) || s.lkt.lpPool.any (fun p => !p.2.isEmpty)))
  else if 0x70000 < off ∧ off < 0x70010 then busy
  else if off = 0x70010 then
    busy || lent.any (fun f => !(s.pool f true).isEmpty || s.lpInUse f) || lost.any (fun f => s.lkt.peerMaps.any (fun e => e.1 == f))
  else if off = 0x80000 then !s.fst.streams.isEmpty
  else if off = 0xA0000 then s.cxl.hdm.isSome
  else if off = 0xB0000 then decide (8 < new) || busy || s.lkt.entries.any (fun e => e.2.state == .peer)
  else if off = 0xB0004 then
    (List.range 6).any (fun l => old.testBit l && !new.testBit l && !((s.link l).outCh ++ (s.link l).inCh).isEmpty)
  else false

/-- Sets CFG_REFUSED in the status register of the block of a configuration register (R313). -/
def State.flagRefused (s : State) (off : Nat) : State :=
  match blockOf off with
  | some 1 => { s with clk.status := setFlag s.clk.status 0 }
  | some 3 => { s with thm.status := setFlag s.thm.status 0 }
  | some 5 => { s with alm.status := setFlag s.alm.status 0 }
  | some 6 => { s with lkt.status := setFlag s.lkt.status 0 }
  | some 7 => { s with fst.status := setFlag s.fst.status 3 }
  | some 9 => { s with cxl.status := setFlag s.cxl.status 0 }
  | some 10 => { s with cls.status := setFlag s.cls.status 0 }
  | _ => s

/-- What a change of a retention request does to the 16 banks of the register (R174, R177). -/
def State.requestBanks (s : State) (f n : Nat) : State :=
  (s.modField f (fun k => (List.range 16).foldl (fun (k : FieldSt) i =>
    let b := 16 * n + i
    match tget k.ret b .awake, k.retBit b with
    | .awake, true => { k with ret := tput k.ret b .pending }
    | .pending, false => { k with ret := tdel k.ret b }
    | .retained, false => { k with ret := tdel k.ret b }
    | _, _ => k) k)).markStale

/-- What a change of a park register does to the core regions of its 16 logical cores (R371, R372). -/
def State.applyPark (s : State) (n : Nat) : State :=
  (List.range 16).foldl (fun (s : State) i =>
    match s.phys (16 * n + i) with
    | some c =>
      if s.parkBit (16 * n + i) then s.lookPark c
      else if (s.region c).state = .retention ∧ (s.region c).darkCause = 1 then s.powerUp c else s.lookPark c
    | none => s) s

/-- What a change of CLS_LINK_EN does to a link (R400, R424). -/
def State.applyLinkEn (s : State) (l : Nat) (was : Bool) : State :=
  let on := s.cls.linkEn.getLsbD l
  if on = was then s
  else if on then
    let c := s.linkOffCause l
    (if c = 0 then s.beginTraining l else s.modLink l (fun k => { k with state := .off, offCause := BitVec.ofNat 3 c })).linkChanged
  else if (s.link l).state = .off then s.modLink l (fun k => { k with offCause := BitVec.ofNat 3 (s.linkOffCause l) })
  else s.linkGone l .off 2

/-- What a configuration register's new value brings about at once. -/
def State.applyConfig (s : State) (off old : Nat) : State :=
  if 0x10000 ≤ off ∧ off < 0x20000 then s.requestBanks ((off - 0x10000) / 256) (off % 256 / 4)
  else if off = 0x20000 then (if s.clk.cfg.getLsbD 1 then s else { s with cls.timeErr := 0 }).checkTime
  else if 0x30000 ≤ off ∧ off < 0x40000 then s.applyPark ((off - 0x30000) / 4)
  else if off = 0x40000 then (List.range 12).foldl (fun (s : State) f => s.rebubbleField f) s
  else if off = 0x40004 then s.settleCap .dev
  else if h : 0x40008 ≤ off ∧ off < 0x40038 then s.settleCap (.field ⟨(off - 0x40008) / 4, by omega⟩)
  else if h : 0x40100 ≤ off ∧ off < 0x402E0 then s.settleCap (.region ⟨(off - 0x40100) / 4, by omega⟩)
  else if off = 0xB0004 then (List.range 6).foldl (fun (s : State) l => s.applyLinkEn l (old.testBit l)) s
  else s

/-- Bits [15:0] of a masked register after a write, for the RWM bits it implements (R306). -/
def rwm (old impl : Nat) (v : W32) : Nat :=
  let m := v.toNat / 65536 &&& impl
  (old &&& (65535 - m)) ||| (v.toNat % 65536 &&& m)

/-- A write to a configuration register: only while the Assay is OPEN and the device READY or STOPPED, and not
refused by its block (R306, R316). -/
def State.writeConfig (s : State) (off impl : Nat) (v : W32) : State :=
  if v.toNat < 65536 then s
  else if s.asy.state ≠ .opened ∨ (s.gen.state ≠ .ready ∧ s.gen.state ≠ .stopped) then
    { s with asy.status := setFlag s.asy.status 1 }
  else
    let old := s.regValue off
    let new := rwm old impl v
    if s.configRefused off (v.toNat / 65536) old new then s.flagRefused off
    else (s.putConfig off (BitVec.ofNat 16 new)).applyConfig off old

/-! ## The Assay (R317-R324) -/

/-- The part of the canonical stream that some registers add, with the values read of them: offset, then value (R317). -/
def streamOf (rs : List ((Nat × Nat) × Nat)) : List Byte := rs.flatMap (fun x => le 4 x.1.1 ++ le 4 x.2)

/-- The configuration registers with the values that a sweep has read (R319). -/
def AsySt.sampled (a : AsySt) : List ((Nat × Nat) × Nat) := configRegs.zip a.seen

/-- The Assay CRC of the values read (R317). -/
def AsySt.sweepCrc (a : AsySt) : W32 := crc32c (streamOf a.sampled)

/-- The block CRCs; 0 for a block without configuration (R324). -/
def AsySt.sweepBlocks (a : AsySt) : Tab W32 :=
  (List.range 14).map (fun b =>
    let rs := a.sampled.filter (fun x => blockOf x.1.1 == some b)
    (b, if rs.isEmpty then 0 else crc32c (streamOf rs)))

/-- The sweep in progress reads on, up to register n in canonical order, each from its storage as it stands now (R319). -/
def State.sweepTo (s : State) (n : Nat) : State :=
  { s with asy.seen := s.asy.seen ++ ((configRegs.take n).drop s.asy.seen.length).map (fun e => s.regValue e.1) }

/-- The OPEN command (R320, R321). -/
def State.asyOpen (s : State) : State :=
  match s.asy.state with
  | .opened => s
  | .committing => { s with asy.state := .opened }
  | _ => ({ s with asy.state := .opened, gen.stopAssay := true } : State).refresh

/-- The COMMIT command (R319, R320): the sweep in progress does not judge it. -/
def State.asyCommit (s : State) : State :=
  match s.asy.state with
  | .opened => { s with asy.state := .committing, asy.waitSweep := true }
  | .committing => s
  | _ => { s with asy.status := setFlag s.asy.status 2 }

/-- A write to ASY_CTRL: commands only while READY or STOPPED, and not both at once (R320). -/
def State.asyCommand (s : State) (open_ commit : Bool) : State :=
  if !open_ && !commit then s
  else if (open_ && commit) || (decide (s.gen.state ≠ .ready) && decide (s.gen.state ≠ .stopped)) then
    { s with asy.status := setFlag s.asy.status 2 }
  else if open_ then s.asyOpen else s.asyCommit

/-- A write to ASY_REF (R320). -/
def State.asyRefWrite (s : State) (v : W32) : State :=
  if s.asy.state = .opened then { s with asy.ref := v } else { s with asy.status := setFlag s.asy.status 1 }

/-- ARMED: the first sweep after a COMMIT agrees (R320, R321). -/
def State.arm (s : State) : State :=
  ({ s with asy.state := .armed, asy.snapCrc := s.asy.blockCrc, asy.status := setFlag s.asy.status 3
            asy.lastRef := s.asy.ref, gen.stopAssay := false } : State).refresh

/-- FAULT: a sweep differs while ARMED (R320, R321, R323, R324, R436). -/
def State.assayFault (s : State) : State :=
  let blocks := bitmap ((List.range 14).filter (fun b => tget s.asy.blockCrc b 0 != tget s.asy.snapCrc b 0))
  let s := { s with
    asy.state := .fault, asy.status := setFlag s.asy.status 0, asy.faultCrc := s.asy.crc, asy.faultBlocks := BitVec.ofNat 32 blocks
    asy.faultTime := s.stamp, asy.faultCount := sat s.asy.faultCount, gen.stopAssay := true }
  let s := s.refresh.event 2
  s.record 0x03 0 0xFFFF (le 4 s.asy.faultCrc.toNat ++ le 4 s.asy.ref.toNat ++ le 4 blocks ++ le 8 s.asy.faultTime.toNat)

/-- A storage bit of a configuration register changes by itself. -/
def State.flip (s : State) (x : Nat × Fin 16) : State :=
  match configMask x.1 with
  | some m => if m.testBit x.2 then s.putConfig x.1 (BitVec.ofNat 16 (s.regValue x.1 ^^^ 2 ^ x.2.val)) else s
  | none => s

/-- A sweep completes: its CRCs, and what they mean to the Assay's state; the next sweep starts (R319, R320, R324). -/
def State.sweepEnd (s : State) : State :=
  let s := { s with asy.crc := s.asy.sweepCrc, asy.blockCrc := s.asy.sweepBlocks
                    asy.words := BitVec.ofNat 32 s.asy.seen.length, asy.seen := [] }
  let differs := decide (s.asy.crc ≠ s.asy.ref)
  match s.asy.state with
  | .committing =>
    if s.asy.waitSweep then { s with asy.waitSweep := false }
    else if differs then { s with asy.state := .opened, asy.status := setFlag s.asy.status 0, asy.faultCrc := s.asy.crc }
    else s.arm
  | .armed => if differs then s.assayFault else s
  | _ => s

/-- ASSAY_SWEEP (R319, R320, R324): the sweep in progress reads on and, once it has read every register, completes. -/
def execAssaySweep (upTo : Nat) (flips : List (Nat × Fin 16)) (s : State) : Result :=
  .next (
    if s.gen.state = .reset ∨ s.gen.state = .recovery then s
    else
      let s := (flips.foldl State.flip s).sweepTo upTo
      if s.asy.seen.length = configRegs.length then s.sweepEnd else s)

/-- OPEN: the write of 0x0001_0001 to ASY_CTRL. In RECOVERY, as in any state but READY and STOPPED, it only sets BAD_CMD. -/
def execAsyOpen (s : State) : Result := .next (if s.reachable then s.asyCommand true false else s)

/-- COMMIT: the write of 0x0002_0002 to ASY_CTRL. -/
def execAsyCommit (s : State) : Result := .next (if s.reachable then s.asyCommand false true else s)

/-- ASY_REF_WRITE. -/
def execAsyRefWrite (value : W32) (s : State) : Result := .next (if s.writable then s.asyRefWrite value else s)

/-- HOST_STOP as written: the stop cause follows it (R326). -/
def State.hostStop (s : State) (on : Bool) : State := ({ s with gen.stopHost := on } : State).refresh

/-- HOST_STOP (R326). -/
def execHostStop (on : Bool) (s : State) : Result := .next (if s.writable then s.hostStop on else s)

/-! ## What a write does -/

/-- Bits [15:0] of a status register after a write: the flags that the write clears (R306, R311). -/
def w1c (old : W16) (v : W32) : W16 := old &&& ~~~ (v.extractLsb' 0 16 &&& v.extractLsb' 16 16)

/-- Whether a write sets a bit that its MASK selects. -/
def commands (v : W32) (i : Nat) : Bool := v.getLsbD i && v.getLsbD (16 + i)

/-- GEN_ writes beside the configuration (R176, R185, R326). -/
def State.writeGen (s : State) (o : Nat) (v : W32) : State :=
  if o = 0x0C then (if v.getLsbD 16 then s.hostStop (v.getLsbD 0) else s)
  else if o = 0x14 then { s with gen.eventStatus := w1c s.gen.eventStatus v }
  else if 0x10000 ≤ o ∧ o < 0x10C00 ∧ o % 256 = 0x44 then
    let f := (o - 0x10000) / 256
    let s := if commands v 4 then s.clearWake f else s
    s.modField f (fun k => { k with memStatus := w1c k.memStatus v })
  else s

/-- Writes of the blocks that hold one status register and few commands. -/
def State.writeBlock (s : State) (b o : Nat) (v : W32) : State :=
  match b, o with
  | 1, 0x04 => if commands v 0 then s.relock else s
  | 1, 0x0C => { s with clk.status := w1c s.clk.status v }
  | 1, 0xC0 => { s with clk.filSel := BitVec.ofNat 16 (rwm s.clk.filSel.toNat 0x1F v) }
  | 2, 0x20 => { s with pwr.status := w1c s.pwr.status v }
  | 2, 0x24 => if commands v 0 then s.clearLow else s
  | 3, 0x40 => { s with thm.status := w1c s.thm.status v }
  | 4, 0x00 => s.asyCommand (commands v 0) (commands v 1)
  | 4, 0x04 => s.asyRefWrite v
  | 4, 0x10 => { s with asy.status := w1c s.asy.status v }
  | 5, 0x40 => { s with alm.status := w1c s.alm.status v }
  | 6, 0x14 => { s with lkt.status := w1c s.lkt.status v }
  | 7, 0x04 => { s with fst.status := w1c s.fst.status v }
  | 9, 0x04 => { s with cxl.status := w1c s.cxl.status v }
  | 10, 0x08 => if v.toNat < 65536 then s else ({ s with cls.status := w1c s.cls.status v } : State).checkTime
  | 11, 0x50 => { s with mgmt.status := w1c s.mgmt.status v }
  | 11, 0x70 => { s with mgmt.ksSel := BitVec.ofNat 16 (rwm s.mgmt.ksSel.toNat 0x7FF v) }
  | 12, 0x04 => { s with sec.status := w1c s.sec.status v }
  | _, _ => s

/-- LOU_STATUS; without the LP licence the unit's registers are all 0 (R233). -/
def State.writeLou (s : State) (o : Nat) (v : W32) : State :=
  if o < 0xC00 ∧ o % 256 = 0x08 ∧ s.gen.lp = true then s.modLoupe (o / 256) (fun k => { k with status := w1c k.status v }) else s

/-- The upper or lower word of a ring base, as the register pair holds it (R327). -/
def setBase (b : W64) (hi : Bool) (v : W32) : W64 :=
  BitVec.ofNat 64 (if hi then b.toNat % 2 ^ 32 + 2 ^ 32 * (v.toNat % 2 ^ 20) else b.toNat / 2 ^ 32 * 2 ^ 32 + v.toNat / 4096 * 4096)

/-- A parameter of a ring that is OFF (R327). -/
def RingSt.setParam (k : RingSt) (w : Nat) (v : W32) : RingSt :=
  match w with
  | 0x00 => { k with sqBase := setBase k.sqBase false v }
  | 0x04 => { k with sqBase := setBase k.sqBase true v }
  | 0x08 => { k with cqBase := setBase k.cqBase false v }
  | 0x0C => { k with cqBase := setBase k.cqBase true v }
  | 0x10 => { k with tileBase := setBase k.tileBase false v }
  | 0x14 => { k with tileBase := setBase k.tileBase true v }
  | 0x18 => { k with sizes := BitVec.ofNat 16 (rwm k.sizes.toNat 0xFFF v) }
  | 0x1C => { k with irqReg := BitVec.ofNat 16 (rwm k.irqReg.toNat 0xFFF v) }
  | 0x20 => { k with units := BitVec.ofNat 16 (rwm k.units.toNat 0x7F v) }
  | _ => k

/-- RNG_ writes (R278, R306, R327): parameters only while the ring is OFF; a command word with both bits is ignored. -/
def State.writeRing (s : State) (o : Nat) (v : W32) : State :=
  let n := o / 64
  let w := o % 64
  let k := s.ring n
  if 0x80000 ≤ o then s
  else if w < 0x24 then
    if 0x18 ≤ w ∧ v.toNat < 65536 then s
    else if k.state = .off then s.setRing n (k.setParam w v)
    else s.setRing n { k with flags := k.flags ||| 32 }
  else if w = 0x24 then
    (match commands v 0, commands v 1 with
     | true, false => s.enableRing n
     | false, true => s.disableRing n
     | _, _ => s)
  else if w = 0x28 then s.setRing n { k with flags := (w1c (k.flags.setWidth 16) v).setWidth 6 }
  else s

/-- A vector no longer masked sends the message that its pending bit stands for (R297: the MSI-X standard's). -/
def State.unpend (s : State) (x : Nat) : State :=
  if !s.masked x && tget s.rng.pba x false then ({ s with rng.pba := tdel s.rng.pba x } : State).sendMsix x else s

/-- MSI-X table writes (R266, R297). -/
def State.writeMsix (s : State) (o : Nat) (v : W32) : State :=
  if 0x8000 ≤ o then s
  else ({ s with rng.msix := tput s.rng.msix (o / 4) (if o % 16 = 12 then v &&& 1 else v) } : State).unpend (o / 16)

/-- A write of MSI-X message control: bit 15 MSI-X enable, bit 14 function mask (R297: the MSI-X standard's). -/
def State.writeMsixControl (s : State) (v : W32) : State :=
  let s := { s with rng.msixOn := v.getLsbD 15, rng.msixMask := v.getLsbD 14 }
  (s.rng.pba.map (·.1)).foldl (fun s x => s.unpend x) s

/-- A BAR0 write of a word that reaches the device (R306, R307, R314). -/
def State.regWrite (s : State) (off : Nat) (v : W32) : State :=
  match configMask off with
  | some m => s.writeConfig off m v
  | none =>
    match blockOf off with
    | some b =>
      let o := off - blockBase b
      if b = 0 then s.writeGen o v else if b = 8 then s.writeLou o v else if b = 13 then s.writeRing o v else s.writeBlock b o v
    | none =>
      if 0xFE0000 ≤ off then s.writeMsix (off - 0xFE0000) v
      else if 0xF00000 ≤ off ∧ off < 0xF10000 then s.changeStandard else s

/-- A write by a processor (R308): no configuration register is written by firmware, and its port reaches the register
blocks alone. -/
def State.fwWrite (s : State) (off : Nat) (v : W32) : State :=
  if (configMask off).isSome || (blockOf off).isNone then s else s.regWrite off v

/-- A BAR0 write of a word in RECOVERY, where writes are ignored: one to a configuration register sets LOCKED_WRITE, a command
of ASY_CTRL BAD_CMD (R316, R320, R440). -/
def State.regIgnored (s : State) (off : Nat) (v : W32) : State :=
  match configMask off with
  | some m => s.writeConfig off m v
  | none => if off = 0x50000 then s.asyCommand (commands v 0) (commands v 1) else s

/-- REGISTER_WRITE (R264, R266, R280, R297, R305, R306, R308, R313): an access that is not an aligned word is completed
without effect; so is a write of what only reads. Two writes of one cycle are two commands, the host's first. -/
def execRegisterWrite (port : Port) (space : BarSpace) (offset : Fin 16777216) (size : Nat) (value : W32) (s : State) : Result :=
  .next (
    match space, port with
    | .bar0, .host =>
      if s.reachable = false ∨ size ≠ 4 ∨ offset.val % 4 ≠ 0 then s
      else if s.gen.state = .recovery then s.regIgnored offset value else s.regWrite offset value
    | .bar0, .firmware =>
      if s.portOpen .firmware ∧ s.gen.state ≠ .recovery ∧ size = 4 ∧ offset.val % 4 = 0 then s.fwWrite offset value else s
    | .bar2, .host => if s.reachable then s.bar2Write offset size (value.setWidth 64) else s
    | .msixControl, .host => if s.linkDown then s else s.writeMsixControl value
    | .config, .host => if s.linkDown then s else s.changeStandard
    | _, _ => s)

end Sys2Proof.Machine
end

