-- ==== Sys2Proof/Machine/Bringup.lean ====
section
/-! DEFINITION. Processors as they start and crash (R425-R431), the verification of images and licences, and bring-up
(R446-R460): its ten steps with self-test, the floor-plan build, training and topology agreement, and the states it may
stay in. A bring-up runs in one step of the model unless it has to wait. -/

namespace Sys2Proof.Machine

/-! ## Processors (R425-R431) -/

/-- Which image a processor runs: MASTER, FIELD, POWER (R438). -/
def imageOf (p : Nat) : Nat := if p = 0 then 0 else if p = 13 then 2 else 1

/-- Crashes of a processor since manufacture. -/
def State.crashSeq (s : State) (p : Nat) : BitVec 32 := tget s.flash.crashSeq p 0

/-- A processor starts and loads its image from module flash (R425, R426, R439). -/
def State.runProc (s : State) (p : Nat) : State :=
  s.modProc p (fun k => { k with state := .running, image := s.image (imageOf p) })

/-- A processor that has not run yet starts; one that restarts or is halted does not. -/
def State.startProc (s : State) (p : Nat) : State := if (s.proc p).state = .boot then s.runProc p else s

/-- The Keepsake record of a crash, without SLOT and RECORD_CRC, which are set as it is written (R431). -/
def State.keepsake (s : State) (p cause : Nat) (hour : Nat) : List Byte :=
  let k := s.proc p
  padTo 0x1000 (layout 0x40 [(0, 1, 1), (1, 1, p), (2, 1, cause), (4, 4, (s.crashSeq p).toNat), (8, 8, s.now), (0x10, 4, s.flash.minutes.toNat),
    (0x14, 4, imageVersion k.image), (0x18, 8, k.inside.pc.toNat),
    (0x20, 8, if cause = 2 ∨ cause = 3 ∨ cause = 6 then k.inside.addr.toNat else 0), (0x28, 1, s.gen.state.code), (0x29, 1, hour)]) ++
  padTo 0x1000 k.inside.regs ++ padTo 0xE000 k.inside.trace ++ padTo 0x10000 k.inside.stack ++ padTo 0x20000 k.inside.ram

/-- A crash (R426-R431): the record is captured unless the buffer is held, the processor restarts or, at the fourth
crash within 60 operating minutes, halts; FW_RESTART zeroes the count and never halts. A report that the master signs
and a LICENCE that it handles are lost with it. -/
def State.crash (s : State) (p cause : Nat) (info : CrashInfo) : State :=
  if (s.proc p).state ≠ .running then s
  else
    let recent := s.crashesHour p ++ [s.flash.minutes]
    let halt := decide (cause ≠ 5) && decide (p ≠ 0) && decide (4 ≤ recent.length)
    let s := { s with flash.crashSeq := tput s.flash.crashSeq p (s.crashSeq p + 1) }
    let s := s.modProc p (fun k => { k with inside := info })
    let s := if (s.proc p).buffer.isSome then { s with mgmt.ksDropped := sat s.mgmt.ksDropped }
      else s.modProc p (fun k => { k with buffer := some (s.keepsake p cause recent.length), bufOld := false })
    let s := s.modProc p (fun k => { k with
      crashes := sat k.crashes
      recent := if cause = 5 then [] else recent
      state := if halt then .halted else .restarting })
    let s := if p = 0 then { s with sec.signing := none, sec.licensing := none } else s
    let st := setFlag s.mgmt.status 0
    let s := { s with mgmt.status := if halt then setFlag st 1 else st }
    s.record 0x0F 0 0xFFFF (le 1 p ++ le 1 cause ++ le 4 (s.crashSeq p).toNat)

/-! ## RECOVERY (R440) -/

/-- What is left of a field that loses its power: its registers. -/
def FieldSt.unpowered (k : FieldSt) : FieldSt :=
  { k with slice := [], slicePoison := [], poisonTable := [], ret := [], hmQueue := [], hmSent := false, rearmWait := none }

/-- What is left of a Loupe unit that loses its power: its registers. -/
def LoupeSt.unpowered (l : LoupeSt) : LoupeSt :=
  { status := l.status, workCount := l.workCount, nanCount := l.nanCount, strayCount := l.strayCount, ceCount := l.ceCount
    ueCount := l.ueCount, candCount := l.candCount }

/-- RECOVERY: only the F0 uncore, CXL and management domains are powered. Every job, item and strand is gone, with
the contents of cores, fields and memories; registers stay, and a processor that is halted stays so (R428). -/
def State.enterRecovery (s : State) : State :=
  let s := { s with
    cores := tmap s.cores (fun _ k => k.hollow)
    fields := tmap s.fields (fun _ k => k.unpowered)
    lou := tmap s.lou (fun _ l => l.unpowered)
    jobs := [], strands := []
    alm.items := [], alm.tails := [], alm.cslots := []
    fst.slots := [], fst.streams := [], fst.stepTiles := []
    lkt.entries := tmap s.lkt.entries (fun _ e => { e with owned := false, slot := 0 }), lkt.copies := [], lkt.demoting := []
    mem := { epoch := s.mem.epoch + 1 }
    pwr.regions := tmap s.pwr.regions (fun r k =>
      if r = 120 then k else { k with state := .off, darkCause := 0, parkSince := none, waitSince := none, subst := none, rampDone := false })
    clk.lock := [(240, true), (294, true), (295, true)], clk.equinoxDone := false
    cls.links := (List.range 6).map (fun l => (l, { (s.link l).wipe with state := .off, offCause := 5, lanes := [], outCh := [], inCh := [] }))
    cxl.hdm := none
    mgmt.procs := tmap s.mgmt.procs (fun _ (p : ProcSt) => if p.state = ProcState.halted then p else { p with state := .boot }), mgmt.bcast := none
    gen.assign := [], gen.bringStep := 0 }
  s.enter .recovery

/-! ## Step 2: images, licences, Heirloom (R155, R440, R481) -/

/-- Most bytes of a component (R438). -/
def imageLimit (t : Nat) : Nat := if t = 0 then 0x400000 else if t = 1 then 0x200000 else 0x100000

/-- Whether a component has the form of R471. -/
def imageForm (t : Nat) (bs : List Byte) : Bool :=
  let cert := fld bs 0xC 2
  let code := fld bs 8 4
  decide (4096 ≤ bs.length) && decide (fld bs 0 1 = 1) && decide (fld bs 1 1 = t + 1) && decide (fld bs 2 1 < 64) && zeros bs 3 1 &&
    decide (1 ≤ code) && decide (code + 4096 ≤ imageLimit t) && decide (1 ≤ cert) && decide (cert ≤ 2048) && zeros bs 0xE 2 &&
    zeros bs 0xA0 0x60 && zeros bs (0x100 + cert) (0xF00 - cert) && decide (bs.length = 4096 + code)

/-- Whether a component passes every check of R472. -/
def State.imageValid (s : State) (t : Nat) (bs : List Byte) : Bool :=
  imageForm t bs &&
    (match certKey s.part.rootKey 2 (cut bs 0x100 (fld bs 0xC 2)) with
    | some key => ecdsaVerify key (sha384 (bs.take 0x40)) (cut bs 0x40 96)
    | none => false) &&
    (sha384 (bs.drop 4096) == cut bs 0x10 48) && decide (tget s.flash.svn t 0 ≤ fld bs 2 1)

/-- Whether a licence file has the form of R477. -/
def licenceForm (bs : List Byte) : Bool :=
  let f := fld bs 1 1
  let cert := fld bs 2 2
  decide (fld bs 0 1 = 1) && decide (1 ≤ f) && decide (f < 4) && decide (1 ≤ cert) && decide (cert ≤ 2048) && decide (fld bs 4 4 ≠ 0) &&
    zeros bs 0x10 16 && decide (bs.length = 128 + cert)

/-- Whether the certificate, its purpose and the signature of a licence file pass (R468, R469, R477). -/
def State.licenceSigned (s : State) (bs : List Byte) : Bool :=
  match certKey s.part.rootKey 3 (bs.drop 0x80) with
  | some key => ecdsaVerify key (sha384 (bs.take 0x20 ++ bs.drop 0x80)) (cut bs 0x20 96)
  | none => false

/-- Whether a stored licence passes verification: form, serial, certificate and signature (R477, R481). -/
def State.licenceOk (s : State) (bs : List Byte) : Bool :=
  licenceForm bs && decide (fld bs 8 8 = s.part.serial.toNat) && s.licenceSigned bs

/-- Features of the valid stored licences (R479). -/
def State.licensed (s : State) : Nat := ((s.flash.licences.filter (fun e => e.2.valid)).map (fun e => e.2.features)).foldl (· ||| ·) 0

/-- Slots that hold valid licences. -/
def State.countSlots (s : State) : State :=
  { s with sec.slotsValid := BitVec.ofNat 4 (s.flash.licences.filter (fun e => e.2.valid)).length }

/-- The device master verifies the stored licences: the features in effect are fixed (R481). `bad` are the slots whose flash
does not read back. -/
def State.checkLicences (s : State) (bad : List Nat) : State :=
  let ok := fun (n : Nat) (l : Licence) => !bad.contains n && s.licenceOk l.file
  let fails := s.flash.licences.any (fun e => !ok e.1 e.2)
  let s := { s with flash.licences := tmap s.flash.licences (fun n l => { l with valid := ok n l }) }
  let s := { s with
    gen.cl := s.licensed.testBit 0, gen.lp := s.licensed.testBit 1
    sec.status := if fails then setFlag s.sec.status 1 else s.sec.status }
  s.countSlots

/-- A Heirloom record whose CRC fails: reported, and its unit PERMANENT until self-test clears it (R155). -/
def State.corruptHeir (s : State) (x : Nat × Nat) : State :=
  match s.heir? x.1 x.2 with
  | some r => (s.setHeir { r with state := .permanent, cause := 2, crcBad := true }).record 0x0D 0 0xFFFF (le 1 x.1 ++ le 4 x.2)
  | none => s

/-! ## Steps 3 to 6: power and self-test (R450, R451) -/

/-- An uncore region is ramped and its PLL locks. -/
def State.uncoreOn (s : State) (f : Nat) : State :=
  let s := s.modRegion (120 + f) (fun r => { r with state := .on, rampCount := sat r.rampCount })
  { s with clk.lock := tput s.clk.lock (240 + f) true }

/-- The record of a unit in which self-test finds a failure: PERMANENT with CAUSE 0x02, created if need be (R451). -/
def State.confirm (s : State) (kind idx : Nat) : State :=
  s.setHeir { (s.heir? kind idx).getD { kind := kind, index := idx } with state := .permanent, cause := 2 }

/-- Whether a unit is retired. -/
def State.unitRetired (s : State) (kind idx : Nat) : Bool := ((s.heir? kind idx).map (·.state)) == some .retired

/-- A failure that self-test finds in a unit: an event that it reproduces, unless the unit is retired (R451). -/
def State.selfTestFail (s : State) (kind idx : Nat) : State :=
  if s.unitRetired kind idx then s else (s.confirm kind idx).heirEvent kind idx

/-- The units in which a self-test finds failures. -/
def failedUnits (b : BringIn) : List (Nat × Nat) :=
  b.colFail.map (fun x => (1, colIndex x.1 x.2)) ++
  ((b.bankRows.filter (fun x => decide (0 < x.2.2))).map (fun x => (2, bankIndex x.1 x.2.1))) ++
  ((b.sliceRows.filter (fun x => decide (0 < x.2.2))).map (fun x => (3, sliceIndex x.1 (x.2.1 / 8))))

/-- A record that failed its CRC is cleared when its unit passes; phases, and the lanes of a link that is not licensed, are not
tested. The rules do not say what STATE and CAUSE a cleared record reads, one that had read RETIRED among them: here it is
WATCH with CAUSE 0, and its counts stay (DESIGN CHOICE, log 127; R155, R451). -/
def State.clearPassed (s : State) (failed : List (Nat × Nat)) : State :=
  s.heirloom.foldl (fun (s : State) r =>
    let tested := decide (r.kind ≠ 5) && !(r.kind == 4 && s.linkUnlicensed (r.index % 8))
    if r.crcBad && r.state == .permanent && tested && !failed.contains (r.kind, r.index) then
      s.setHeir { r with state := .watch, cause := 0, crcBad := false } else s) s

/-- Built-in self-test of a physical core: what it leaves of it; its crossings stay aligned (R450). -/
def State.testCore (s : State) (b : BringIn) (c : Nat) : State :=
  let rows := b.bankRows.filter (fun x => x.1 == c)
  s.modCore c (fun k => { k.hollow with
    aligned := k.aligned
    usable := !b.coreFail.contains c && rows.all (fun x => decide (x.2.2 ≤ 16))
    bankRows := rows.foldl (fun t x => tput t x.2.1 (min 16 x.2.2)) [] })

/-- Built-in self-test of a field's slices. -/
def State.testSlices (s : State) (b : BringIn) (f : Nat) : State :=
  let rows := b.sliceRows.filter (fun x => x.1 == f && decide (x.2.1 < 128))
  let s := s.modField f (fun k => { k with sliceRows := rows.foldl (fun t x => tput t x.2.1 (min 32 x.2.2)) [], fenced := 0 })
  (rows.filter (fun x => decide (32 < x.2.2))).foldl (fun (s : State) x => s.fence f (x.2.1 / 8)) s

/-- A licensed Loupe unit is tested and powered; one that fails stays down (R450). -/
def State.testLoupe (s : State) (bad : List Nat) (f : Nat) : State :=
  if bad.contains f then
    (s.modLoupe f (fun l => { l with powered := false }) |> fun (s : State) => { s with gen.louFail := s.gen.louFail ||| BitVec.ofNat 12 (2 ^ f) })
  else s.modLoupe f (fun l => { l with powered := true })

/-- A serializer lane that fails its test: a lane fault, which the test has reproduced (R402, R450, R451). -/
def State.testLane (s : State) (x : Nat × Nat) : State :=
  if x.1 < 6 ∧ x.2 < 32 ∧ s.linkUnlicensed x.1 = false ∧ s.unitRetired 4 (laneIndex x.1 x.2) = false then
    (s.confirm 4 (laneIndex x.1 x.2)).laneFault x.1 x.2
  else s

/-- Built-in self-test (R450, R451). -/
def State.selfTest (s : State) (b : BringIn) : State :=
  let s := (failedUnits b).foldl (fun (s : State) u => s.selfTestFail u.1 u.2) s
  let s := b.laneFail.foldl State.testLane s
  let s := s.clearPassed (failedUnits b ++ b.laneFail.map (fun x => (4, laneIndex x.1 x.2)))
  let s := (List.range 120).foldl (fun (s : State) c => s.testCore b c) s
  let s := (List.range 12).foldl (fun (s : State) f => s.testSlices b f) s
  let s := if s.gen.lp then (List.range 12).foldl (fun (s : State) f => s.testLoupe b.loupeFail f) s else s
  { s with gen.hubFail := b.hubFail, gen.filFail := BitVec.ofNat 16 (bitmap (b.filFail.filter (fun i => decide (i < 16)))) }

/-! ## Step 7: the floor-plan build (R369, R451, R452) -/

/-- The columns of a physical core that Heirloom holds as retired. -/
def outCols (h : List HRec) (c : Nat) : List Nat :=
  (h.filter (fun r => r.kind == 1 && r.state == .retired && physCore (r.index % 256) == c)).map (fun r => r.index / 256)

/-- Every PERMANENT unit is retired. -/
def State.retireAll (s : State) : State :=
  let due := s.heirloom.filter (fun r => r.state == .permanent)
  let s := due.foldl (fun (s : State) r => s.markRetired r.kind r.index) s
  let s := (List.range 120).foldl (fun (s : State) c => s.modCore c (fun k => { k with colOut := outCols s.heirloom c })) s
  let s := (List.range 132).foldl (fun (s : State) r => s.modRegion r (fun k => { k with phasesOut := heirPhases s.heirloom r })) s
  let s := (List.range 6).foldl (fun (s : State) l =>
    let out := heirPairs s.heirloom l
    s.modLink l (fun k => { k with pairsOut := out, outService := decide (4 < out.length) })) s
  if (List.range 6).any (fun l => (s.link l).outService) then s.replaceFor 3 else s

/-- The positions of a row's four logical cores: kept where still usable, the rest to the lowest usable positions
that none holds, slots ascending. -/
def rowAssign (usable : Nat → Bool) (kept : Nat → Option Nat) (row : Nat) : List (Nat × Nat) :=
  let pos := ((List.range 5).map (5 * row + ·)).filter usable
  let slots := (List.range 4).map (4 * row + ·)
  let keep := slots.filterMap (fun l => (kept l).bind (fun c => if pos.contains c then some (l, c) else none))
  let free := pos.filter (fun c => !keep.any (fun x => x.2 == c))
  keep ++ (slots.filter (fun l => !keep.any (fun x => x.1 == l))).zip free

/-- The assignment of all 24 rows; it goes to module flash. -/
def State.assignCores (s : State) : State :=
  let kept := fun l => (s.flash.assign.bind (fun t => tget? t l)).join
  let all := (List.range 24).flatMap (rowAssign s.coreUsable kept)
  let t := all.foldl (fun (t : Tab (Option Nat)) x => tput t x.1 (some x.2)) []
  let s := { s with gen.assign := t, flash.assign := some t }
  if all.length < 96 then s.replaceFor 1 else s

/-- A core region ramps and its PLLs lock. The ramps of bring-up are made one at a time from the lowest region on; nothing of
the field draws power yet but its idle regions, so that admission never waits (R347, R373, log 104). -/
def State.rampOn (s : State) (c : Nat) : State :=
  let s := s.modRegion c (fun r => { r with state := .on, darkCause := 0, rampCount := sat r.rampCount, rampStart := some s.stamp })
  { s with clk.lock := tput (tput s.clk.lock (2 * c) true) (2 * c + 1) true }

/-- A core region that no logical core uses after the build is an unused spare, and off (R31, R370). -/
def State.spareOff (s : State) (c : Nat) : State :=
  let s := (s.modRegion c (fun r => { r with state := .off, darkCause := 3 })).modCore c (fun k => { k with aligned := false })
  { s with clk.lock := tdel (tdel s.clk.lock (2 * c)) (2 * c + 1) }

/-- Core regions after the build: ON with aligned crossings where a logical core is carried, a core that the build has newly
assigned ramping now; OFF as unused spares elsewhere; regions with two lost phases capped (R31, R347, R368-R370). -/
def State.powerCores (s : State) : State :=
  let s := (List.range 120).foldl (fun (s : State) c =>
    if (s.logicalOf c).isNone then s.spareOff c
    else if (s.region c).state = .on then s
    else (s.rampOn c).modCore c (fun k => { k with aligned := true })) s
  let s := (List.range 132).foldl (fun (s : State) r => s.modRegion r (fun k => { k with capped := decide (2 ≤ k.lost) })) s
  let s := (List.range 12).foldl (fun (s : State) f =>
    (s.modLoupe f (fun l => { l with capped := (s.region (120 + f)).capped })).rebubbleField f) s
  let s := if (List.range 132).any (fun r => decide (2 ≤ (s.region r).lost)) then s.replaceFor 2 else s
  (List.range 120).foldl (fun (s : State) c => s.lookPark c) s

/-! ## Steps 8 and 9: training (R454-R456, R401) -/

/-- Temperature band at the start of an interface's training: stacks 0-23, fields' LPDDR5X 24-35, links 36-41. -/
def bandOf (b : BringIn) (i : Nat) : Nat :=
  let t := ((b.temps.find? (fun x => x.1 == i)).map (·.2)).getD 0
  if t < 40 then 0 else if t < 55 then 1 else if t < 70 then 2 else 3

/-- Trains the 36 memory interfaces; the numbers of those that fail. -/
def State.trainMemory (s : State) (b : BringIn) : State × List Nat :=
  let fast := fun (i : Nat) => s.hasSaved (bandOf b i) i (0, 0) && !b.fastFail.contains i
  let failed := (List.range 36).filter (fun i => !fast i && b.trainFail.contains i)
  let saved := (List.range 36).filter (fun i => !fast i && !b.trainFail.contains i)
  let s' := saved.foldl (fun (s : State) i => s.saveTraining (bandOf b i) i (0, 0)) s
  ({ s' with
    gen.fast := (List.range 36).all fast
    gen.hbmFail := BitVec.ofNat 24 (bitmap (failed.filter (fun i => decide (i < 24))))
    gen.lpFail := BitVec.ofNat 12 (bitmap ((failed.filter (fun i => decide (24 ≤ i))).map (· - 24))) }, failed)

/-- First training of a link; a link that may not train stays OFF with its cause. -/
def State.trainClasp (s : State) (b : BringIn) (l : Nat) : State :=
  let c := s.linkOffCause l
  if c ≠ 0 then s.modLink l (fun k => { k with state := .off, offCause := BitVec.ofNat 3 c })
  else
    let (lanes, delay, nbr) := ((b.links.find? (fun x => x.1 == l)).map (fun x => (x.2.1, x.2.2.1, x.2.2.2))).getD ([], 0, none)
    let (s, fast) := (s.beginTraining l).trainSaved l lanes delay nbr (bandOf b (36 + l)) (b.fastFail.contains (36 + l))
    ({ s with gen.fast := s.gen.fast && fast } : State).linkChanged

/-! ## Step 10: agreement (R458-R460) -/

/-- Whether a link passes its entry of the manifest. -/
def linkAgrees (k : LinkSt) (e : ManifestLink) : Bool :=
  match e.expect with
  | 0 => true
  | 1 => k.nbr.isNone
  | _ => k.serves && decide (e.minLanes ≤ k.lanes.length) &&
    (match k.nbr with
     | some n => decide (n.link = e.nbrLink) && (decide (e.serial = 0) || decide (n.serial = e.serial))
     | none => false)

/-- The failures of agreement with a manifest, as the AGREE field lists them (R459, R462). -/
def State.disagreements (s : State) (m : Manifest) : Nat :=
  let module_ := (decide (m.serial = 0) || decide (m.serial = s.part.serial)) &&
    (decide (m.variant = 0) || decide (m.variant.toNat = variantCode s.part.variant)) &&
    (!m.licences.testBit 0 || s.gen.cl) && (!m.licences.testBit 1 || s.gen.lp) && (!m.checkStraps || decide (m.straps = s.gen.straps))
  bitmap ((m.links.zipIdx.filter (fun e => !linkAgrees (s.link e.2) e.1)).map (·.2)) + if module_ then 0 else 64

/-- Judges agreement, a duty of the device master: a report either way; a pass stores the manifest and leaves AGREEMENT (R321,
R425, R458-R460). -/
def State.judge (s : State) : State :=
  if s.gen.state ≠ .agreement ∨ s.thm.coolantStop = true ∨ s.masterUp = false then s
  else
    let bad := match s.manifest with | some m => s.disagreements m | none => 0
    if bad = 0 then
      let s := ({ s with gen.agree := 0x80, flash.manifest := s.manifest } : State).publish
      let s := { s with gen.stopAssay := decide (s.asy.state ≠ AssayState.armed) }
      s.enter (if s.gen.stopped then .stopped else .ready)
    else ({ s with gen.agree := BitVec.ofNat 8 bad } : State).publish

/-! ## The sequence (R446, R448, R449) -/

/-- The monitors of a region as firmware reads them in bring-up, and the setpoint it asks for: a code above 140 is not
applied, one below the floor is applied as the floor (R362, R366). -/
def State.setMonitors (s : State) (m : Nat × Nat × Nat × Nat) : State :=
  let (r, p0, p1, code) := m
  if 132 ≤ r then s
  else s.modRegion r (fun k =>
    let k := { k with proc0 := BitVec.ofNat 16 p0, proc1 := BitVec.ofNat 16 p1 }
    if 140 < code then k
    else { k with target := BitVec.ofNat 8 code, setpoint := BitVec.ofNat 8 (Nat.max code (tget s.part.floors r 0).toNat) })

/-- The step of bring-up that comes next. -/
def State.toStep (s : State) (n : Nat) : State := { s with gen.bringStep := n }

/-- Whether all three images pass verification; of an image that has been in flash since the module shipped, whose bytes the
model does not have, bring-up finds it (R440, R472, log 63). -/
def State.imagesPass (s : State) (b : BringIn) : Bool :=
  (List.range 3).all (fun t => match tget? s.flash.images t with | some i => s.imageValid t i | none => b.imagesOk)

/-- Step 2: images, licences, Heirloom (R155, R440, R481). -/
def State.stepImages (s : State) (b : BringIn) : State :=
  if !s.imagesPass b then s.enterRecovery
  else
    let s := (s.runProc 0).checkLicences b.licenceBad
    let s := b.heirloomBad.foldl State.corruptHeir s
    s.sendRecord.toStep 3

/-- Step 3: the power sequencer starts, ramps the uncore regions of F1 to F11 and locks their PLLs; the field managers start. A
power fault whose cause persists keeps the regulators off; a power-fault record still to be sent goes out (R359, R427). -/
def State.stepUncore (s : State) (b : BringIn) : State :=
  let s := s.startProc 13
  let s := match s.mgmt.powerFault with
    | some c => ({ s with mgmt.powerFault := none } : State).powerRecord c
    | none => s
  if (s.powerCause b.planeLow).isSome then { s with pwr.faulted := true }
  else
    let s := (List.range 11).foldl (fun (s : State) i => s.uncoreOn (i + 1)) s
    ((List.range 12).foldl (fun (s : State) f => s.startProc (1 + f)) s).toStep 4

/-- The core regions that step 4 ramps, those but for unused spares: the cores that the assignment in flash names; before the
first build, which makes the first assignment, positions 0 to 3 of each row (DEDUCED, log 132; R448, R452). -/
def State.bootCores (s : State) : List Nat :=
  match s.flash.assign with
  | some t => t.filterMap (·.2)
  | none => (List.range 120).filter (fun c => decide (c % 5 < 4))

/-- Step 4: setpoints, the ramps of the core regions and all remaining PLLs (R362, R366, R373). -/
def State.stepCores (s : State) (b : BringIn) : State :=
  let s := b.monitors.foldl State.setMonitors s
  let s := s.bootCores.foldl State.rampOn s
  ({ s with clk.lock := (List.range 42).foldl (fun t i => tput t (252 + i) true) s.clk.lock } : State).toStep 5

/-- Step 5: Equinox aligns every crossing of the powered regions, and the round trips to the fields are measured (R339, R347). -/
def State.stepEquinox (s : State) (b : BringIn) : State :=
  let s := ({ s with clk.equinoxDone := true } : State).measureTrips b.trips
  ((List.range 120).foldl (fun (s : State) c =>
    if (s.region c).state = .on then s.modCore c (fun k => { k with aligned := true }) else s) s).toStep 6

/-- Step 6: a hub or Filigree link that fails leaves the device in BOOTING, with a report that says so (R449, R450). -/
def State.stepTest (s : State) (b : BringIn) : State :=
  let s := s.selfTest b
  if s.gen.hubFail || s.gen.filFail != 0 then (s.publish).toStep 0 else s.toStep 7

/-- Step 7. -/
def State.stepBuild (s : State) : State := (s.retireAll.assignCores.powerCores.publish).toStep 8

/-- Step 8: a memory interface that fails leaves the device in TRAINING (R456). -/
def State.stepMemory (s : State) (b : BringIn) : State :=
  let (s, failed) := s.trainMemory b
  if !failed.isEmpty then (s.replaceAnd 4).toStep 0 else (s.publish).toStep 9

/-- Step 9. -/
def State.stepLinks (s : State) (b : BringIn) : State := ((List.range 6).foldl (fun (s : State) l => s.trainClasp b l) s).toStep 10

/-- The field managers. -/
def managers : List Nat := (List.range 12).map (1 + ·)

/-- Whether processors run. -/
def State.procsRun (s : State) (ps : List Nat) : Bool := ps.all (fun p => decide ((s.proc p).state = .running))

/-- The processors that carry a step out, and run already when it starts (R425, R429, R448). -/
def stepProcs : Nat → List Nat
  | 3 => [0]
  | 4 => [13]
  | 6 => managers
  | 7 => [0]
  | 8 => managers
  | 9 => managers
  | 10 => [0]
  | _ => []

/-- Whether the step of bring-up that comes next may run: the processors that carry it out run, none is halted (R429), no stop
has begun; step 3 waits for COOLANT_OK and for the processors that it starts, and needs regulators that may start; step 5
waits for the reference (R355, R449). -/
def State.stepReady (s : State) : Bool :=
  let n := s.gen.bringStep
  s.procsRun (stepProcs n) && (List.range 14).all (fun p => decide ((s.proc p).state ≠ .halted)) && !s.thm.coolantStop &&
  (match n with
   | 0 => false
   | 2 => decide ((s.proc 0).state ≠ .restarting)
   | 3 => s.thm.coolantOk && !s.pwr.faulted && (13 :: managers).all (fun p => decide ((s.proc p).state ≠ .restarting))
   | 5 => decide (s.clk.ref = .locked)
   | _ => true)

/-- The device state in which a step runs (R448). -/
def State.bringState (s : State) : State :=
  match s.gen.bringStep with
  | 8 => s.enter .training
  | 9 => s.enter .training
  | 10 => s.enter .agreement
  | _ => s.enter .booting

/-- Carries out the step of bring-up that comes next. -/
def State.runStep (s : State) (b : BringIn) : State :=
  match s.gen.bringStep with
  | 2 => s.stepImages b
  | 3 => s.stepUncore b
  | 4 => s.stepCores b
  | 5 => s.stepEquinox b
  | 6 => s.stepTest b
  | 7 => s.stepBuild
  | 8 => s.stepMemory b
  | 9 => s.stepLinks b
  | 10 => (s.toStep 0).judge
  | _ => s

/-- Goes on with bring-up, at most so many steps and crashes, until it is complete or has to wait. A crash stops the step in
which it falls; the processor, restarted, repeats the step (R429). -/
def State.bringOn : Nat → State → State
  | 0, s => s
  | k + 1, s =>
    match s.gen.bringup with
    | none => s
    | some b =>
      if !s.stepReady then s
      else
        let s := s.bringState
        match b.crashes.find? (fun c => c.step == s.gen.bringStep && c.cause != 0 && c.cause != 5) with
        | some c =>
          State.bringOn k ((({ s with gen.bringup := some { b with crashes := b.crashes.erase c } } : State).startProc c.proc).crash c.proc c.cause c.info)
        | none => State.bringOn k (s.runStep b)

/-- Goes on with a bring-up that waits, as far as it can. -/
def State.resume (s : State) : State :=
  match s.gen.bringup with
  | none => s
  | some b => State.bringOn (9 + b.crashes.length) s

/-- Bring-up from image verification on (R440, R448 step 2). A manifest that came after AGREEMENT was left takes effect (R458). -/
def State.bootImages (s : State) (b : BringIn) : State :=
  let s := s.enter .booting
  ({ s with
    gen.bringup := some b, gen.bringStep := 2
    mgmt.manifest := s.mgmt.nextManifest.or s.mgmt.manifest, mgmt.nextManifest := none } : State).resume

/-- Step 1 (R261, R405, R447): F0 uncore, CXL and management domains; straps, unless they have been sampled since the last
PERST_N; the replacement record. A host that does not negotiate CXL, or a width other than 8 or 16, leaves the link down. -/
def State.bootHub (s : State) (b : BringIn) : State :=
  let s := (s.enter .booting).uncoreOn 0
  let up := b.cxlNegotiated && (decide (b.cxlWidth = 8) || decide (b.cxlWidth = 16))
  let straps := s.pins.straps.getD b.straps
  let s := { s with
    gen.straps := straps, pins.straps := some straps
    clk.lock := tput (tput s.clk.lock 294 true) 295 true, clk.refValid := true
    cxl.down := !up, cxl.width := if up then BitVec.ofNat 8 b.cxlWidth else 0, cxl.speed := if !up then 0 else if b.cxl32 then 2 else 1
    thm.coolantOk := b.coolant }
  if s.flash.replacement.isEmpty then s else ({ s with gen.replaceReq := true } : State).event 1

/-- The device leaves RESET (R446). -/
def State.leaveReset (s : State) (b : BringIn) : State := (s.bootHub b).bootImages b

/-- BRINGUP_START (R446, R448, R487, R492): the device leaves RESET once PERST_N is deasserted, the input and the plane are in
range and REFCLK is valid; else it waits in RESET, for REFCLK until REFERENCE_VALID. -/
def execBringupStart (found : BringIn) (s : State) : Result :=
  .next (
    if s.gen.state ≠ .reset then s
    else
      let s := { s with pins.refBad := s.pins.refBad || !found.refValid }
      if (s.pins.perstLow && !found.released) || !found.inRange then s
      else
        let s := { s with pins.perstLow := false }
        if s.pins.refBad then { s with gen.bringup := some found } else s.leaveReset found)

/-- REFERENCE_VALID (R353, R446, R492): relock starts at once unless MANUAL_RELOCK is set; a bring-up that waits in RESET for the
reference starts. -/
def execReferenceValid (s : State) : Result :=
  .next (
    let s := s.referenceValid
    match s.gen.state, s.gen.bringup with
    | .reset, some b => s.leaveReset b
    | _, _ => s)

/-- COOLANT_OK_ASSERT (R449): the sampled level; a bring-up that waits before step 3 goes on. -/
def execCoolantAssert (s : State) : Result :=
  .next (if s.gen.state = .reset then s else ({ s with thm.coolantOk := true } : State).resume)

/-- AGREEMENT_RECHECK (R460). -/
def execAgreementRecheck (s : State) : Result := .next s.judge

/-- PULL_IN_END (R353, R355, R449): a bring-up that waits for the reference repeats Equinox and goes on. -/
def execPullInEnd (shifts : List (CoreId × Int × Int)) (s : State) : Result :=
  .next (if s.clk.ref = .pullIn then (s.pullInEnd shifts).resume else s)

end Sys2Proof.Machine
end

