-- ==== Sys2Proof/Machine/Feast.lean ====
section
/-! DEFINITION. Feast: streams (R208), sequence slots (R209, R210), the standing reservation of SEQ_OPEN
(R251), and the assembly, price and tile of a step (R211-R213, R250). -/

namespace Sys2Proof.Machine

/-! ## Streams -/

/-- Whether a stream is bound and not being unbound. -/
def State.streamLive (s : State) (st : Nat) : Bool :=
  match tget? s.fst.streams st with | some k => k.unbinding.isNone | none => false

/-- The faults of FEAST_BIND's operands that need no table (R208, R287). -/
def bindFaults (d : Desc) : List (Nat × Bool) :=
  let f := descF d
  let outside := fun (v lo hi : Nat) => decide (v < lo) || decide (hi < v)
  [(0x08, decide (7 < f 0x08 1)), (0x09, outside (f 0x09 1) 1 8), (0x0A, decide (4095 < f 0x0A 2)),
   (0x0C, outside (f 0x0C 2) 1 2048), (0x0E, outside (f 0x0E 2) 1 (f 0x0C 2)), (0x12, decide (f 0x12 2 = 0))]

/-- Bytes of the step tile's payload for some members (R212). -/
def stepPayload (n : Nat) : Nat := (16 * n + 31) / 32 * 32

/-- FEAST_BIND (R208). The rule does not say from when STEP_WAIT counts for a stream that has assembled no step yet: it
counts from the bind (R211; DESIGN CHOICE, log 101). -/
def execFeastBind (ring : RingId) (s : State) : Result :=
  .next (s.land ring 0x30 bindFaults (fun d s =>
    let f := descF d
    let j := descJob d
    let strand := f 0x0A 2
    let good := match s.strand? strand with
      | some k => decide (k.job = j) && (s.srcKind k == some .kv)
      | none => false
    let room := match s.strand? strand with
      | some k => decide (stepPayload (f 0x0C 2) ≤ k.entry.maxKib * 1024)
      | none => false
    if ((s.job? j).map (fun (k : JobSt) => k.phase)) ≠ some .committed then s.refuse d 0x8002
    else if !good then s.finish (descPend d) stForm 0x200A
    else if !room then s.finish (descPend d) stForm 0x200C
    else if (tget? s.fst.streams (f 0x08 1)).isSome then s.refuse d 0x800A
    else
      let k : StreamSt := {
        job := j, ring := d.ring, strand := strand, stepMax := f 0x0C 2, stepMin := f 0x0E 2, stepWait := f 0x10 2
        budget := f 0x12 2, inFlightMax := f 0x09 1, lastAsm := s.stamp }
      ({ s with fst.streams := tput s.fst.streams (f 0x08 1) k } : State).finish (descPend d) stDone 0))

/-- FEAST_UNBIND (R208): completes once the steps in flight have ended. -/
def execFeastUnbind (ring : RingId) (s : State) : Result :=
  .next (s.land ring 0x31 (fun d => [(0x08, decide (7 < descF d 0x08 1))]) (fun d s =>
    if s.streamLive (descF d 0x08 1) then s.unbind (descF d 0x08 1) (some (descPend d)) else s.refuse d 0x800A))

/-- STATE of a slot record (R209). -/
def SlotState.code : SlotState → Nat
  | .free => 0 | .ready => 1 | .running => 2 | .paused => 3 | .faulted => 4 | .closing => 5

/-- A slot record's 32 bytes (R209). -/
def State.slotBytes (s : State) (n : Nat) : List Byte :=
  let k := s.slot n
  layout 32 [(0, 2, n), (2, 1, k.state.code), (3, 1, k.stream), (4, 4, k.tokens.toNat), (8, 4, k.maxTokens.toNat), (0xC, 4, k.base),
    (0x10, 4, k.pages), (0x14, 4, k.period.toNat), (0x18, 8, k.due.toNat)]

/-- FEAST_READ (R209, R215). -/
def execFeastRead (ring : RingId) (s : State) : Result :=
  .next (s.land ring 0x32 (fun d =>
      let first := descF d 0x08 4
      let n := descF d 0x0C 4
      [(0x08, decide (2048 ≤ first)), (0x0C, decide (n = 0) || decide (2048 < first + n)), (0x10, !s.hostAddrOk (descF d 0x10 8) 64 (32 * n))])
    (fun d s =>
      (s.hostPut (descF d 0x10 8) ((entryRange (descF d 0x08 4) (descF d 0x0C 4)).flatMap s.slotBytes)).finish (descPend d) stDone 0))

/-! ## Slots -/

/-- The price mix of pages that all lie in one tier of the reading field. -/
def wholeMix (lp : Bool) : KvMix := { hbm := if lp then 0 else 1, lpddr := if lp then 1 else 0 }

/-- T_ref of a stream (R251): the longest window of a plan-15 step of STEP_MAX members. -/
def State.tRef (s : State) (k : StreamSt) : Q :=
  match s.job? k.job with
  | some jb =>
    let ws := s.windows (jb.stations.getD []) (jb.strands.getD []) 15 k.stepMax (tget jb.priced 15 {})
      (some (fun _ => wholeMix (!s.fst.cfg.getLsbD 0)))
    ws.foldl (fun q w => q.max (w.e.minus w.s)) (qn 0)
  | none => qn 0

/-- Whether a slot of some period fits the stream's standing reservation (R251). -/
def State.seqFits (s : State) (st : Nat) (k : StreamSt) (period : Nat) : Bool :=
  let others := (s.fst.slots.filter (fun e => e.2.stream == st && e.2.state != .free)).map (fun e => e.2.period.toNat)
  let load := (period :: others).foldl (fun (q : Q) p => q.plus (Q.mk' 1 p)) (qn 0)
  ((s.tRef k).times load).le (qn k.stepMax)

/-- SEQ_OPEN (R209, R210, R251, R255): DUE, which VALUE states, is the time of the completion plus TOKEN_PERIOD. -/
def execSeqOpen (ring : RingId) (s : State) : Result :=
  .next (s.land ring 0x33 (fun d =>
      let f := descF d
      [(0x08, decide (2047 < f 0x08 2)), (0x0A, decide (7 < f 0x0A 1)), (0x0C, decide (2097152 ≤ f 0x0C 4)),
       (0x10, decide (f 0x10 4 = 0) || decide (2097152 < f 0x0C 4 + f 0x10 4)), (0x1C, decide (f 0x1C 4 < 1000))])
    (fun d s =>
      let f := descF d
      let n := f 0x08 2
      let ps := entryRange (f 0x0C 4) (f 0x10 4)
      let usable := fun (e : LktEntry) => e.state != .free && e.state != .poisoned && !e.owned
      if (s.slot n).state ≠ .free ∨ s.streamLive (f 0x0A 1) = false ∨ f 0x18 4 ≤ f 0x14 4 ∨ ps.all (fun p => usable (s.entry p)) = false then
        s.refuse d 0x800A
      else
        match tget? s.fst.streams (f 0x0A 1) with
        | none => s.refuse d 0x800A
        | some k =>
          if s.alm.holdover || !s.seqFits (f 0x0A 1) k (f 0x1C 4) then s.finish (descPend d) stLate 0
          else
            let due := s.stamp + BitVec.ofNat 64 (f 0x1C 4)
            let s := s.setSlot n {
              state := .ready, stream := f 0x0A 1, tokens := BitVec.ofNat 32 (f 0x14 4), maxTokens := BitVec.ofNat 32 (f 0x18 4)
              base := f 0x0C 4, pages := f 0x10 4, period := BitVec.ofNat 32 (f 0x1C 4), due := due }
            let s := { s with lkt.entries := tmap s.lkt.entries (fun i e =>
              if f 0x0C 4 ≤ i ∧ i < f 0x0C 4 + f 0x10 4 then { e with owned := true, slot := n } else e) }
            s.finish (descPend d) stDone 0 0 due.toNat (some (n, f 0x1C 4))))

/-- The faults of a slot operation's operand (R287). -/
def slotFaults (d : Desc) : List (Nat × Bool) := [(0x08, decide (2047 < descF d 0x08 2))]

/-- A slot operation (R210): what it does with the slot's record, by opcode. -/
def State.slotOp (s : State) (ring op : Nat) (act : Desc → Nat → SlotSt → State → State) : State :=
  s.land ring op slotFaults (fun d s => act d (descF d 0x08 2) (s.slot (descF d 0x08 2)) s)

/-- SEQ_PAUSE (R210). -/
def execSeqPause (ring : RingId) (s : State) : Result :=
  .next (s.slotOp ring 0x34 (fun d n k s =>
    match k.state with
    | .ready => (s.setSlot n { k with state := .paused }).finish (descPend d) stDone 0
    | .running => if k.pauseBy.isSome then s.refuse d 0x800A else s.setSlot n { k with pauseBy := some (descPend d) }
    | _ => s.refuse d 0x800A))

/-- SEQ_RESUME (R210). -/
def execSeqResume (ring : RingId) (s : State) : Result :=
  .next (s.slotOp ring 0x35 (fun d n k s =>
    if k.state = .paused ∧ k.tokens ≠ k.maxTokens then (s.setSlot n { k with state := .ready }).finish (descPend d) stDone 0
    else s.refuse d 0x800A))

/-- SEQ_CLOSE (R210). -/
def execSeqClose (ring : RingId) (s : State) : Result :=
  .next (s.slotOp ring 0x36 (fun d n k s =>
    match k.state with
    | .running => s.setSlot n { k with state := .closing, closeBy := some (descPend d) }
    | .ready => (s.freeSlot n).finish (descPend d) stDone 0
    | .paused => (s.freeSlot n).finish (descPend d) stDone 0
    | .faulted => (s.freeSlot n).finish (descPend d) stDone 0
    | _ => s.refuse d 0x800A))

/-- SEQ_RESET (R210). -/
def execSeqReset (ring : RingId) (s : State) : Result :=
  .next (s.slotOp ring 0x37 (fun d n k s =>
    if k.state = .faulted ∧ s.rangePoisoned k = false then (s.setSlot n { k with state := .ready }).finish (descPend d) stDone 0
    else s.refuse d 0x800A))

/-! ## Steps (R211-R213, R250) -/

/-- STEP_WAIT_EXPIRY (R211): STEP_WAIT has passed since the stream's last assembly. -/
def execStepWaitExpiry (stream : StreamId) (s : State) : Result :=
  .next (match tget? s.fst.streams stream with
    | some k =>
      if k.lastAsm.toNat + 1000 * k.stepWait ≤ s.now then { s with fst.streams := tput s.fst.streams stream { k with waitOver := true } } else s
    | none => s)

/-- The entries a slot owns. -/
def State.ownedBy (s : State) (n : Nat) : List LktEntry := (s.lkt.entries.filter (fun e => e.2.owned && e.2.slot == n)).map (·.2)

/-- Whether a READY slot of a stream is eligible (R211). -/
def State.eligible (s : State) (st n : Nat) (k : SlotSt) : Bool :=
  decide (k.state = .ready) && decide (k.stream = st) &&
  (!s.fst.cfg.getLsbD 0 || (s.ownedBy n).all (fun e => e.state == .hbm || e.state == .peer || e.state == .demoting))

/-- The members of a stream's next step: the first STEP_MAX eligible slots by DUE, then by number; none while
the step may not be assembled (R211). -/
def State.stepMembers (s : State) (st : Nat) (k : StreamSt) : List Nat :=
  let es := (s.fst.slots.filter (fun e => s.eligible st e.1 e.2)).map (·.1)
  if k.unbinding.isNone && s.admitting && decide (s.inFlight st < k.inFlightMax) &&
      (decide (k.stepMin ≤ es.length) || (decide (1 ≤ es.length) && k.waitOver)) then
    (sortDue (fun n => (s.slot n).due.toNat) es).take k.stepMax
  else []

/-- Where the members' pages lie, seen from a destination field (R250). -/
def State.stepMix (s : State) (members : List Nat) (f : Nat) : KvMix :=
  let es := members.flatMap s.ownedBy
  let peers := es.filter (fun e => e.isPeer)
  let routes := peers.map (fun e => (s.trayRoute e.trayPos).getD [])
  { hbm := (es.filter (fun e => !e.isPeer && !e.inLp)).length, lpddr := (es.filter (fun e => !e.isPeer && e.inLp)).length
    peer := peers.length, far := es.any (fun e => !e.isPeer && e.field != f)
    hops := routes.foldl (fun h r => Nat.max h r.length) 0
    rate := (routes.filterMap (fun r => r.head?.map s.peerRate)).foldl Q.min (qn 400) }

/-- The payload of a step tile (R212). -/
def State.stepTileBytes (s : State) (members : List Nat) : List Byte :=
  padTo (stepPayload members.length) (members.flatMap (fun n =>
    let k := s.slot n
    le 2 n ++ le 2 0 ++ le 4 k.tokens.toNat ++ le 4 k.base ++ le 4 k.pages))

/-- The demotion of any of a member's entries is abandoned (R205). -/
def State.keepHbm (s : State) (n : Nat) : State :=
  (s.lkt.entries.filter (fun e => e.2.owned && e.2.slot == n && e.2.state == .demoting)).foldl (fun s e =>
    (s.dropCopy e.1).setEntry e.1 { e.2 with state := .hbm }) s

/-- Members in ascending order. -/
def ascending (ns : List Nat) : List Nat := ns.foldl (fun l n => insertFrame n l) []

/-- The tag of a step (R289). -/
def stepTag (st no : Nat) : W32 := BitVec.ofNat 32 (0x80000000 + st * 0x10000000 + no % 0x10000000)

/-- A step that is not admitted, for whatever reason: its completion with REJECTED_LATE is written and its members
return (R210, R213). -/
def State.refuseStep (s : State) (st : Nat) (k : StreamSt) (members : List Nat) : State :=
  let s := members.foldl (fun s n => s.slotStep false n) s
  let s := { s.countLate with fst.status := setFlag s.fst.status 2, fst.stepRefused := sat s.fst.stepRefused }
  s.complete k.ring {
    tag := stepTag st k.nextStep, status := stLate, kind := 1, time := s.stamp
    count := BitVec.ofNat 16 members.length, tileTail := (s.ring k.ring).tileTail, value := BitVec.ofNat 64 k.nextStep
    irq := (s.ring k.ring).irqReg.getLsbD 11 }

/-- The state checks of a step: those of its plan, and the strand that its tile takes (R83, R213). -/
def State.stepState (s : State) (k : StreamSt) (jb : JobSt) (sts : List StationE) (sks : List StrandE) : Option Nat :=
  match s.planState jb sts sks 15 with
  | some d => some d
  | none => if s.strandUnready k.strand then some 0x800B else none

/-- Offers a step to the Almanac (R83, R213, R248, R250): admitted with its tile to send, or refused. -/
def State.offerStep (s : State) (st : Nat) (k : StreamSt) (members : List Nat) : State :=
  match (s.job? k.job).bind (fun (jb : JobSt) => jb.stations.bind (fun a => jb.strands.map (fun b => (jb, a, b)))) with
  | none => s.refuseStep st k members
  | some (jb, sts, sks) =>
    if (s.stepState k jb sts sks).isSome then s.refuseStep st k members
    else if s.almFull then s.markFull.refuseStep st k members
    else
      let due := members.foldl (fun m n => Nat.min m (s.slot n).due.toNat) ((s.slot (members.headD 0)).due.toNat)
      let deadline := Nat.max due (s.now + 1000 * k.budget)
      let ws := s.windows sts sks 15 members.length (tget jb.priced 15 {}) (some (s.stepMix members))
      match s.verdict deadline 0 ws with
      | .late => s.refuseStep st k members
      | .place t0 c wins =>
        let tag := stepTag st k.nextStep
        let t : Tile := {
          strand := k.strand, rows := members.length, cols := 16, slot := 0xFFFF, work := tag, step := true
          srcStation := ((s.strand? k.strand).map (fun (x : StrandSt) => x.entry.src)).getD 0, payload := s.stepTileBytes members }
        let s := s.admitItem {
          tag := tag, job := k.job, ring := k.ring, irq := (s.ring k.ring).irqReg.getLsbD 11, deadline := BitVec.ofNat 64 deadline
          plan := 15, batch := members.length, t0 := t0, cslot := c, wins := wins, step := some st, stepNo := k.nextStep
          slotsIn := members, stepTileOut := false }
        { s with fst.stepTiles := s.fst.stepTiles ++ [(k.strand, t)] }

/-- STEP_ASSEMBLY (R205, R211, R213). -/
def execStepAssembly (stream : StreamId) (s : State) : Result :=
  .next (match tget? s.fst.streams stream with
    | some k =>
      let ms := s.stepMembers stream k
      if ms.isEmpty then s
      else
        let members := ascending ms
        let s := members.foldl (fun s n => (s.keepHbm n).modSlot n (fun x => { x with state := .running })) s
        let s := { s with fst.streams := tput s.fst.streams stream { k with lastAsm := s.stamp, waitOver := false, nextStep := k.nextStep + 1 } }
        (s.noteVerdict.offerStep stream k members).finishHalts
    | none => s)

/-- STEP_TILE (R65, R212): the oldest step tile that waits on a stream's strand, once it holds a credit. -/
def execStepTile (stream : StreamId) (s : State) : Result :=
  .next (match tget? s.fst.streams stream with
    | some k =>
      match s.fst.stepTiles.find? (fun x => x.1 == k.strand), s.strand? k.strand with
      | some (n, t), some x =>
        if s.hasCredit x 0 then
          let s := { s with fst.stepTiles := s.fst.stepTiles.erase (n, t) }
          (s.sendTile n x 0 t).modItem t.work (fun i => { i with stepTileOut := true })
        else s
      | _, _ => s
    | none => s)

end Sys2Proof.Machine
end

