-- ==== Sys2Proof/Machine/Vector.lean ====
section
/-! DEFINITION. The vector unit (R100-R102, R115, R138): lane operations, moves between registers and areas,
bank rows into registers, and reductions. -/

namespace Sys2Proof.Machine

/-! ## What an instruction leaves behind beside its results -/

/-- Notes what the last vector instruction formed, for the checks that run in it (R141), and counts the instruction for
the activity estimator (R380). -/
def CoreSt.didVec (v : VecDone) (k : CoreSt) : CoreSt :=
  { k with act.vec := k.act.vec + 1, run := k.run.map (fun r => { r with lastVec := some v }) }

/-- The relation of a result that is formed without a step that the rule names: the result itself (R140, R141). -/
def relSame (r : W32) : CheckRel := { p := sigInt 8 r.toNat, q := sigInt 8 r.toNat }

/-! ## VOP (R100, R115, R138) -/

/-- A lane operation: vD from lanes of vA, vB and vC and the scalar gB; `units` are those whose checks run in it, and `rel` the
relation that they check of a result (R141). -/
def State.vop (s : State) (c op : Nat) (units : List Nat) (f : W32 → W32 → W32 → W32 → W32)
    (rel : W32 → W32 → W32 → W32 → W32 → CheckRel := fun _ _ _ _ => relSame) : State :=
  s.issue c 0x30 (fun w => decide (bits w.toNat 3 0 = op)) (fun w _ k s =>
    let g := k.gr (fB w)
    let xs := (List.range 256).map (fun i => f (k.lane (fA w) i) (k.lane (fB w) i) (k.lane (fC w) i) g)
    let vals := xs.zipIdx.map (fun x => rel (k.lane (fA w) x.2) (k.lane (fB w) x.2) (k.lane (fC w) x.2) g x.1)
    s.setCore c ((k.setV (fD w) xs).didVec { units := units, instr := k.pc, vals := vals, reg := some (fD w) }).next)

/-- The relation of an FP32 product (R141). -/
def relMul (x y r : W32) : CheckRel := relOf ((ofFp32 x).mul (ofFp32 y)) (ofFp32 r)

/-- VOP ADD (R115). -/
def execVopAdd (core : CoreId) (s : State) : Result :=
  .next (s.vop core 0 [7] (fun a b _ _ => fAdd a b) (fun a b _ _ => relSum (ofFp32 a) (ofFp32 b)))
/-- VOP SUB (R115). -/
def execVopSub (core : CoreId) (s : State) : Result :=
  .next (s.vop core 1 [7] (fun a b _ _ => fSub a b) (fun a b _ _ => relSum (ofFp32 a) (ofFp32 b).negate))
/-- VOP MUL (R115). -/
def execVopMul (core : CoreId) (s : State) : Result :=
  .next (s.vop core 2 [8] (fun a b _ _ => fMul a b) (fun a b _ _ => relMul a b))
/-- VOP FMA (R100, R115). -/
def execVopFma (core : CoreId) (s : State) : Result :=
  .next (s.vop core 3 [8] (fun a b c _ => fFma a b c) (fun a b c _ => relSum ((ofFp32 a).mul (ofFp32 b)) (ofFp32 c)))
/-- VOP MAX (R138). -/
def execVopMax (core : CoreId) (s : State) : Result := .next (s.vop core 4 [] (fun a b _ _ => fMax a b))
/-- VOP MIN (R138). -/
def execVopMin (core : CoreId) (s : State) : Result := .next (s.vop core 5 [] (fun a b _ _ => fMin a b))
/-- VOP EXP2 (R100, R138). -/
def execVopExp2 (core : CoreId) (s : State) : Result := .next (s.vop core 6 [9] (fun a _ _ _ => fExp2 a))
/-- VOP RCP (R100, R138). -/
def execVopRcp (core : CoreId) (s : State) : Result := .next (s.vop core 7 [9] (fun a _ _ _ => fRcp a))
/-- VOP RSQRT (R100, R138). -/
def execVopRsqrt (core : CoreId) (s : State) : Result := .next (s.vop core 8 [9] (fun a _ _ _ => fRsqrt a))
/-- VOP MULS (R115). -/
def execVopMuls (core : CoreId) (s : State) : Result :=
  .next (s.vop core 9 [8] (fun a _ _ g => fMul a g) (fun a _ _ g => relMul a g))
/-- VOP ADDS (R115). -/
def execVopAdds (core : CoreId) (s : State) : Result :=
  .next (s.vop core 10 [7] (fun a _ _ g => fAdd a g) (fun a _ _ g => relSum (ofFp32 a) (ofFp32 g)))

/-! ## Vector memory instructions (R101) -/

/-- The lanes that 256 packed elements convert to. R134 lets a NaN carry over and names no bit pattern, nor does it say
what VLD and VST of FP32 do with a NaN's sign and payload: every NaN becomes the FP32 code 0x7FC0_0000 (DESIGN CHOICE,
log 109). -/
def lanesOf (f : Nat) (bs : List Byte) : List W32 :=
  (List.range 256).map (fun i => toFp32 (elemValue f (packedElem bs (elemBits f) i)))

/-- The relations of the conversions of 256 packed elements (R141). -/
def laneRels (f : Nat) (bs : List Byte) (xs : List W32) : List CheckRel :=
  xs.zipIdx.map (fun x => relOf (elemValue f (packedElem bs (elemBits f) x.2)) (ofFp32 x.1))

/-- VLD (R101, R134, R176, R178, R179): only the conversion of INT32 can shift. -/
def execVld (core : CoreId) (ecc : List (Nat × EccFind)) (s : State) : Result :=
  .next (s.issue core 0x31 (fun _ => true) (fun w r k s =>
    let f := bits w.toNat 7 0
    let a := areaOf (k.gr (fA w)).toNat
    match s.consume core a (vecBytes f) ecc with
    | (s, none) => s.poisonStop core a (vecBytes f) r.work
    | (s, some bs) =>
      let xs := lanesOf f bs
      let v : VecDone := { units := if f = 9 then [3] else [], instr := k.pc, vals := laneRels f bs xs, reg := some (fD w) }
      s.modCore core (fun k => ((k.setV (fD w) xs).didVec v).next)))

/-- VST (R101, R104, R134): stalls while its destination is locked. -/
def execVst (core : CoreId) (s : State) : Result :=
  .next (s.issue core 0x32 (fun _ => true) (fun w _ k s =>
    let f := bits w.toNat 7 0
    let g := (k.gr (fA w)).toNat
    let a := areaOf g
    if k.locked a (vecBytes f) then s
    else
      let xs := k.lanes (fD w)
      let es := xs.map (fun x => convert f (ofFp32 x))
      let v : VecDone := { units := [10], instr := k.pc, vals := (xs.zip es).map (fun x => relOf (ofFp32 x.1) (elemValue f x.2)), area := g, width := elemBits f, cols := 256 }
      ((s.areaWrite core a (packElems (elemBits f) es)).useSpad core a (vecBytes f)).modCore core (fun k => (k.didVec v).next)))

/-- VLDA (R101, R126, R134): waits until no issued pass writes the row. -/
def execVlda (core : CoreId) (s : State) : Result :=
  .next (s.issue core 0x33 (fun _ => true) (fun w _ k s =>
    let row := (k.gr (fA w)).toNat % 512
    if k.rowsDue row 1 || k.rowQueued row then s
    else
      let es := (List.range k.cwidth).map (fun c => k.bankAt row c)
      let xs := es.map (fun e => toFp32 (e.value k.anchor)) ++ List.replicate (256 - k.cwidth) 0
      let k : CoreSt := { k with runFlag := k.runFlag || es.any (fun e => !e.fp && e.flag) }
      let vals := (es.zip xs).map (fun x => relOf (x.1.value k.anchor) (ofFp32 x.2))
      s.setCore core ((k.setV (fD w) xs).didVec { units := [10], instr := k.pc, vals := vals, reg := some (fD w) }).next))

/-! ## VRED (R102, R138) -/

/-- One level of the pairwise tree. -/
def treeLevel : List W32 → List W32
  | x :: y :: t => fAdd x y :: treeLevel t
  | t => t

/-- TREE: eight levels. -/
def treeSum (xs : List W32) : W32 := ((List.range 8).foldl (fun xs _ => treeLevel xs) xs).headD 0

/-- A lane on the anchor's grid, and whether it sets the run flag. -/
def anchoredLane (a : Int) (x : W32) : Int × Bool :=
  match ofFp32 x with
  | .nan => (0, true)
  | .inf n => (if n then -accS else accS, true)
  | v => clampS (quantise v a)

/-- ANCHORED: the exact sum, clamped once and rounded once, and whether the run flag is set. -/
def anchoredSum (a : Int) (xs : List W32) : W32 × Bool :=
  let qs := xs.map (anchoredLane a)
  let c := clampS (qs.map (·.1)).sum
  (toFp32 (.ofInt c.1 a), c.2 || qs.any (·.2))

/-- The relation of the last addition of the tree (R141). -/
def relTree (xs : List W32) : CheckRel :=
  let ys := (List.range 7).foldl (fun xs _ => treeLevel xs) xs
  relSum (ofFp32 (ys.headD 0)) (ofFp32 (ys.getD 1 0)) (treeSum xs)

/-- A reduction of vA into every lane of vD; `units` are those whose checks run in it, `rels` the relations of its lanes and
`total` that of its one sum (R141). -/
def State.vred (s : State) (c mode : Nat) (units : List Nat) (f : CoreSt → List W32 → W32 × Bool)
    (rels : CoreSt → List W32 → List CheckRel := fun _ xs => xs.map relSame) (total : CoreSt → List W32 → Option CheckRel := fun _ _ => none) : State :=
  s.issue c 0x34 (fun w => decide (bits w.toNat 1 0 = mode)) (fun w _ k s =>
    let xs := k.lanes (fA w)
    let x := f k xs
    let v : VecDone := { units := units, instr := k.pc, vals := rels k xs, total := total k xs, reg := some (fD w), all := true }
    s.setCore c ((({ k with runFlag := k.runFlag || x.2 } : CoreSt).setV (fD w) (List.replicate 256 x.1)).didVec v).next)

/-- VRED TREE (R102). -/
def execVredTree (core : CoreId) (s : State) : Result :=
  .next (s.vred core 0 [7] (fun _ xs => (treeSum xs, false)) (total := fun _ xs => some (relTree xs)))
/-- VRED MAX (R102, R138). -/
def execVredMax (core : CoreId) (s : State) : Result :=
  .next (s.vred core 1 [] (fun _ xs => (xs.foldl fMax (xs.headD 0), false)))
/-- VRED ANCHORED (R102, R126, R138): each lane is converted to the grid, and the exact sum rounded. -/
def execVredAnchored (core : CoreId) (s : State) : Result :=
  .next (s.vred core 2 [7, 10] (fun k xs => anchoredSum k.anchor xs)
    (fun k xs => xs.map (fun x => relOf (ofFp32 x) (.ofInt (anchoredLane k.anchor x).1 k.anchor)))
    (fun k xs => some (relOf (.ofInt (xs.map (fun x => (anchoredLane k.anchor x).1)).sum k.anchor) (ofFp32 (anchoredSum k.anchor xs).1))))

end Sys2Proof.Machine
end

