-- ==== Sys2Proof/Machine/Hallmark.lean ====
section
/-! DEFINITION. Hallmark (R139-R150): an event in the array or the vector unit, what it holds, its record, and
the decision between a re-run and a suspect result. -/

namespace Sys2Proof.Machine

/-- The physical columns in service, ascending: logical column n is carried by the n-th (R98). -/
def CoreSt.inServiceCols (k : CoreSt) : List Nat := (List.range 256).filter (fun c => !k.colOut.contains c)

/-- The logical column that a physical column carries. -/
def CoreSt.logicalCol (k : CoreSt) (col : Nat) : Option Nat := k.inServiceCols.findIdx? (· == col)

/-! ## The checks (R139-R142) -/

/-- The codes of a check of a parity. -/
def parityCodes (n : Nat) : Nat × Nat := (parity n, 1 - parity n)

/-- The exact product of two operands as its significand product and its exponent; a gated or invalid product is zero
(R121, R142). -/
def productOf (x : Opd × Opd) : Int × Int :=
  match scaled (elemValue x.1.1 x.1.2.1) x.1.2.2, scaled (elemValue x.2.1 x.2.2.1) x.2.2.2 with
  | .fin n m e, .fin n' m' e' => (withSign (n != n') (m * m'), e + e')
  | _, _ => (0, 0)

/-- The relation of a product's rounding: onto the grid of an exact pair, or to the 24-bit significand of an FP32 pair (R141). -/
def roundingOf (fp : Bool) (a : Int) (x : Opd × Opd) : CheckRel :=
  let p := productOf x
  if fp then
    match ofFp32 (fpProduct x.1.1 x.1.2.1 x.1.2.2 x.2.1 x.2.2.1 x.2.2.2) with
    | .fin n m e => { p := p.1, t := p.2 - e, q := withSign n m }
    | _ => { p := p.1, q := p.1 }
  else { p := p.1, t := p.2 - a, q := quantise (.ofInt p.1 p.2) a }

/-- How many products of a result have entered its sum after the step that takes product k (R87). -/
def Pass.upTo (p : Pass) (k : Nat) : Nat := min p.shapeA.cols (if p.two then 2 * (k / 2) + 2 else k + 1)

/-- The array row of the cell that takes product k of result row i (R88, R91). -/
def Pass.cellRow (p : Pass) (i k : Nat) : Nat := if p.mmo then i else if p.two then k / 2 else k

/-- The bank as a pass will find it: what the passes before it have still to land is in it (R94, R144). -/
def CoreSt.bankBefore (k : CoreSt) (i : Nat) : CoreSt :=
  ((k.passes.take i).filter (fun q => !q.landed)).foldl (fun k q => q.writes.foldl (CoreSt.landWrite q) k) k

/-- The relation of the hop, or the accumulation, that takes product k of an FP32 pair: the aligned significand sum of what
the sum held and the product, and its rounding (R141, R142, log 110). -/
def Pass.hop (p : Pass) (i j k : Nat) : CheckRel :=
  let x := p.opd i j k
  relSum (ofFp32 (p.sumTo i j k).bits) (ofFp32 (fpProduct x.1.1 x.1.2.1 x.1.2.2 x.2.1 x.2.2.1 x.2.2.2)) (p.sumTo i j (p.upTo k)).bits

/-- The shift count whose parity a check of unit 3 in the array takes: of the quantisation or product rounding, or, of an FP32
pair, of the alignment (`shift` 1) or the normalisation (`shift` 2) of the hop. Of a left and of a right shift alike the
bits of the magnitude count (DESIGN CHOICE, log 127; R142). -/
def Pass.shiftCount (p : Pass) (i j : Nat) (h : HmFault) : Nat :=
  match h.shift with
  | 1 => (p.hop i j h.step).align
  | 2 => (p.hop i j h.step).t.natAbs
  | _ => (roundingOf p.fp p.anchor (p.opd i j h.step)).t.natAbs

/-- The predicted and the observed code of a check in the array, at logical column j of the pass of index i (R141, R142). -/
def CoreSt.arrayCodes (k : CoreSt) (i : Nat) (p : Pass) (j : Nat) (h : HmFault) : Nat × Nat :=
  let x := p.opd h.row j h.step
  match h.unit with
  | 1 => codesOf (productOf x).1 h.delta h.seven
  | 2 => (roundingOf p.fp p.anchor x).codes true h.delta h.seven
  | 3 => parityCodes (p.shiftCount h.row j h)
  | 6 =>
    let old := (k.bankBefore i).bankAt ((p.base + h.row) % 512) j
    let new := p.result h.row j
    if p.fp then (relSum (ofFp32 (if old.fp then old.bits else 0)) (ofFp32 new.bits) (bankAdd true old new).bits).codes false h.delta h.seven
    else codesOf (bankAdd true old new).significand h.delta h.seven
  | _ =>
    if p.fp then (p.hop h.row j h.step).codes false h.delta h.seven
    else codesOf (p.sumTo h.row j (p.upTo h.step)).significand h.delta h.seven

/-- Whether a check of this unit runs in a pass at this row and step (R141, R145). -/
def unitInPass (h : HmFault) (p : Pass) : Bool :=
  decide (h.row < p.shapeA.rows) && decide (1 ≤ h.unit) && decide (h.unit ≤ 6) && !h.vector &&
  (match h.unit with
   | 4 => !p.mmo && decide (p.cellRow h.row h.step < 256)
   | 5 => p.mmo && decide (h.step < p.shapeA.cols)
   | 6 => p.acc && !(p.mmo && !p.drain)
   | 3 => decide (h.step < p.shapeA.cols) && (p.fp || decide (h.shift = 0)) && decide (h.shift ≤ 2)
   | _ => decide (h.step < p.shapeA.cols))

/-! ## Records (R145, R150) -/

/-- Counts an event and gives its number (R145, R150). -/
def State.countEvent (s : State) : W32 × State :=
  (s.gen.eventSeq, { s with gen.eventSeq := s.gen.eventSeq + 1, gen.hallmarks := sat s.gen.hallmarks })

/-- The record of an event, as far as its core and its codes fix it (R145). -/
def State.eventRecord (s : State) (c : Nat) (unit : Nat) (codes : Nat × Nat) (seq work : W32) : HEvent :=
  let k := s.core c
  { time := s.stampIn (coreField c), seq := seq, unit := BitVec.ofNat 8 unit
    logical := BitVec.ofNat 8 ((s.logicalOf c).getD 0), phys := BitVec.ofNat 8 (physByte c)
    pcol := 0xFFFF, lcol := 0xFFFF, cellRow := 0xFFFF, expected := BitVec.ofNat 8 codes.1
    observed := BitVec.ofNat 8 codes.2, cycle := k.cycles, bankRow := 0xFFFF, work := work
    job := BitVec.ofNat 16 k.job, station := BitVec.ofNat 16 (k.station.getD 0), lane := 0xFFFF }

/-- The landing position of a result row: a drain writes its last row first (R91, R92). -/
def Pass.position (p : Pass) (i : Nat) : Nat := if p.mmo then p.rows - 1 - i else i

/-- Whether a pass writes a result of its logical column j to the bank. -/
def Pass.writesCol (p : Pass) (j : Nat) : Bool := decide (j < p.shapeB.rows) && !(p.mmo && !p.drain)

/-- The record of an event in the array, at logical column j (R144, R145). A cell has a row for the units within it:
the multiplier, the quantiser, the shifter, the column adder and the cell accumulator; the bank adder has none (DESIGN
CHOICE, log 110). -/
def State.columnRecord (s : State) (c : Nat) (p : Pass) (j : Nat) (h : HmFault) (codes : Nat × Nat) (seq : W32) : HEvent :=
  { s.eventRecord c h.unit codes seq p.work with
    pcol := BitVec.ofNat 16 h.col, lcol := BitVec.ofNat 16 j
    cellRow := if h.unit = 6 then 0xFFFF else BitVec.ofNat 16 (p.cellRow h.row h.step)
    passCycle := BitVec.ofNat 32 h.passCyc, instr := BitVec.ofNat 16 p.instr
    bankRow := if p.writesCol j then BitVec.ofNat 16 ((p.base + h.row) % 512) else 0xFFFF
    heldRows := if p.writesCol j then BitVec.ofNat 16 (p.rows - p.position h.row) else 0 }

/-! ## Events outside the array (R144, R145, R152) -/

/-- Whether a fault is one of the vector unit or of a conversion. -/
def outsideArray (h : HmFault) : Bool := decide (7 ≤ h.unit) || (decide (h.unit = 3) && h.vector)

/-- The codes of a check in a vector instruction or a conversion, at result i: of a shift count, that of the rounding or
normalisation, or of the alignment (`shift` 1); of a word of the coefficient tables, which the rule does not give; of a
conversion's rounding; of a sum or product, or of its rounding (`step` 1) (R141, R142). -/
def VecDone.codes (v : VecDone) (i : Nat) (h : HmFault) : Nat × Nat :=
  let lane := (v.vals[i]?).getD {}
  let one := v.total.getD lane
  match h.unit with
  | 3 => parityCodes (if h.shift = 1 then one.align else one.t.natAbs)
  | 9 => if h.vector then parityCodes h.shift else codesOf one.q h.delta h.seven
  | 10 => (if h.step = 0 then lane else one).codes true h.delta h.seven
  | _ => one.codes (decide (h.step = 1)) h.delta h.seven

/-- Leaves element i of an area as the fault formed it: an integer off by `err` in its nine FIX72 digits, any other encoding
with the bits of `err` flipped (R58, R144). -/
def State.flipElement (s : State) (c : Nat) (v : VecDone) (i : Nat) (err : Int) : State :=
  if v.stride ≠ 0 then
    ((fix72Digits (((v.vals[i]?).getD {}).q + err)).zipIdx).foldl (fun (s : State) d => s.areaWrite c ((areaOf v.area).plus (d.2 * v.stride + i)) [d.1]) s
  else
    let a := (areaOf v.area).plus (i * v.width / 8)
    let n := (i * v.width % 8 + v.width + 7) / 8
    s.areaWrite c a (le n (fld (s.areaRead c a n) 0 n ^^^ (unsignedOf v.width err <<< (i * v.width % 8))))

/-- Leaves an instruction's result i as the fault formed it (R144). -/
def State.leaveError (s : State) (c : Nat) (v : VecDone) (i : Nat) (err : Int) : State :=
  match v.reg with
  | some r => s.modCore c (fun k => k.setV r ((k.lanes r).zipIdx.map (fun x =>
      if v.all || x.2 == i then x.1 ^^^ BitVec.ofInt 32 err else x.1)))
  | none => s.flipElement c v i err

/-- A run with one more result of its last vector instruction, or ADRAIN, found failing. -/
def Run.failedAt (r : Run) (drain : Bool) (v : VecDone) (i : Nat) : Run :=
  let v := { v with failed := i :: v.failed }
  if drain then { r with suspect := true, lastDrain := some v } else { r with suspect := true, lastVec := some v }

/-- An event of the vector unit or a conversion, one a lane and instruction: nothing is held, and the run is suspect (OUTCOME
0x04). LANE of a drained element, of which R145 says nothing, is its column (DESIGN CHOICE, log 127). -/
def State.vectorEvent (s : State) (c : Nat) (h : HmFault) : State :=
  match (s.core c).run with
  | some r =>
    match if h.drain then r.lastDrain else r.lastVec with
    | some v =>
      let i := if h.drain then h.row * v.cols + h.lane else h.lane
      let codes := v.codes i h
      if !(v.units.contains h.unit || (h.unit == 3 && !v.units.isEmpty)) || decide (v.vals.length ≤ i) ||
          (h.drain && decide (v.cols ≤ h.lane)) || v.failed.contains i || codes.1 == codes.2 then s
      else
        let (seq, s) := s.countEvent
        let e := { s.eventRecord c h.unit codes seq r.work with lane := BitVec.ofNat 16 h.lane, instr := BitVec.ofNat 16 v.instr }
        let s := s.modCore c (fun k => { k with vecEvents := min (k.vecEvents + 1) 65535, run := some (r.failedAt h.drain v i) })
        (s.leaveError c v i ((h.errs[0]?).getD 0)).queueHallmark (coreField c) (e.bytes 4)
    | none => s
  | none => s

/-! ## Events in the array (R144) -/

/-- A value as the fault made it: an exact integer off by `err`, an FP32 encoding with the bits of `err` flipped. -/
def AccEntry.disturb (x : AccEntry) (err : Int) : AccEntry :=
  if x.fp then ({ x with bits := x.bits ^^^ BitVec.ofInt 32 err } : AccEntry).sealed
  else
    let c := clampS (x.val + err)
    ({ x with val := c.1, flag := x.flag || c.2 } : AccEntry).sealed

/-- The results of logical column j in landing order. -/
def Pass.colWrites (p : Pass) (j : Nat) : List BankWrite := p.writes.filter (fun w => w.col == j)

/-- Holds a column's results from a landing position on, each with what the fault left in it (R144, R147). -/
def holdCol (j pos : Nat) (errs : List Int) (ws : List BankWrite) : List BankWrite :=
  (ws.foldl (fun (x : Nat × List BankWrite) w =>
    if w.col = j then
      (x.1 + 1, x.2 ++ [if pos ≤ x.1 then { w with held := true, entry := w.entry.disturb ((errs[x.1 - pos]?).getD 0) } else w])
    else (x.1, x.2 ++ [w])) (0, [])).2

/-- A pass with a column held. -/
def Pass.hold (p : Pass) (j pos : Nat) (errs : List Int) (e : HEvent) : Pass :=
  { p with
    events := p.events ++ [e]
    writes := holdCol j pos errs p.writes
    rerunWrites := p.rerunWrites ++ ((p.colWrites j).drop pos).map (fun w => { w with held := true }) }

/-- The error of a pass without DRAIN stays in its cell, and reaches the bank with the chain's drain (R144). -/
def Pass.carry (p : Pass) (row j : Nat) (err : Int) : Pass :=
  { p with writes := p.writes.map (fun w =>
      if w.col = j ∧ w.row = (p.base + row) % 512 then { w with entry := w.entry.disturb err } else w) }

/-- Carries a cell's error into the accumulators, or into the pass that drains them. -/
def CoreSt.carryCell (k : CoreSt) (i row j : Nat) (err : Int) : CoreSt :=
  let after := (k.passes.drop (i + 1)).filter (·.mmo)
  let chain := after.takeWhile (fun p => !p.fresh)
  match chain.find? (·.drain) with
  | some d => { k with passes := k.passes.map (fun p => if p = d then p.carry row j err else p) }
  | none =>
    if chain.length = after.length then
      { k with cellAcc := k.cellAcc.map (fun e => if e.1 = 256 * row + j then (e.1, e.2.disturb err) else e) }
    else k

/-- The event of one column in one pass: it is one where the observed code is not the predicted one (R139, R141), and a
column's second failing row is the same event (R145). -/
def State.arrayEvent (s : State) (c : Nat) (h : HmFault) : State :=
  let k := s.core c
  match k.passes[h.pass]?, k.logicalCol h.col with
  | some p, some j =>
    let codes := k.arrayCodes h.pass p j h
    let cell := p.mmo && !p.drain
    if !unitInPass h p || decide (k.cwidth ≤ j) || (p.waits && !cell) || p.events.any (fun e => e.lcol.toNat == j) || codes.1 == codes.2 then s
    else
      let (seq, s) := s.countEvent
      let e := s.columnRecord c p j h codes seq
      let p' := p.hold j (p.position h.row) h.errs e
      let s := s.modCore c (fun k =>
        let k : CoreSt := { k with passes := k.passes.set h.pass p', hstop := true }
        if cell then k.carryCell h.pass h.row j ((h.errs[0]?).getD 0) else k)
      let s := s.heirEvent 1 (colIndex c h.col)
      let live := match k.run with | some r => r.work == p.work | none => false
      let s := if live then s else s.overtake c (fun w => w == p.work)
      s.settleCore c
  | _, _ => s

/-- HALLMARK_EVENT (R139-R142, R144, R145, R150, R152, R153). -/
def execHallmarkEvent (core : CoreId) (what : HmFault) (s : State) : Result :=
  .next (if outsideArray what then s.vectorEvent core what else s.arrayEvent core what)

/-! ## The decision (R147) -/

/-- The first of the five conditions of R147 that fails, as the OUTCOME it gives; none: a re-run is made. -/
def Pass.noRerun (p : Pass) (spent : Bool) : Option Nat :=
  if spent then some 2
  else if 2 ≤ p.events.length then some 3
  else if p.fpOver then some 5
  else if p.mmo ∧ (p.drain = false ∨ p.fresh = false) then some 8
  else none

/-- Writes held results: as formed under the pass's ACC; or after a clean re-run, so that the entry ends as it
would have without the event (R147, R148). -/
def CoreSt.writeHeld (clean : Bool) (p : Pass) (k : CoreSt) (w : BankWrite) : CoreSt :=
  let key := 256 * w.row + w.col
  let put := fun (acc : Bool) => { k with bank := tput k.bank key (bankAdd acc (tget k.bank key {}) w.entry) }
  if clean then
    match w.overlaid with
    | some true => k
    | some false => put true
    | none => put p.acc
  else put p.acc

/-- The results that a clean re-run writes, each with what later passes did to its entry. -/
def Pass.cleanWrites (p : Pass) : List BankWrite :=
  p.rerunWrites.map (fun w => { w with overlaid := ((p.writes.find? (fun x => x.row == w.row && x.col == w.col)).bind (·.overlaid)) })

/-- Carries a decision out: the held entries are written, the pass retires, and issue goes on. -/
def CoreSt.carryOut (k : CoreSt) (i : Nat) (p : Pass) (clean : Bool) : CoreSt :=
  let k := (if clean then p.cleanWrites else p.writes).foldl (CoreSt.writeHeld clean p) k
  let before := (k.passes.take i).map (fun e => e.writtenOver { p with writes := p.writes.map (fun w => { w with held := false }) })
  let left := before ++ k.passes.drop (i + 1)
  ({ k with passes := left, hstop := left.any (fun q => !q.events.isEmpty) } : CoreSt).unlockLoads.still

/-! ## The re-run (R99) -/

/-- The columns that a re-run may use, ascending: those in service but for the suspect one (R99). -/
def CoreSt.rerunCols (k : CoreSt) (suspect : Nat) : List Nat := k.inServiceCols.filter (fun x => x != suspect)

/-- Whether a re-run needs two passes: no free column exists (R99). -/
def CoreSt.twoPasses (k : CoreSt) : Bool := decide (k.inServiceCols.length ≤ k.cwidth)

/-- The logical column that a physical column carries in a re-run: the last one alone, on the lowest column, in the second
of two passes (R99). -/
def CoreSt.rerunCol (k : CoreSt) (suspect : Nat) (second : Bool) (col : Nat) : Option Nat :=
  let map := k.rerunCols suspect
  if second then (if k.twoPasses && map.head? == some col then some (k.cwidth - 1) else none)
  else (map.findIdx? (· == col)).filter (fun j => decide (j < if k.twoPasses then k.cwidth - 1 else k.cwidth))

/-- The physical column that carries a logical one in a re-run. -/
def CoreSt.rerunPhys (k : CoreSt) (suspect j : Nat) : Option Nat :=
  if k.twoPasses && j + 1 == k.cwidth then (k.rerunCols suspect).head? else (k.rerunCols suspect)[j]?

/-- The repair plane after a re-run of an MMW: the pass's weights, keyed by physical column (R86, R99). Of two passes the
second has loaded the lowest column again. -/
def CoreSt.loadRepair (k : CoreSt) (suspect : Nat) (p : Pass) : CoreSt :=
  let over_ := fun (n : Nat) => k.twoPasses && n == 0 && decide (1 < k.cwidth)
  let place := fun {α : Type} (t : Tab α) => t.foldl (fun (x : Tab α) e =>
    match if over_ (e.1 % 256) then none else k.rerunPhys suspect (e.1 % 256) with
    | some q => tput x (256 * (e.1 / 256) + q) e.2
    | none => x) []
  if p.mmo then k else { k with repair := { cells := place p.weights.cells, scales := place p.weights.scales } }

/-- A re-run feeds the pass's operands again: its loads and its cell-cycles, once or twice (R99, R380). -/
def State.feedAgain (s : State) (c suspect : Nat) (p : Pass) : State :=
  (p.locks.foldl (fun s r => s.useSpad c (areaOf r.1) (8 * r.2)) s).modCore c (fun k =>
    let k := (k.loadRepair suspect p).countPass p
    if k.twoPasses then { k with act.gated := k.act.gated + 2 * p.steps * 256 * k.cwidth } else k)

/-- The logical column at which a check fails within a re-run; none: no such check fails there (R99, R145). -/
def CoreSt.failsAgain (k : CoreSt) (i : Nat) (p : Pass) (suspect : Nat) (h : HmFault) : Option (Nat × Nat × Nat) :=
  match k.rerunCol suspect h.second h.col with
  | some j =>
    let codes := k.arrayCodes i p j h
    if unitInPass h p && codes.1 != codes.2 then some (j, codes) else none
  | none => none

/-- The event of a check that fails within a re-run: a record of its own (R99, R145). -/
def State.rerunEvent (s : State) (c : Nat) (p : Pass) (h : HmFault) (j : Nat) (codes : Nat × Nat) : State :=
  let (seq, s) := s.countEvent
  (s.queueHallmark (coreField c) ((s.columnRecord c p j h codes seq).bytes 7)).heirEvent 1 (colIndex c h.col)

/-- The failing checks of a re-run, one event a column. -/
def CoreSt.rerunFails (k : CoreSt) (i : Nat) (p : Pass) (suspect : Nat) (again : List HmFault) : List (HmFault × Nat × Nat × Nat) :=
  again.foldl (fun x h =>
    match k.failsAgain i p suspect h with
    | some (j, codes) => if x.any (fun y => y.2.1 == j) then x else x ++ [(h, j, codes)]
    | none => x) []

/-- Carries a decision out on a core, with the run's marks. -/
def State.settlePass (s : State) (c i : Nat) (p : Pass) (r : Run) (spend suspect : Bool) : State :=
  (s.modCore c (fun k => { k with run := some { r with reserveSpent := r.reserveSpent || spend, suspect := r.suspect || suspect } })).modCore c
    (fun k => k.carryOut i p !suspect)

/-- Queues the records of a pass's events with their outcome. -/
def State.records (s : State) (c : Nat) (p : Pass) (outcome : Nat) : State :=
  p.events.foldl (fun s e => s.queueHallmark (coreField c) (e.bytes outcome)) s

/-- RERUN_DECISION (R99, R144, R145, R147-R150): once the array has emptied, for the oldest pass with events; `again` is
the checks that fail within the re-run. The rule gives the records of a failed re-run no order: the re-run's own come
before the original event's, as it finds its outcome last (DESIGN CHOICE, log 111). -/
def execRerunDecision (core : CoreId) (again : List HmFault) (s : State) : Result :=
  .next (
    let k := s.core core
    match k.run, k.passes.findIdx? (·.waits) with
    | some r, some i =>
      if !k.passes.all (·.waits) then s
      else
        let p := (k.passes[i]?).getD {}
        match p.noRerun r.reserveSpent with
        | some o => State.pumpArray 9 core ((s.settlePass core i p r false true).records core p o)
        | none =>
          let suspect := ((p.events.head?).map (·.pcol.toNat)).getD 0
          let fails := k.rerunFails i p suspect again
          let s := s.feedAgain core suspect p
          if fails.isEmpty then
            let s := { s with gen.resolved := sat s.gen.resolved }
            State.pumpArray 9 core ((s.settlePass core i p r true false).records core p 0)
          else
            let s := fails.foldl (fun s x => s.rerunEvent core p x.1 x.2.1 x.2.2) s
            State.pumpArray 9 core ((s.settlePass core i p r true true).records core p 1)
    | _, _ => s)

end Sys2Proof.Machine
end

