-- ==== Sys2Proof/Machine/Loupe.lean ====
section
/-! DEFINITION. Loupe units (R218-R233): consuming score and merge tiles into per-query lists, and closing a
work item. -/

namespace Sys2Proof.Machine

/-- Whether a candidate ranks above another: larger score by value, then lower corpus id (R224). Overlapping shards can
give one id the scores +0 and -0, which the rule leaves equal; the lists are then still a function of the set (R226), +0
ranking first (DESIGN CHOICE, log 112). -/
def ranksAbove (a b : W32 × W32) : Bool :=
  let zero := fun (x : W32) => if x = 0x80000000 then (0 : W32) else x
  let x := ofFp32 (zero a.1)
  let y := ofFp32 (zero b.1)
  y.lt x || (!x.lt y && (decide (a.2.toNat < b.2.toNat) || (a.2 == b.2 && decide (a.1.toNat < b.1.toNat))))

/-- Puts a candidate in its place of a list, best first. -/
def rankIn (c : W32 × W32) : List (W32 × W32) → List (W32 × W32)
  | [] => [c]
  | d :: ds => if ranksAbove c d then c :: d :: ds else d :: rankIn c ds

/-- A candidate of a query: discarded when its score is -infinity, or a NaN, which is counted; else kept among
the K best (R224, R225). -/
def LoupeSt.take (l : LoupeSt) (cfg : LoupeCfg) (query : Nat) (c : W32 × W32) : LoupeSt :=
  match ofFp32 c.1 with
  | .nan => { l with nanCount := sat l.nanCount, status := setFlag l.status 0 }
  | .inf true => l
  | _ => if query < cfg.queries then { l with lists := tmod l.lists query [] (fun xs => (rankIn c xs).take cfg.k) } else l

/-- The candidates of a non-EMPTY score tile (R222, R223): `m` is the source member its ordinal counts for. -/
def LoupeSt.eatScores (l : LoupeSt) (cfg : LoupeCfg) (m : Nat) (t : Tile) : LoupeSt :=
  let n := tget l.ordinals m 0
  let g := cfg.queries / cfg.qcols
  let l := { l with ordinals := tput l.ordinals m (n + 1), candCount := l.candCount + BitVec.ofNat 64 (t.rows * t.cols) }
  (List.range (t.rows * t.cols)).foldl (fun (l : LoupeSt) i =>
    let row := n / g * cfg.tileRows + i / t.cols
    let id := BitVec.ofNat 32 (cfg.corpusBase + m * cfg.shardRows + row)
    if cfg.shardRows ≤ row then { l with strayCount := sat l.strayCount, status := setFlag l.status 1 }
    else l.take cfg (n % g * cfg.qcols + i % t.cols) (BitVec.ofNat 32 (fld t.payload (4 * i) 4), id)) l

/-- The candidates of a merge tile (R227, R229). -/
def LoupeSt.eatMerge (l : LoupeSt) (cfg : LoupeCfg) (t : Tile) : LoupeSt :=
  let k := t.cols / 2
  let l := { l with candCount := l.candCount + BitVec.ofNat 64 (t.rows * k) }
  (List.range (t.rows * k)).foldl (fun (l : LoupeSt) i =>
    l.take cfg (t.slot.toNat + i / k) (BitVec.ofNat 32 (fld t.payload (8 * i) 4), BitVec.ofNat 32 (fld t.payload (8 * i + 4) 4))) l

/-- The LOUPE configuration of the station that binds a unit. -/
def State.loupeCfg (s : State) (l : LoupeSt) : LoupeCfg := ((l.station.bind (s.stn l.job)).map (·.loupe)).getD {}

/-- The item that a unit serves next: the first admitted and released one whose run there has not ended (R230). -/
def State.nextLoupe (s : State) (l : LoupeSt) : Option Item :=
  match l.station with
  | some st => s.alm.items.find? (fun i => i.job == l.job && i.status.isNone && i.released &&
      i.wins.any (fun w => w.station == st) && !i.runsDone.contains (st, 0))
  | none => none

/-- Opens the item that a unit serves next, with what EMPTY tiles of it said before; on a tripped uncore region the item
ends (R230, R387). -/
def State.openLoupe (s : State) (f : Nat) : State :=
  let l := s.loupe f
  match l.workTag, s.nextLoupe l with
  | none, some i =>
    if (s.region (120 + f)).tripped then s.endItem i.tag stThermal (0x7200 + 120 + f)
    else
      let mine := l.ahead.filter (fun t => t.work == i.tag)
      s.setLoupe f { l with
        workTag := some i.tag, lists := [], ordinals := [], lastSeen := (mine.filter (·.last)).map (fun t => (t.strand, t.member))
        suspect := mine.any (·.suspect), anchorSat := mine.any (·.anchorSat), ahead := l.ahead.filter (fun t => t.work != i.tag) }
  | _, _ => s

/-- An error in a unit's store or input buffer: counted, flagged and recorded (R231, R436 KIND 0x0E). -/
def State.loupeError (s : State) (f : Nat) (e : EccFind) : State :=
  let s := s.modLoupe f (fun l =>
    match e with
    | .correctable => { l with ceCount := sat l.ceCount, status := setFlag l.status 2 }
    | .uncorrectable => { l with ueCount := sat l.ueCount, status := setFlag l.status 3 })
  s.record 0x0E (1 + f) (0x7300 + f) (le 1 f ++ le 1 (match e with | .correctable => 1 | .uncorrectable => 2))

/-- Frees a consumed slot and passes the turn. -/
def StrandSt.consumed (x : StrandSt) (r : SlotRec) (n : Nat) : StrandSt :=
  let y := x.afterTile 0 n r
  { y with slots := y.slots.map (fun z => if z = r then { z with phase := 2, tile := { z.tile with payload := [] } } else z) }

/-- What a tile of the open item adds to its unit (R222, R228-R230). -/
def LoupeSt.eat (l : LoupeSt) (cfg : LoupeCfg) (merge : Bool) (strand m : Nat) (t : Tile) : LoupeSt :=
  let l := if t.empty then l else if merge then l.eatMerge cfg t else l.eatScores cfg m t
  { l with
    suspect := l.suspect || t.suspect, anchorSat := l.anchorSat || t.anchorSat
    lastSeen := if t.last then l.lastSeen ++ [(strand, t.srcMember)] else l.lastSeen }

/-- A tile that a unit consumes now; poison of a tripped memory device ends its item FAULT_THERMAL (R179, R222, R230, R231,
R388). -/
def State.eatTile (s : State) (f strand : Nat) (x : StrandSt) (r : SlotRec) (ecc : Option EccFind) : State :=
  let t := r.tile
  let s := s.setStrand strand (x.consumed r (s.srcCount x))
  match (s.loupe f).workTag with
  | some w =>
    let s := match ecc with | some e => s.loupeError f e | none => s
    if ecc = some .uncorrectable ∨ t.poison ≠ [] then
      s.endItem w (if ecc ≠ some .uncorrectable ∧ t.hot ≠ [] then stThermal else stMemory) (0x7300 + f)
    else
      let m := if x.entry.srcMode = .gather then t.srcMember else 0
      s.modLoupe f (fun l => l.eat (s.loupeCfg l) (s.srcKind x == some .loupe) strand m t)
  | none => s

/-- Whether an item with a tag is still to be opened at a unit. -/
def State.stillToOpen (s : State) (l : LoupeSt) (tag : W32) : Bool :=
  match s.item? tag, l.station with
  | some i, some st => i.job == l.job && i.status.isNone && i.wins.any (fun w => w.station == st) && !i.runsDone.contains (st, 0)
  | _, _ => false

/-- An EMPTY tile that is no tile of the open item's input: what it says of a later item is kept for that one, and what it
says of the open one reaches its result tiles while they are not yet formed; one of an item that has finished at the unit
says nothing more (`later` tells; R228, R230; log 113). -/
def LoupeSt.passEmpty (l : LoupeSt) (strand : Nat) (t : Tile) (later : Bool) : LoupeSt :=
  if l.workTag = some t.work then
    if l.closed then l else { l with suspect := l.suspect || t.suspect, anchorSat := l.anchorSat || t.anchorSat }
  else if !later then l
  else { l with ahead := l.ahead ++
    [{ work := t.work, strand := strand, member := t.srcMember, last := t.last, suspect := t.suspect, anchorSat := t.anchorSat }] }

/-- LOUPE_TILE_CONSUME (R64, R179, R222-R224, R228-R232, R387): the landed tile due of a source member. A member's tiles up
to its LAST are the open item's; after it an EMPTY tile passes the turn, and a non-EMPTY one waits for the next item. With
no item open the next in admission order opens, but for an EMPTY tile of another one (log 113). -/
def execLoupeTileConsume (field : FieldId) (strand : StrandId) (member : Fin 96) (ecc : Option EccFind) (s : State) : Result :=
  .next (
    match s.strand? strand with
    | some x0 =>
      let x := x0.rotated 0 (s.srcCount x0)
      match x.nextTile 0, s.dstStn x with
      | some r, some st =>
        if st.kind ≠ .loupe ∨ st.target ≠ field.val ∨ r.tile.srcMember ≠ member.val then s
        else
          let opens := !r.tile.empty || (s.nextLoupe (s.loupe field)).any (fun i => i.tag == r.tile.work)
          let s := if (s.loupe field).workTag.isNone && opens then s.openLoupe field else s
          let l := s.loupe field
          let x := ((s.strand? strand).getD x0).rotated 0 (s.srcCount x0)
          let past := l.workTag.isNone || l.closed || l.lastSeen.contains (strand.val, r.tile.srcMember)
          if !x.slots.contains r then s
          else if !past then s.eatTile field strand x r ecc
          else if r.tile.empty then (s.setStrand strand (x.consumed r (s.srcCount x))).modLoupe field (fun l => l.passEmpty strand r.tile (s.stillToOpen l r.tile.work))
          else s
      | _, _ => s
    | none => s)

/-- Whether every source of a unit's open item has delivered LAST (R230). -/
def State.inputClosed (s : State) (l : LoupeSt) : Bool :=
  match l.station with
  | some st =>
    let ins := s.strands.filter (fun (e : Nat × StrandSt) => e.2.job == l.job && e.2.entry.place != .toPeer && e.2.entry.dst == st)
    !ins.isEmpty && ins.all (fun (e : Nat × StrandSt) =>
      let ms := if e.2.entry.srcMode = .gather then List.range (s.srcCount e.2) else [e.2.entry.srcMember]
      ms.all (fun m => l.lastSeen.contains (e.1, m)))
  | none => false

/-- The bytes of one query's row of a result tile, padded (R227). -/
def resultRow (k : Nat) (xs : List (W32 × W32)) : List Byte :=
  (xs ++ List.replicate (k - xs.length) (0xFF800000, 0xFFFFFFFF)).flatMap (fun (e : W32 × W32) => le 4 e.1.toNat ++ le 4 e.2.toNat)

/-- The result tiles of a unit's lists (R227, R228). -/
def LoupeSt.results (l : LoupeSt) (cfg : LoupeCfg) (work : W32) : List Tile :=
  let (q, n) := loupeTiles cfg
  (List.range n).map (fun i =>
    let rows := min q (cfg.queries - i * q)
    { fmt := 9, last := decide (i + 1 = n), suspect := l.suspect, anchorSat := l.anchorSat, rows := rows, cols := 2 * cfg.k
      srcStation := l.station.getD 0, slot := BitVec.ofNat 16 (i * q), work := work
      payload := (List.range rows).flatMap (fun r => resultRow cfg.k (tget l.lists (i * q + r) [])) })

/-- LOUPE_CLOSE (R225, R227, R228, R230, R231): the item's input has closed; its result tiles leave as credits allow. -/
def execLoupeClose (field : FieldId) (ecc : Option EccFind) (s : State) : Result :=
  .next (
    let l := s.loupe field
    match l.workTag with
    | some w =>
      if l.closed || !s.inputClosed l then s
      else
        let s := match ecc with | some e => s.loupeError field e | none => s
        if ecc = some .uncorrectable then s.endItem w stMemory (0x7300 + field.val)
        else
          let out := l.results (s.loupeCfg l) w
          State.pumpLoupe out.length field (s.modLoupe field (fun l => { l with closed := true, outQ := out, lists := [] }))
    | none => s)

end Sys2Proof.Machine
end

