-- ==== Sys2Proof/Machine/Mgmt.lean ====
section
/-! DEFINITION. Restarts of processors, Keepsake records, the record sink, the vendor commands of the management port,
firmware update, broadcast and the management interfaces (R425-R445, R457, R458, R463). -/

namespace Sys2Proof.Machine

/-! ## Crashes and restarts (R426-R431) -/

/-- PROCESSOR_CRASH (R426): causes 1 to 4 and 6. -/
def execProcessorCrash (proc : ProcId) (cause : Fin 7) (info : CrashInfo) (s : State) : Result :=
  .next (if cause = 0 ∨ cause = 5 then s else s.crash proc cause info)

/-- What a processor does first once it runs: the master forwards waiting records, a field manager applies
retirements that waited; a bring-up that waits for it goes on (R427, R429, R435). -/
def State.restarted (s : State) (p : Nat) : State :=
  let s := s.runProc p
  let s :=
    if p = 0 then s.sendRecord
    else if p = 13 then s
    else (List.range 10).foldl (fun (s : State) i => s.settleCore (10 * (p - 1) + i)) s
  s.resume

/-! ## Activation (R439, R443, R473) -/

/-- Sends a message of a broadcast session over the route to a module (R410, R442). -/
def State.unicast (s : State) (t : Coord) (code : Nat) (data : List Nat) : State :=
  match s.cls.place.bind (fun (p : Placement) => (claspRoute p p.coord t).head?) with
  | some l => s.putManaged l (.bcastMsg t code data) (Config.messageBytes (.bcastMsg t code data))
  | none => s

/-- The outcome record of a session (R443). -/
def State.outcome (s : State) (session : W32) (o : Nat) : State := s.record 0x11 0 0xFFFF (le 4 session.toNat ++ le 1 o)

/-- SVN of a component. -/
def imageSvn (bs : List Byte) : Nat := fld bs 2 1

/-- The SVN of each component that some processor runs, with the minimum as it stands, is the new minimum (R473). -/
def State.newSvn (s : State) (t : Nat) : Nat :=
  ((List.range 14).filter (fun p => decide (imageOf p = t) && decide ((s.proc p).state = .running))).foldl
    (fun m p => max m (imageSvn (s.proc p).image)) (tget s.flash.svn t 0)

/-- The end of an activation: minimum SVNs rise to those that now run; a target reports DONE to its root, a root the outcome
(R439, R443, R473). -/
def State.activated (s : State) (a : ActSt) : State :=
  let up := (List.range 3).any (fun t => decide (tget s.flash.svn t 0 < s.newSvn t))
  let s : State := { s with
    mgmt.activation := none
    mgmt.status := setFlag s.mgmt.status 4
    flash.svn := (List.range 3).foldl (fun v t => tput v t (s.newSvn t)) s.flash.svn
    sec.status := if up then setFlag s.sec.status 4 else s.sec.status }
  match a.session, a.root with
  | some n, some root => s.unicast root 4 [n.toNat]
  | some n, none => s.outcome n a.outcome
  | none, _ => s

/-- An activation goes on to the first of its processors that runs or restarts, and restarts it; one that is halted stays halted
until FW_RESTART or PERST_N (R428, R439). -/
def State.activateFrom (s : State) (a : ActSt) (ps : List Nat) : State :=
  match ps.dropWhile (fun p => decide ((s.proc p).state = .halted) || decide ((s.proc p).state = .boot)) with
  | [] => s.activated a
  | p :: rest =>
    let s := ({ s with mgmt.activation := some { a with left := p :: rest } } : State).modProc p (fun k => { k with state := .restarting })
    if p = 0 then { s with sec.signing := none, sec.licensing := none } else s

/-- An activation whose processor now runs the new image goes on to the next; the device master carries it out (R439). -/
def State.activateOn (s : State) : State :=
  match s.mgmt.activation with
  | some a =>
    match a.left with
    | p :: rest => if s.masterUp && decide ((s.proc p).state = .running) then s.activateFrom a rest else s
    | [] => s.activated a
  | none => s

/-- Activation restarts the power sequencer, then the field managers one at a time, then the device master (R439). -/
def State.activateImages (s : State) (a : ActSt) : State := s.activateFrom a ([13] ++ managers ++ [0])

/-- PROCESSOR_RESTART (R426, R439). -/
def execProcessorRestart (proc : ProcId) (s : State) : Result :=
  .next (if (s.proc proc).state = .restarting then (s.restarted proc).activateOn else s)

/-- FW_RESTART (R434, R444). -/
def execFwRestart (hdr : VHdr) (proc : ProcId) (info : CrashInfo) (s : State) : Result :=
  .next (vendor 0x14 hdr (fun s =>
    let s := s.answer 0x14 hdr .ok
    match (s.proc proc).state with
    | .running => s.crash proc 5 info
    | .halted => s.modProc proc (fun k => { k with state := .restarting, recent := [] })
    | .restarting => s.modProc proc (fun k => { k with recent := [] })
    | .boot => s) s)

/-- A record as a Keepsake slot holds it: SLOT and RECORD_CRC set (R431). -/
def keepBytes (slot : Nat) (bs : List Byte) : List Byte :=
  let bs := putBytes bs 3 (le 1 slot)
  putBytes bs 0x40 (le 4 (crc32c (putBytes bs 0x40 (le 4 0))).toNat)

/-- Replaces a Keepsake slot as a whole. -/
def State.putKeep (s : State) (n : Nat) (data : List Byte) : State :=
  { s with flash.keepsake := tput s.flash.keepsake n data, mgmt.ksGen := tput s.mgmt.ksGen n (tget s.mgmt.ksGen n 0 + 1) }

/-- KEEPSAKE_WRITE (R430): LATEST always; FIRST if it holds none, with the first crash since the last KEEPSAKE_CLEAR. -/
def execKeepsakeWrite (proc : ProcId) (s : State) : Result :=
  .next (
    match s.masterUp, (s.proc proc).buffer with
    | true, some bs =>
      let first := (tget s.flash.keepsake (2 * proc.val) []).isEmpty && !(s.proc proc).bufOld
      let s := if first then s.putKeep (2 * proc) (keepBytes 0 bs) else s
      let s := s.putKeep (2 * proc + 1) (keepBytes 1 bs)
      ({ s with mgmt.status := setFlag s.mgmt.status 2 } : State).modProc proc (fun k => { k with buffer := none, bufOld := false })
    | _, _ => s)

/-- KEEPSAKE_READ (R432): an empty slot is answered with no bytes. -/
def execKeepsakeRead (hdr : VHdr) (proc : ProcId) (latest : Bool) (offset length : Nat) (s : State) : Result :=
  .next (vendor 0x12 hdr (fun s =>
    if 262144 < offset + length then s.answer 0x12 hdr .badForm
    else s.answer 0x12 hdr .ok (cut (tget s.flash.keepsake (2 * proc + if latest then 1 else 0) []) offset length)) s)

/-- KEEPSAKE_CLEAR (R430, R432): a record still in its buffer is of a crash before it. -/
def execKeepsakeClear (hdr : VHdr) (s : State) : Result :=
  .next (vendor 0x13 hdr (fun s =>
    let held := (s.flash.keepsake.filter (fun e => !e.2.isEmpty)).map (·.1)
    let s := held.foldl (fun (s : State) n => s.putKeep n []) s
    ({ s with mgmt.procs := tmap s.mgmt.procs (fun _ k => if k.buffer.isSome then { k with bufOld := true } else k) } : State).answer 0x13 hdr .ok) s)

/-! ## Records to the sink (R145, R146, R435) -/

/-- Sends the head of a field's Hallmark queue, unless it has been sent: field manager and port must run (R427). -/
def State.sendHallmark (s : State) (f : Nat) : State :=
  match (s.field f).hmQueue with
  | bs :: _ =>
    if (s.field f).hmSent || !s.managerUp f || !s.portUp then s
    else (s.tell s.mgmt.sinkEth (.record s.mgmt.sink { hallmark := true, bytes := bs })).modField f (fun k => { k with hmSent := true })
  | [] => s

/-- HALLMARK (R146). -/
def execHallmarkForward (field : FieldId) (s : State) : Result := .next (s.sendHallmark field)

/-- RECORD_RESEND (R435): the unanswered head once more. -/
def execRecordResend (queue : Option FieldId) (s : State) : Result :=
  .next (
    match queue with
    | none =>
      if s.mgmt.records.sent then ({ s with mgmt.records.sent := false } : State).sendRecord else s
    | some f =>
      if (s.field f).hmSent then
        (s.modField f (fun k => { k with hmSent := false })).sendHallmark f else s)

/-- RECORDS_LOST of the fault-record queue, once space has returned (R435). -/
def State.tellLost (s : State) : State :=
  if s.mgmt.lostCount = s.mgmt.lostTold then s
  else ({ s with mgmt.lostTold := s.mgmt.lostCount } : State).record 0x10 0 0xFFFF (le 1 0xFF ++ le 4 s.mgmt.lostCount.toNat)

/-- RECORDS_LOST of a field's Hallmark queue (R146). -/
def State.tellHmLost (s : State) (f : Nat) : State :=
  if (s.field f).hmLost = (s.field f).hmLostTold then s
  else (s.modField f (fun k => { k with hmLostTold := k.hmLost })).record 0x10 (1 + f) 0xFFFF (le 1 f ++ le 4 (s.field f).hmLost.toNat)

/-- RECORD_ANSWER (R435): the head is answered and the queue sends its next record. -/
def execRecordAnswer (queue : Option FieldId) (s : State) : Result :=
  .next (
    if !s.portUp then s
    else
      match queue with
      | none =>
        if !s.mgmt.records.sent then s
        else
          let s := { s with
            mgmt.records := { queue := s.mgmt.records.queue.tail, sent := false }
            mgmt.sentCount := s.mgmt.sentCount + 1 }
          s.tellLost.sendRecord
      | some f =>
        if !(s.field f).hmSent then s
        else
          let s := s.modField f (fun k => { k with hmQueue := k.hmQueue.tail, hmSent := false })
          let s := { s with mgmt.sentCount := s.mgmt.sentCount + 1 }
          (s.tellHmLost f).sendHallmark f)

/-- SET_SINK (R435). -/
def execSetSink (hdr : VHdr) (s : State) : Result :=
  .next (vendor 0x01 hdr (fun s => (({ s with mgmt.sink := some hdr.endpoint, mgmt.sinkEth := hdr.eth } : State).answer 0x01 hdr .ok).sendRecord) s)

/-- HEIRLOOM_READ (R154, R434). -/
def execHeirloomRead (hdr : VHdr) (s : State) : Result :=
  .next (vendor 0x10 hdr (fun s => s.answer 0x10 hdr .ok (s.heirloom.flatMap HRec.bytes)) s)

/-- FLOORPLAN_READ (R463): answered from the end of step 7, that is once a report has been published. -/
def execFloorplanRead (hdr : VHdr) (offset length : Nat) (s : State) : Result :=
  .next (vendor 0x11 hdr (fun s =>
    if s.gen.floorplanSeq = 0 then s.answer 0x11 hdr .state
    else if length = 0 ∨ 1008 < length ∨ 11296 < offset + length then s.answer 0x11 hdr .badForm
    else s.answer 0x11 hdr .ok (le 4 s.gen.floorplanSeq.toNat ++ cut s.gen.report offset length)) s)

/-! ## The topology manifest (R457, R458) -/

/-- A link entry of a manifest, if its values are allowed. -/
def manifestLink (bs : List Byte) : Option ManifestLink :=
  let e := fld bs 0 1
  let m := fld bs 2 1
  let lanesOk := [24, 26, 28, 30, 32].contains m
  let zero := zeros bs 1 2 && zeros bs 8 8
  if zeros bs 3 5 && (if e = 2 then decide (fld bs 1 1 < 6) && lanesOk else decide (e < 2) && zero) then
    some { expect := e, nbrLink := fld bs 1 1, minLanes := m, serial := BitVec.ofNat 64 (fld bs 8 8) }
  else none

/-- The manifest that 128 bytes spell. -/
def parseManifest (bs : List Byte) : Option Manifest :=
  let fl := fld bs 1 1
  let v := fld bs 3 1
  let good := decide (bs.length = 128) && decide (fld bs 0 1 = 1) && decide (fl < 2) && (fl == 1 || fld bs 2 1 == 0) &&
    [0, 0x60, 0x48, 0x36].contains v && decide (fld bs 0x10 1 < 4) && zeros bs 0x11 11 &&
    decide (fld bs 0x1C 4 = (crc32c (putBytes bs 0x1C (le 4 0))).toNat)
  if !good then none
  else
    ((List.range 6).mapM (fun l => manifestLink (cut bs (0x20 + 16 * l) 16))).map (fun ls =>
      { checkStraps := fl == 1, straps := BitVec.ofNat 8 (fld bs 2 1), variant := BitVec.ofNat 8 v, epoch := BitVec.ofNat 32 (fld bs 4 4)
        serial := BitVec.ofNat 64 (fld bs 8 8), licences := fld bs 0x10 1, links := ls })

/-- MANIFEST (R457, R458): used by the present bring-up, or by the next once AGREEMENT has been left. -/
def execManifest (hdr : VHdr) (bytes : List Byte) (s : State) : Result :=
  .next (vendor 0x21 hdr (fun s =>
    match parseManifest bytes with
    | none => s.answer 0x21 hdr .badForm
    | some m =>
      let late := decide (s.gen.state = .ready) || decide (s.gen.state = .stopped)
      (if late then { s with mgmt.nextManifest := some m } else { s with mgmt.manifest := some m }).answer 0x21 hdr .ok) s)

/-! ## Firmware update (R438-R440, R471-R473) -/

/-- The three components of a package that carries all of them (R439). -/
def packageParts (p : FwPackage) : Option (List (List Byte)) := [p.master, p.field, p.power].mapM id

/-- Whether every component of a package is valid. -/
def State.packageValid (s : State) (imgs : List (List Byte)) : Bool := imgs.zipIdx.all (fun x => s.imageValid x.2 x.1)

/-- Apply begins (R438, R439, R454): no image in flash is whole until it ends, and one that is not whole has no bytes here
(DESIGN CHOICE, log 133). -/
def State.applyBegin (s : State) (imgs : List (List Byte)) : State :=
  let same := imageVersion (s.image 1) == imageVersion (imgs.getD 1 [])
  { s with
    flash.images := (List.range 3).foldl (fun t i => tput t i []) s.flash.images
    flash.trained := if same then s.flash.trained else s.flash.trained.filter (fun e => decide (36 ≤ e.1)) }

/-- Apply ends: the staged images stand in flash (R438, R439). -/
def State.applyEnd (s : State) (imgs : List (List Byte)) : State :=
  { s with flash.images := imgs.zipIdx.foldl (fun t x => tput t x.2 x.1) s.flash.images }

/-- Whether a broadcast session is under way. -/
def State.inSession (s : State) : Bool := (s.mgmt.bcast.map (fun (b : BcastSt) => !b.ended)).getD false

/-- Whether a firmware update is under way: a PLDM update, or an activation. -/
def State.updating (s : State) : Bool := s.mgmt.update.isSome || s.mgmt.activation.isSome

/-- The requests for a package's bytes, 4 KiB each (R439). -/
def fwRequests (imgs : List (List Byte)) : List Output :=
  imgs.zipIdx.flatMap (fun x => (cutInto 4096 x.1).zipIdx.map (fun c => .pldmRequest (x.2 + 1) (4096 * c.2) c.1.length))

/-- One step of a PLDM update (R439, R440, R472): verification once all bytes are there, the beginning of apply, and its end, after
which the images are activated, or bring-up restarts at image verification in RECOVERY. -/
def State.updateNext (s : State) (eth : Bool) : State :=
  match s.mgmt.update with
  | none => s
  | some u =>
    let imgs := (packageParts u.pkg).getD []
    match u.stage with
    | 0 =>
      if s.packageValid imgs then
        ({ s with mgmt.staging := some u.pkg, mgmt.update := some { u with stage := 1 } } : State).tell eth (.pldmUpdate .verified)
      else ({ s with mgmt.staging := none, mgmt.update := none } : State).tell eth (.pldmUpdate .failed)
    | 1 => ({ s with mgmt.update := some { u with stage := 2 } } : State).applyBegin imgs
    | _ =>
      let s := (({ s with mgmt.update := none } : State).applyEnd imgs).tell eth (.pldmUpdate .applied)
      if s.gen.state = .recovery then s.bootImages (s.gen.bringup.getD {}) else s.activateImages {}

/-- A PLDM update goes on up to a stage (R439). -/
def State.updateTo (s : State) (eth : Bool) (upTo : Nat) : State :=
  match s.mgmt.update with
  | some u => (List.range (upTo - u.stage)).foldl (fun (s : State) _ => s.updateNext eth) s
  | none => s

/-- Whether the interfaces are served: not in RESET, and in RECOVERY, by the boot ROM, on I3C only (R427, R440). -/
def State.ifaceUp (s : State) (eth : Bool) : Bool := s.portUp || (decide (s.gen.state = .recovery) && !eth)

/-- PLDM_FIRMWARE_UPDATE (R439, R440, R444): a package that is not the one in progress, or one that comes during a broadcast
session or an activation, is refused with BUSY. A crash of the device master leaves the update in its stage, from which it
goes on. -/
def execPldmFirmwareUpdate (pkg : FwPackage) (upTo : Fin 4) (eth : Bool) (s : State) : Result :=
  .next (
    if !s.ifaceUp eth then s
    else
      match s.mgmt.update with
      | some u => if u.pkg = pkg then s.updateTo eth upTo else s.tell eth (.pldmUpdate .busy)
      | none =>
        if s.inSession || s.updating then s.tell eth (.pldmUpdate .busy)
        else
          match packageParts pkg with
          | none => s.tell eth (.pldmUpdate .refused)
          | some imgs =>
            let s := ({ s with mgmt.update := some { pkg := pkg } } : State).tell eth (.pldmUpdate .accepted)
            ((fwRequests imgs).foldl (fun (s : State) o => s.tell eth o) s).updateTo eth upTo)

/-- RECOVERY_ENTER (R440, R444): a device that Viral has stopped leaves STOPPED only through PERST_N, and answers STATE
(R303; log 115). -/
def execRecoveryEnter (hdr : VHdr) (s : State) : Result :=
  .next (vendor 0x50 hdr (fun s =>
    if s.inSession || s.updating then s.answer 0x50 hdr .busy
    else if !s.gen.stopViral && (s.gen.state == .stopped || s.gen.state == .booting || s.gen.state == .training) then (s.answer 0x50 hdr .ok).enterRecovery
    else s.answer 0x50 hdr .state) s)

/-! ## Broadcast (R441-R443) -/

/-- Coordinates in a target box. -/
def inBox (lo hi c : Coord) : Bool :=
  decide (lo.x ≤ c.x) && decide (c.x ≤ hi.x) && decide (lo.y ≤ c.y) && decide (c.y ≤ hi.y) && decide (lo.z ≤ c.z) && decide (c.z ≤ hi.z)

/-- The coordinates of a box. -/
def boxCoords (lo hi : Coord) : List Coord :=
  (List.range (hi.x + 1 - lo.x)).flatMap (fun x => (List.range (hi.y + 1 - lo.y)).flatMap (fun y =>
    (List.range (hi.z + 1 - lo.z)).map (fun z => ({ x := lo.x + x, y := lo.y + y, z := lo.z + z } : Coord))))

/-- The targets of a session: the box without the root. -/
def bcastTargets (root lo hi : Coord) : List Coord := (boxCoords lo hi).filter (fun c => c != root)

/-- The package header, the first broadcast block: component lengths, root and box. -/
def bcastHeader (imgs : List (List Byte)) (root lo hi : Coord) : List Byte :=
  padTo 4096 (imgs.flatMap (fun (i : List Byte) => le 4 i.length) ++
    ([root, lo, hi].flatMap (fun (c : Coord) => le 1 c.x ++ le 1 c.y ++ le 1 c.z)))

/-- Coordinates in a header, by their place. -/
def headerCoord (h : List Byte) (i : Nat) : Coord := { x := fld h (12 + 3 * i) 1, y := fld h (13 + 3 * i) 1, z := fld h (14 + 3 * i) 1 }

/-- The broadcast blocks of a package. -/
def bcastBlocks (imgs : List (List Byte)) (root lo hi : Coord) : List (List Byte) :=
  bcastHeader imgs root lo hi :: (cutInto 4096 imgs.flatten).map (padTo 4096)

/-- The links by which a module forwards broadcast blocks: those by which the tree from the root goes on from it. -/
def bcastLinks (p : Placement) (root lo hi : Coord) : List Nat :=
  ((bcastTargets root lo hi).filterMap (fun t =>
    let here := claspRoute p root p.coord
    let on := claspRoute p p.coord t
    if claspRoute p root t = here ++ on then on.head? else none)).eraseDups

/-- A broadcast block as it crosses a link: SESSION, INDEX, TOTAL, CRC-32C and its payload (R441). -/
def bcastBytes (session : W32) (i total : Nat) (payload : List Byte) : List Byte :=
  le 4 session.toNat ++ le 4 i ++ le 4 total ++ le 4 (crc32c payload).toNat ++ payload

/-- A broadcast block in MANAGEMENT blocks on every link by which it goes on (R396, R441). -/
def State.forwardBlock (s : State) (links : List Nat) (session : W32) (i total : Nat) (payload : List Byte) : State :=
  let bs := bcastBytes session i total payload
  links.foldl (fun (s : State) l => s.putManaged l (.bcastBlock l session i bs) bs) s

/-- BCAST_START (R441, R444). -/
def execBcastStart (hdr : VHdr) (session : W32) (lo hi : Coord) (s : State) : Result :=
  .next (vendor 0x40 hdr (fun s =>
    if s.inSession || s.updating then s.answer 0x40 hdr .busy
    else
      match s.mgmt.staging.bind packageParts, s.cls.place with
      | some imgs, some p =>
        if !(Placement.holds p hi && decide (lo.x ≤ hi.x) && decide (lo.y ≤ hi.y) && decide (lo.z ≤ hi.z)) then s.answer 0x40 hdr .badForm
        else
          let bs := bcastBlocks imgs p.coord lo hi
          let links := bcastLinks p p.coord lo hi
          let s := ({ s with mgmt.bcast := some { session := session, root := true, lo := lo, hi := hi, total := bs.length } } : State).answer 0x40 hdr .ok
          bs.zipIdx.foldl (fun (s : State) x => s.forwardBlock links session x.2 bs.length x.1) s
      | _, _ => s.answer 0x40 hdr .state) s)

/-- Targets that have not confirmed activation (R443). -/
def BcastSt.open_ (b : BcastSt) (root : Coord) : List Coord := (bcastTargets root b.lo b.hi).filter (fun c => !b.done.contains c)

/-- This module's coordinates. -/
def State.here (s : State) : Coord := (s.cls.place.map (fun (p : Placement) => p.coord)).getD {}

/-- BCAST_STATUS (R443): session, whether it activates or has ended, and the targets that have not confirmed. -/
def execBcastStatus (hdr : VHdr) (s : State) : Result :=
  .next (vendor 0x41 hdr (fun s =>
    match s.mgmt.bcast with
    | none => s.answer 0x41 hdr .ok (le 8 0)
    | some b =>
      let left := if b.root then BcastSt.open_ b s.here else []
      s.answer 0x41 hdr .ok (le 4 b.session.toNat ++ le 1 (if b.ended then 2 else if b.activating then 1 else 0) ++ le 3 left.length ++
        left.flatMap (fun c => le 1 c.x ++ le 1 c.y ++ le 1 c.z))) s)

/-- A unicast message to every target. -/
def State.tellTargets (s : State) (b : BcastSt) (code : Nat) : State :=
  (bcastTargets s.here b.lo b.hi).foldl (fun (s : State) t => s.unicast t code [b.session.toNat]) s

/-- A session fails at its root (R442). -/
def State.bcastFail (s : State) (b : BcastSt) : State := (({ s with mgmt.bcast := none } : State).tellTargets b 2).outcome b.session 1

/-- BCAST_ABORT (R442): the command at the root, or the root's message at a target. -/
def execBcastAbort (hdr : VHdr) (s : State) : Result :=
  .next (vendor 0x42 hdr (fun s =>
    match s.mgmt.bcast with
    | some b =>
      if b.activating || b.ended then s.answer 0x42 hdr .state
      else if b.root then (s.answer 0x42 hdr .ok).bcastFail b
      else ({ s with mgmt.bcast := none, mgmt.staging := none } : State).answer 0x42 hdr .ok
    | none => s.answer 0x42 hdr .state) s)

/-- The package that a target's blocks spell. -/
def bcastPackage (data : List (Nat × List Byte)) (total : Nat) : List (List Byte) :=
  let h := tget data 0 []
  let all := (List.range (total - 1)).flatMap (fun i => tget data (i + 1) [])
  let a := fld h 0 4
  let b := fld h 4 4
  [cut all 0 a, cut all a b, cut all (a + b) (fld h 8 4)]

/-- A target whose bitmap is complete verifies the components; its verdict waits for the next roll call (R442). -/
def State.bcastComplete (s : State) (b : BcastSt) (here : Coord) : State :=
  let imgs := bcastPackage b.data b.total
  if s.packageValid imgs then
    { s with
      mgmt.staging := some { master := imgs[0]?, field := imgs[1]?, power := imgs[2]? }
      mgmt.bcast := some { b with matched := [here] } }
  else { s with mgmt.bcast := some b }

/-- The blocks that a target lacks. -/
def BcastSt.lacks (b : BcastSt) : List Nat := (List.range b.total).filter (fun i => !b.have_.contains i)

/-- A target's answer in a roll call, for the root that the package header names: the blocks it lacks, MATCH (1) or
MISMATCH (2). A target without the header knows no root to answer, and the root's poll finds it silent (R442). -/
def State.rollAnswer (s : State) (b : BcastSt) : State :=
  match b.ended, tget? b.data 0 with
  | false, some h =>
    let lacks := BcastSt.lacks b
    let code := if !lacks.isEmpty then 0 else if b.matched.isEmpty then 2 else 1
    s.unicast (headerCoord h 0) 5 ([b.session.toNat, code] ++ lacks)
  | _, _ => s

/-- A target takes a block that it does not hold yet: it marks it, forwards what it may forward and checks whether its
bitmap is complete. A module outside the box only forwards. -/
def State.takeBlock (s : State) (p : Placement) (b : BcastSt) (index : Nat) (payload : List Byte) : State :=
  let b := { b with have_ := b.have_ ++ [index], data := b.data ++ [(index, payload)] }
  match tget? b.data 0 with
  | none => { s with mgmt.bcast := some b }
  | some h =>
    let root := headerCoord h 0
    let lo := headerCoord h 1
    let hi := headerCoord h 2
    let links := bcastLinks p root lo hi
    let go := if index = 0 then b.data else [(index, payload)]
    let s := go.foldl (fun (s : State) e => s.forwardBlock links b.session e.1 b.total e.2) s
    let b := { b with lo := lo, hi := hi }
    if !inBox lo hi p.coord then { s with mgmt.bcast := some { b with ended := true } }
    else if b.have_.length = b.total then s.bcastComplete b p.coord
    else { s with mgmt.bcast := some b }

/-- BROADCAST_BLOCK (R441, R444): a block of another session than the one held, a block already held, a block that fails its CRC
and one that comes during an update are not marked. -/
def execBroadcastBlock (session : W32) (index total : Nat) (crc : W32) (payload : List Byte) (s : State) : Result :=
  .next (
    match s.portUp, s.cls.place with
    | true, some p =>
      if payload.length ≠ 4096 ∨ crc ≠ crc32c payload ∨ total ≤ index ∨ s.updating = true then s
      else
        match s.mgmt.bcast with
        | some b =>
          if b.session = session ∧ b.root = false then
            if b.have_.contains index then s else s.takeBlock p b index payload
          else if b.ended then s.takeBlock p { session := session, total := total } index payload
          else s
        | none => s.takeBlock p { session := session, total := total } index payload
    | _, _ => s)

/-- What the root makes of one target's answer in a roll call: whether the session fails, and the session. -/
def BcastSt.hear (b : BcastSt) (t : Coord) (a : RollAnswer) : Bool × BcastSt :=
  let miss := fun (n : Nat) => { b with missed := (b.missed.filter (fun x => x.1 != t)) ++ [(t, n)] }
  match a with
  | .silent =>
    let n := ((b.missed.find? (fun x => x.1 == t)).map (·.2)).getD 0 + 1
    (decide (3 ≤ n), miss n)
  | .missing blocks => (decide (8 ≤ b.rounds) && !blocks.isEmpty, miss 0)
  | .matched => (false, { miss 0 with matched := b.matched ++ (if b.matched.contains t then [] else [t]) })
  | .mismatch => (true, b)
  | .busy => (true, b)

/-- The blocks that a target reports missing. -/
def RollAnswer.repairs : RollAnswer → List Nat
  | .missing blocks => blocks
  | _ => []

/-- Applies and activates the staged package in a session; nothing staged, nothing is activated (R443). -/
def State.activateStaged (s : State) (a : ActSt) : State :=
  match s.mgmt.staging.bind packageParts with
  | some imgs => ((s.applyBegin imgs).applyEnd imgs).activateImages a
  | none => s.activated a

/-- The root activates last and reports the outcome (R443). -/
def State.bcastFinish (s : State) (b : BcastSt) (o : Nat) : State :=
  ({ s with mgmt.bcast := some { b with ended := true } } : State).activateStaged { session := some b.session, outcome := o }

/-- What the root makes of a roll call: repairs, failure, or ACTIVATE once every target matches (R442, R443). -/
def State.pollTargets (s : State) (b : BcastSt) (answers : List (Coord × RollAnswer)) : State :=
  let ts := bcastTargets s.here b.lo b.hi
  let said := fun (t : Coord) => ((answers.find? (fun x => x.1 == t)).map (·.2)).getD RollAnswer.silent
  let blocks := ((s.mgmt.staging.bind packageParts).map (fun imgs => bcastBlocks imgs s.here b.lo b.hi)).getD []
  let s := s.tellTargets b 0
  let s := ts.foldl (fun (s : State) t => (RollAnswer.repairs (said t)).foldl (fun (s : State) i =>
    s.unicast t 1 ([b.session.toNat, i] ++ (blocks.getD i []).map (·.toNat))) s) s
  let heard := ts.foldl (fun (x : Bool × BcastSt) t =>
    let y := BcastSt.hear x.2 t (said t)
    (x.1 || y.1, y.2)) (false, { b with rounds := b.rounds + 1 })
  if heard.1 then s.bcastFail heard.2
  else if ts.all (fun t => heard.2.matched.contains t) then
    let b := { heard.2 with activating := true }
    let s := s.tellTargets b 3
    if ts.isEmpty then s.bcastFinish b 0 else { s with mgmt.bcast := some b }
  else { s with mgmt.bcast := some heard.2 }

/-- A target's answer to the root of a session that asks: its own, or BUSY when it holds another session or a PLDM update
(R442, R444). Without either it answers nothing. -/
def State.answerRoll (s : State) (session : W32) (root : Coord) : State :=
  match s.mgmt.bcast.filter (fun (b : BcastSt) => b.session == session && !b.root && !b.ended) with
  | some b => s.rollAnswer b
  | none => if s.inSession || s.updating then s.unicast root 5 [session.toNat, 3] else s

/-- ROLL_CALL (R442, R443): at the root of a session the poll of its targets, at a target its answer. -/
def execRollCall (asked : Option (W32 × Coord)) (answers : List (Coord × RollAnswer)) (s : State) : Result :=
  .next (
    if !s.portUp then s
    else
      match asked, s.mgmt.bcast with
      | some (session, root), _ => s.answerRoll session root
      | none, some b => if b.root && !b.activating && !b.ended then s.pollTargets b answers else s
      | none, none => s)

/-- ACTIVATE at a target (R443): apply, activate, DONE. -/
def execActivate (session : W32) (s : State) : Result :=
  .next (
    match s.portUp, s.mgmt.bcast with
    | true, some b =>
      if b.root || b.session ≠ session || b.matched.isEmpty then s
      else
        let root := headerCoord (tget b.data 0 []) 0
        ({ s with mgmt.bcast := none } : State).activateStaged { session := some session, root := some root }
    | _, _ => s)

/-- BCAST_DONE (R443): once every DONE is in, the root activates; one that comes later is still recorded. -/
def execBcastDone (target : Coord) (s : State) : Result :=
  .next (
    match (if s.portUp then s.mgmt.bcast else none) with
    | some b =>
      if !b.root || !b.activating || b.done.contains target || !(bcastTargets s.here b.lo b.hi).contains target then s
      else
        let b := { b with done := b.done ++ [target] }
        if !b.ended && (BcastSt.open_ b s.here).isEmpty then s.bcastFinish b 0 else { s with mgmt.bcast := some b }
    | none => s)

/-- ACTIVATE_TIMEOUT (R443). -/
def execActivateTimeout (s : State) : Result :=
  .next (
    match (if s.portUp then s.mgmt.bcast else none) with
    | some b => if b.root && b.activating && !b.ended then s.bcastFinish b 2 else s
    | none => s)

/-! ## PLDM sensors and the interfaces (R433, R437) -/

/-- The numeric sensors: input power, field temperatures, memory temperatures, device low-water voltage. -/
def State.numericSensors (s : State) (mem : List Nat) : List Nat :=
  [s.thm.estDev.toNat] ++ (List.range 12).map (fun f => (tget s.thm.fieldTemp f 0).toNat) ++
    (List.range 72).map (fun i => mem.getD i 0) ++ [s.pwr.lwDev.mv.toNat]

/-- The state sensors: GEN_STATE.STATE, REPLACE_REQ, COOLANT_OK and the state of each link. -/
def State.stateSensors (s : State) : List Nat :=
  [s.gen.state.code, if s.gen.replaceReq then 1 else 0, if s.thm.coolantOk then 1 else 0] ++ (List.range 6).map (fun l => (s.link l).state.code)

/-- A PLDM request that reads; in RECOVERY the boot ROM supports Types 0 and 5 alone (R437, R440). -/
def State.pldmRead (s : State) (eth : Bool) (get : PldmGet) : State :=
  match get with
  | .types => s.tell eth (.pldmTypes (if s.gen.state = .recovery then [0, 5] else [0, 2, 4, 5]))
  | .sensor n => if s.gen.state = .recovery then s else s.tell eth (.pldm n (tget s.mgmt.pldm n 0))
  | .fru =>
    if s.gen.state = .recovery then s
    else s.tell eth (.fru s.part.serial s.part.variant s.part.stepping (bit s.gen.cl + 2 * bit s.gen.lp) (Config.orderingCode s.part.variant))

/-- The sensors are read anew: numeric sensors are numbered 0 to 85, state sensors from 86; a state sensor that has changed since
the last update is sent as an event (R437). -/
def State.readSensors (s : State) (memTemps : List Nat) : State :=
  let st := (s.stateSensors.zipIdx 86).map (fun x => (x.2, x.1))
  let changed := st.filter (fun x =>
    match tget? s.mgmt.pldm x.1 with
    | some v => v != x.2
    | none => false)
  let s := changed.foldl (fun (s : State) x => s.tell s.mgmt.sinkEth (.pldm x.1 x.2)) s
  { s with
    mgmt.sensors := memTemps
    mgmt.pldm := (s.numericSensors memTemps).zipIdx.map (fun x => (x.2, x.1)) ++ st }

/-- PLDM_SENSOR_UPDATE (R437). -/
def execPldmSensorUpdate (memTemps : List Nat) (get : Option (Bool × PldmGet)) (s : State) : Result :=
  .next (
    match get with
    | some (eth, g) => if s.ifaceUp eth then s.pldmRead eth g else s
    | none => if s.portUp then s.readSensors memTemps else s)

/-- LINK_LOCAL_FALLBACK (R433): 169.254.0.0/16. -/
def execLinkLocalFallback (addr : W32) (s : State) : Result :=
  .next (if s.ifaceUp true ∧ s.mgmt.ipv4 = none ∧ addr >>> 16 = 0xA9FE then { s with mgmt.ipv4 := some addr, mgmt.sgmiiUp := true } else s)

/-- DHCP_LEASE (R433). -/
def execDhcpLease (addr : W32) (s : State) : Result :=
  .next (if s.ifaceUp true then { s with mgmt.ipv4 := some addr, mgmt.sgmiiUp := true } else s)

/-- SET_ENDPOINT_ID (R433). -/
def execSetEndpointId (eth : Bool) (eid : Byte) (s : State) : Result :=
  .next (if !s.ifaceUp eth then s else if eth then { s with mgmt.eidEth := eid } else { s with mgmt.eidI3c := eid })

/-- ENTDAA (R433): the device gives its provisional ID and takes a dynamic address. -/
def execEntdaa (addr : Byte) (s : State) : Result :=
  .next (if s.ifaceUp false then { s.put (.provisionalId (Config.provisionalId s.part.serial)) with mgmt.i3cAddr := addr } else s)

end Sys2Proof.Machine
end

