-- ==== Sys2Proof/Machine/Security.lean ====
section
/-! DEFINITION. Attestation, licences and the secured session for IDE (R468-R482). -/

namespace Sys2Proof.Machine

/-! ## Attestation (R476) -/

/-- The image of a type that runs: of the field managers, which may differ while they activate one by one, the first (DEDUCED,
log 134). -/
def State.running (s : State) (t : Nat) : List Byte := (s.proc (if t = 0 then 0 else if t = 1 then 1 else 13)).image

/-- Whether an image in flash differs from what a processor runs. -/
def State.imageDiffers (s : State) : Bool :=
  (List.range 14).any (fun p => decide ((s.proc p).state = .running) && (s.proc p).image != s.image (imageOf p))

/-- The report's bytes before the signature. -/
def State.attestBody (s : State) (nonce : List Byte) : List Byte :=
  let flags := (if s.gen.replaceReq then 1 else 0) + (if s.asy.state = .armed then 2 else 0) + (if s.imageDiffers then 4 else 0)
  let imgs := (List.range 3).map s.running
  le 1 1 ++ le 1 (variantCode s.part.variant) ++ le 1 s.part.stepping.toNat ++ le 1 s.gen.state.code ++
    le 1 ((if s.gen.cl then 1 else 0) + if s.gen.lp then 2 else 0) ++ le 1 flags ++ le 2 0 ++ le 8 s.part.serial.toNat ++ le 8 s.now ++
    le 4 s.flash.minutes.toNat ++ le 4 s.gen.floorplanSeq.toNat ++ padTo 32 nonce ++
    imgs.flatMap (fun i => le 4 (imageVersion i)) ++ le 4 s.part.romVersion.toNat ++ imgs.flatMap (fun i => le 1 (imageSvn i)) ++ le 1 0 ++
    le 4 s.asy.lastRef.toNat ++ le 8 0 ++ imgs.flatMap sha384 ++ le 16 0

/-- A signature by the identity key over the SHA-384 digest of a message; its scalar is a free value (R468, R469). -/
def State.signed (s : State) (m : List Byte) : List Byte :=
  ecdsaSign (scalar s.part.identity) (scalar (Config.signScalar s.free)) (sha384 m)

/-- REPORT (R476): the report is signed, which takes a free time of at most 50 ms; one that comes meanwhile is answered BUSY. -/
def execAttestReport (hdr : VHdr) (other : Option Byte) (nonce : List Byte) (s : State) : Result :=
  .next (vendor 0x30 hdr (fun s =>
    if other.any (fun op => op != 0x00 && op != 0x01) || decide (nonce.length ≠ 32) then s.answer 0x30 hdr .badForm
    else if s.sec.signing.isSome then s.answer 0x30 hdr .busy
    else
      let (x, s) := s.fresh32
      { s with sec.signing := some { hdr := hdr, nonce := nonce, due := s.stamp + BitVec.ofNat 64 (x.toNat % 50000001) } }) s)

/-- The report is signed and answered (R476). -/
def State.finishReport (s : State) (k : SignSt) : State :=
  let s := { s with sec.signing := none }
  if !s.portUp then s
  else
    let body := s.attestBody k.nonce
    ({ s with free := s.free + 1 } : State).answer 0x30 k.hdr .ok (body ++ s.signed body)

/-- Bytes of the device chain, after its total length; none when LENGTH is out of range (R474, R476). -/
def State.chainBytes (s : State) (offset length : Nat) : Option (List Byte) :=
  let chain := s.flash.chain.take 4096
  if length = 0 ∨ 1024 < length then none else some (le 2 chain.length ++ cut chain offset length)

/-- CHAIN (R476). -/
def execAttestChain (hdr : VHdr) (offset length : Nat) (s : State) : Result :=
  .next (vendor 0x30 hdr (fun s =>
    match s.chainBytes offset length with
    | some bs => s.answer 0x30 hdr .ok bs
    | none => s.answer 0x30 hdr .badForm) s)

/-! ## Licences (R477-R481) -/

/-- Features in effect, as FEATURES names them. -/
def State.features (s : State) : Nat := (if s.gen.cl then 1 else 0) + if s.gen.lp then 2 else 0

/-- The slot that a valid file takes: the slot of an invalid licence with its id, else the lowest empty one, else the
lowest that holds an invalid licence; none when all hold valid ones (R478). -/
def State.licenceSlot (s : State) (id : W32) : Option Nat :=
  let slots := List.range 8
  let bad := fun (n : Nat) => ((tget? s.flash.licences n).map (fun (l : Licence) => !l.valid)).getD false
  (slots.find? (fun n => bad n && ((tget? s.flash.licences n).map (fun (l : Licence) => l.id)) == some id)).or
    ((slots.find? (fun n => (tget? s.flash.licences n).isNone)).or (slots.find? bad))

/-- The verdict on an INSTALL whose form is good, and the slot for a file that is installed (R478). -/
def State.licenceVerdict (s : State) (bs : List Byte) : Nat × Option Nat :=
  let id := BitVec.ofNat 32 (fld bs 4 4)
  let f := fld bs 1 1
  if fld bs 8 8 ≠ s.part.serial.toNat then (1, none)
  else if !s.licenceSigned bs then (2, none)
  else if s.flash.licences.any (fun e => e.2.valid && e.2.id == id) || decide (f &&& s.features = f) then (3, none)
  else
    match s.licenceSlot id with
    | none => (4, none)
    | some n => (0, some n)

/-- Whether LICENCE is answered in the present state. -/
def State.licensable (s : State) : Bool := decide (s.gen.state = .ready) || decide (s.gen.state = .stopped)

/-- An INSTALL that does not install (R478, R482). -/
def State.refuseInstall (s : State) : State := { s with sec.licRefused := sat s.sec.licRefused }

/-- An INSTALL as it is judged and answered (R477-R479). -/
def State.installLicence (s : State) (hdr : VHdr) (file : List Byte) : State :=
  if !s.licensable then s.refuseInstall.answer 0x31 hdr .state
  else if !licenceForm file then s.refuseInstall.answer 0x31 hdr .badForm
  else
    match s.licenceVerdict file with
    | (0, some n) =>
      let l : Licence := { id := BitVec.ofNat 32 (fld file 4 4), features := fld file 1 1, valid := true, file := file }
      (({ s with flash.licences := tput s.flash.licences n l } : State).countSlots).answer 0x31 hdr .ok (le 1 0)
    | (v, _) => s.refuseInstall.answer 0x31 hdr .ok (le 1 v)

/-- The device master takes up a LICENCE request, one at a time; handling takes a free time (R478, log 134). -/
def State.takeLicence (s : State) (hdr : VHdr) (file : Option (List Byte)) : State :=
  let (x, s) := s.fresh32
  { s with sec.licensing := some { hdr := hdr, file := file, due := s.stamp + x.setWidth 64 } }

/-- INSTALL (R477-R479): answered STATE outside READY and STOPPED, BUSY while another LICENCE is handled. -/
def execLicenceInstall (hdr : VHdr) (file : List Byte) (s : State) : Result :=
  .next (vendor 0x31 hdr (fun s =>
    if !s.licensable then s.refuseInstall.answer 0x31 hdr .state
    else if s.sec.licensing.isSome then s.refuseInstall.answer 0x31 hdr .busy
    else s.takeLicence hdr (some file)) s)

/-- The entry of a licence slot in LIST. -/
def licenceEntry (l : Option Licence) : List Byte :=
  match l with
  | some l => le 4 l.id.toNat ++ le 1 l.features ++ le 1 (if l.valid then 1 else 0) ++ le 2 0
  | none => le 8 0

/-- A LIST as it is answered (R478). -/
def State.listLicences (s : State) (hdr : VHdr) : State :=
  if !s.licensable then s.answer 0x31 hdr .state
  else s.answer 0x31 hdr .ok ((List.range 8).flatMap (fun n => licenceEntry (tget? s.flash.licences n)))

/-- LIST (R478). -/
def execLicenceList (hdr : VHdr) (s : State) : Result :=
  .next (vendor 0x31 hdr (fun s =>
    if !s.licensable then s.answer 0x31 hdr .state
    else if s.sec.licensing.isSome then s.answer 0x31 hdr .busy
    else s.takeLicence hdr none) s)

/-- The LICENCE request that is handled is answered. -/
def State.finishLicence (s : State) (k : LicSt) : State :=
  let s := { s with sec.licensing := none }
  if !s.portUp then s
  else
    match k.file with
    | some file => s.installLicence k.hdr file
    | none => s.listLicences k.hdr

/-- A Y or Z link as CL takes effect: it begins to train, or shows what keeps it OFF; a report tells the change (R422, R461,
R480). -/
def State.licenceLink (s : State) (l : Nat) : State :=
  let c := s.linkOffCause l
  (if c = 0 then s.beginTraining l else s.modLink l (fun k => { k with offCause := BitVec.ofNat 3 c })).linkChanged

/-- LICENCE_EFFECT (R480): the features stored and not yet in effect take effect; Loupe units are tested and powered,
lanes of the Y and Z links tested and the links left to train. -/
def execLicenceEffect (loupeFail : List Nat) (laneFail : List (Nat × Nat)) (s : State) : Result :=
  .next (
    let cl := s.licensed.testBit 0 && !s.gen.cl
    let lp := s.licensed.testBit 1 && !s.gen.lp
    if !s.licensable || !s.masterUp || !(cl || lp) then s
    else
      let s := { s with gen.cl := s.gen.cl || cl, gen.lp := s.gen.lp || lp, sec.status := setFlag s.sec.status 0 }
      let s := if lp then (List.range 12).foldl (fun (s : State) f => s.testLoupe loupeFail f) s else s
      let s := s.publish
      if cl then [2, 3, 4, 5].foldl State.licenceLink ((laneFail.filter (fun x => decide (2 ≤ x.1))).foldl State.testLane s) else s)

/-! ## The secured session (R474, R475) -/

/-- Whether the DOE mailbox and its responder, the device master, answer. -/
def State.doeUp (s : State) : Bool := s.portUp && !s.cxl.d3

/-- CHAIN_READ (R474). -/
def execChainRead (offset length : Nat) (s : State) : Result :=
  .next (
    match s.doeUp, s.chainBytes offset length with
    | true, some bs => s.put (.doe bs)
    | _, _ => s)

/-- SESSION_START (R474, R475): the session's keys, and SESSION_ACCEPT. A key that is no point of the curve is answered nothing
(DESIGN CHOICE, log 13). -/
def execSessionStart (hostKey hostNonce : List Byte) (s : State) : Result :=
  .next (
    if !s.doeUp || (keyPoint hostKey).isNone || decide (hostNonce.length ≠ 32) then s
    else
      let d := scalar (Config.sessionScalar s.free)
      let nonce := padTo 32 (Config.sessionNonce s.free)
      let accept := publicKey d ++ nonce
      let okm := hkdf96 (ecdhX d hostKey) (hostNonce ++ nonce)
      ({ s with
        free := s.free + 1
        sec.sessions := sat s.sec.sessions
        sec.session := some { h2dKey := cut okm 0 32, d2hKey := cut okm 32 32, h2dIv := cut okm 64 12, d2hIv := cut okm 76 12 } } : State).put
          (.doe (accept ++ s.signed (hostKey ++ hostNonce ++ accept))))

/-- The GCM nonce of a message: its IV base XOR SEQ, SEQ in the low 8 bytes, little-endian (R14, R475). -/
def sessionIv (iv : List Byte) (seq : Nat) : List Byte := xorBytes iv (le 12 seq)

/-- The session ends (R475). -/
def State.endSession (s : State) : State := { s with sec.session := none, sec.status := setFlag s.sec.status 2 }

/-- SESSION_DATA (R474, R475). -/
def execSessionData (seq : Nat) (cipher tag : List Byte) (s : State) : Result :=
  .next (
    match s.doeUp, s.sec.session with
    | true, some k =>
      match (if seq = k.rxSeq then gcmOpen k.h2dKey (sessionIv k.h2dIv seq) cipher tag else none) with
      | none => s.endSession
      | some msg =>
        let ide := Config.ideKm msg s.sec.ideIo s.sec.ideCm
        let ans := gcmSeal k.d2hKey (sessionIv k.d2hIv k.txSeq) (Config.ideKmAnswer msg)
        ({ s with
          sec.session := some { k with rxSeq := k.rxSeq + 1, txSeq := k.txSeq + 1 }
          sec.ideIo := ide.1, sec.ideCm := ide.2
          sec.kmIn := s.sec.kmIn ++ [msg] } : State).put (.doe (le 8 k.txSeq ++ ans.1 ++ padTo 16 ans.2))
    | _, _ => s)

/-- IDE_KM_OUTSIDE_SESSION (R475). The message stands outside a SESSION_DATA whether or not a session is open. -/
def execIdeKmOutside (_msg : List Byte) (s : State) : Result :=
  .next (if s.doeUp then { s with sec.status := setFlag s.sec.status 3 } else s)

end Sys2Proof.Machine
end

