-- ==== Sys2Proof/Machine/Dispatch.lean ====
section
/-! DEFINITION. The command dispatch: one arm per command. -/

namespace Sys2Proof.Machine

def exec (i : Instr) (s : State) : Host.Outcome State Fault Refusal :=
  match i with
  | .doorbell ring size off value => Sys2Proof.Machine.execDoorbell ring size off value s
  | .descriptorFetch mem cplBad => Sys2Proof.Machine.execDescriptorFetch mem cplBad s
  | .nopDesc ring => Sys2Proof.Machine.execNopDesc ring s
  | .work ring mem => Sys2Proof.Machine.execWork ring mem s
  | .abort ring => Sys2Proof.Machine.execAbort ring s
  | .jobOpen ring => Sys2Proof.Machine.execJobOpen ring s
  | .loadStations ring mem => Sys2Proof.Machine.execLoadStations ring mem s
  | .loadStrands ring mem => Sys2Proof.Machine.execLoadStrands ring mem s
  | .jobCommit ring killed => Sys2Proof.Machine.execJobCommit ring killed s
  | .jobClose ring => Sys2Proof.Machine.execJobClose ring s
  | .jobCloseComplete job => Sys2Proof.Machine.execJobCloseComplete job s
  | .jobKill ring => Sys2Proof.Machine.execJobKill ring s
  | .lktPoolAdd ring => Sys2Proof.Machine.execLktPoolAdd ring s
  | .lktPoolRemove ring => Sys2Proof.Machine.execLktPoolRemove ring s
  | .lktMap ring lender => Sys2Proof.Machine.execLktMap ring lender s
  | .lktUnmap ring => Sys2Proof.Machine.execLktUnmap ring s
  | .lktPin ring => Sys2Proof.Machine.execLktPin ring s
  | .lktRead ring => Sys2Proof.Machine.execLktRead ring s
  | .feastBind ring => Sys2Proof.Machine.execFeastBind ring s
  | .feastUnbind ring => Sys2Proof.Machine.execFeastUnbind ring s
  | .feastRead ring => Sys2Proof.Machine.execFeastRead ring s
  | .seqOpen ring => Sys2Proof.Machine.execSeqOpen ring s
  | .seqPause ring => Sys2Proof.Machine.execSeqPause ring s
  | .seqResume ring => Sys2Proof.Machine.execSeqResume ring s
  | .seqClose ring => Sys2Proof.Machine.execSeqClose ring s
  | .seqReset ring => Sys2Proof.Machine.execSeqReset ring s
  | .completion tag writeOk => Sys2Proof.Machine.execCompletion tag writeOk s
  | .heldCompletionWrite ring writeOk => Sys2Proof.Machine.execHeldCompletionWrite ring writeOk s
  | .hostStall tag => Sys2Proof.Machine.execHostStall tag s
  | .hostAbort tag => Sys2Proof.Machine.execHostAbort tag s
  | .hostTileWrite strand writeOk => Sys2Proof.Machine.execHostTileWrite strand writeOk s
  | .interruptCoalesceExpiry vector => Sys2Proof.Machine.execInterruptCoalesceExpiry vector s
  | .ringEnable ring => Sys2Proof.Machine.execRingEnable ring s
  | .ringDisable ring => Sys2Proof.Machine.execRingDisable ring s
  | .d3hotRequest d3 => Sys2Proof.Machine.execD3hotRequest d3 s
  | .hdmCommit base size ways => Sys2Proof.Machine.execHdmCommit base size ways s
  | .cxlMemRequest addr write poison linkFail wire proto => Sys2Proof.Machine.execCxlMemRequest addr write poison linkFail wire proto s
  | .cxlLinkDown ideFailure => Sys2Proof.Machine.execCxlLinkDown ideFailure s
  | .viral => Sys2Proof.Machine.execViral s
  | .registerWrite port space offset size value => Sys2Proof.Machine.execRegisterWrite port space offset size value s
  | .rllRead port space offset size => Sys2Proof.Machine.execRllRead port space offset size s
  | .asyOpen => Sys2Proof.Machine.execAsyOpen s
  | .asyCommit => Sys2Proof.Machine.execAsyCommit s
  | .asyRefWrite value => Sys2Proof.Machine.execAsyRefWrite value s
  | .assaySweep upTo flips => Sys2Proof.Machine.execAssaySweep upTo flips s
  | .hostStop on => Sys2Proof.Machine.execHostStop on s
  | .wakeClear field => Sys2Proof.Machine.execWakeClear field s
  | .retentionRearm field => Sys2Proof.Machine.execRetentionRearm field s
  | .lwReset => Sys2Proof.Machine.execLwReset s
  | .relock => Sys2Proof.Machine.execRelock s
  | .runStart core => Sys2Proof.Machine.execRunStart core s
  | .runEnd core => Sys2Proof.Machine.execRunEnd core s
  | .nopInstruction core => Sys2Proof.Machine.execNopInstruction core s
  | .endInstruction core => Sys2Proof.Machine.execEndInstruction core s
  | .movi core => Sys2Proof.Machine.execMovi core s
  | .addi core => Sys2Proof.Machine.execAddi core s
  | .add core => Sys2Proof.Machine.execAdd core s
  | .mul core => Sys2Proof.Machine.execMul core s
  | .sys core => Sys2Proof.Machine.execSys core s
  | .loop core => Sys2Proof.Machine.execLoop core s
  | .skipz core => Sys2Proof.Machine.execSkipz core s
  | .lds core ecc => Sys2Proof.Machine.execLds core ecc s
  | .recv core => Sys2Proof.Machine.execRecv core s
  | .free core => Sys2Proof.Machine.execFree core s
  | .emit core => Sys2Proof.Machine.execEmit core s
  | .fetch core => Sys2Proof.Machine.execFetch core s
  | .store core => Sys2Proof.Machine.execStore core s
  | .swait core => Sys2Proof.Machine.execSwait core s
  | .wait core => Sys2Proof.Machine.execWait core s
  | .wload core ecc => Sys2Proof.Machine.execWload core ecc s
  | .wloadComplete core => Sys2Proof.Machine.execWloadComplete core s
  | .swap core => Sys2Proof.Machine.execSwap core s
  | .mmw core ecc => Sys2Proof.Machine.execMmw core ecc s
  | .mmo core ecc => Sys2Proof.Machine.execMmo core ecc s
  | .passRetire core => Sys2Proof.Machine.execPassRetire core s
  | .anch core => Sys2Proof.Machine.execAnch core s
  | .adrain core => Sys2Proof.Machine.execAdrain core s
  | .vopAdd core => Sys2Proof.Machine.execVopAdd core s
  | .vopSub core => Sys2Proof.Machine.execVopSub core s
  | .vopMul core => Sys2Proof.Machine.execVopMul core s
  | .vopFma core => Sys2Proof.Machine.execVopFma core s
  | .vopMax core => Sys2Proof.Machine.execVopMax core s
  | .vopMin core => Sys2Proof.Machine.execVopMin core s
  | .vopExp2 core => Sys2Proof.Machine.execVopExp2 core s
  | .vopRcp core => Sys2Proof.Machine.execVopRcp core s
  | .vopRsqrt core => Sys2Proof.Machine.execVopRsqrt core s
  | .vopMuls core => Sys2Proof.Machine.execVopMuls core s
  | .vopAdds core => Sys2Proof.Machine.execVopAdds core s
  | .vld core ecc => Sys2Proof.Machine.execVld core ecc s
  | .vst core => Sys2Proof.Machine.execVst core s
  | .vlda core => Sys2Proof.Machine.execVlda core s
  | .vredTree core => Sys2Proof.Machine.execVredTree core s
  | .vredMax core => Sys2Proof.Machine.execVredMax core s
  | .vredAnchored core => Sys2Proof.Machine.execVredAnchored core s
  | .cardOverrun core => Sys2Proof.Machine.execCardOverrun core s
  | .tileSend core ecc bad => Sys2Proof.Machine.execTileSend core ecc bad s
  | .tileLand strand member bad => Sys2Proof.Machine.execTileLand strand member bad s
  | .creditReturn strand landed credits => Sys2Proof.Machine.execCreditReturn strand landed credits s
  | .fetchResponse strand bad reply wire => Sys2Proof.Machine.execFetchResponse strand bad reply wire s
  | .storeWrite strand member reply bad => Sys2Proof.Machine.execStoreWrite strand member reply bad s
  | .hallmarkEvent core what => Sys2Proof.Machine.execHallmarkEvent core what s
  | .rerunDecision core again => Sys2Proof.Machine.execRerunDecision core again s
  | .hallmarkForward field => Sys2Proof.Machine.execHallmarkForward field s
  | .targetedSelfTest kind index reproduced => Sys2Proof.Machine.execTargetedSelfTest kind index reproduced s
  | .heirloomWrite => Sys2Proof.Machine.execHeirloomWrite s
  | .scrubRead space row finds => Sys2Proof.Machine.execScrubRead space row finds s
  | .patrolScrub addr find => Sys2Proof.Machine.execPatrolScrub addr find s
  | .sliceRepair field slice rows => Sys2Proof.Machine.execSliceRepair field slice rows s
  | .retEntering field bank => Sys2Proof.Machine.execRetEntering field bank s
  | .retRetained field bank => Sys2Proof.Machine.execRetRetained field bank s
  | .lateAccess field bank => Sys2Proof.Machine.execLateAccess field bank s
  | .promote field => Sys2Proof.Machine.execPromote field s
  | .demote field => Sys2Proof.Machine.execDemote field s
  | .migrationSwitch field bad => Sys2Proof.Machine.execMigrationSwitch field bad s
  | .stepWaitExpiry stream => Sys2Proof.Machine.execStepWaitExpiry stream s
  | .stepAssembly stream => Sys2Proof.Machine.execStepAssembly stream s
  | .stepTile stream => Sys2Proof.Machine.execStepTile stream s
  | .planRecompute job => Sys2Proof.Machine.execPlanRecompute job s
  | .loupeTileConsume field strand member ecc => Sys2Proof.Machine.execLoupeTileConsume field strand member ecc s
  | .loupeClose field ecc => Sys2Proof.Machine.execLoupeClose field ecc s
  | .memTrip dev quarterC => Sys2Proof.Machine.execMemTrip dev quarterC s
  | .memTripEnd dev quarterC => Sys2Proof.Machine.execMemTripEnd dev quarterC s
  | .referenceLoss => Sys2Proof.Machine.execReferenceLoss s
  | .referenceValid => Sys2Proof.Machine.execReferenceValid s
  | .pullInEnd shifts => Sys2Proof.Machine.execPullInEnd shifts s
  | .calendarSync field travel => Sys2Proof.Machine.execCalendarSync field travel s
  | .pathDelayMeasure trips => Sys2Proof.Machine.execPathDelayMeasure trips s
  | .droopStretch region below => Sys2Proof.Machine.execDroopStretch region below s
  | .droopBreach region sensor mv => Sys2Proof.Machine.execDroopBreach region sensor mv s
  | .slipHold core => Sys2Proof.Machine.execSlipHold core s
  | .ctrlResend link dir detector twice cargo => Sys2Proof.Machine.execCtrlResend link dir detector twice cargo s
  | .converterShutdown conv => Sys2Proof.Machine.execConverterShutdown conv s
  | .powerFault planeLow => Sys2Proof.Machine.execPowerFault planeLow s
  | .phaseLoss region phase => Sys2Proof.Machine.execPhaseLoss region phase s
  | .sensorInvalid region sensor => Sys2Proof.Machine.execSensorInvalid region sensor s
  | .retentionEntry region => Sys2Proof.Machine.execRetentionEntry region s
  | .rampStart region => Sys2Proof.Machine.execRampStart region s
  | .rampComplete region => Sys2Proof.Machine.execRampComplete region s
  | .pllLock region => Sys2Proof.Machine.execPllLock region s
  | .hardwareLoopTick temps currents => Sys2Proof.Machine.execHardwareLoopTick temps currents s
  | .trimUpdate region current => Sys2Proof.Machine.execTrimUpdate region current s
  | .powerHalt core measured => Sys2Proof.Machine.execPowerHalt core measured s
  | .capLowerApply scope => Sys2Proof.Machine.execCapLowerApply scope s
  | .heatThrottle field degC measured => Sys2Proof.Machine.execHeatThrottle field degC measured s
  | .heatRelease field degC => Sys2Proof.Machine.execHeatRelease field degC s
  | .heatDark region degC => Sys2Proof.Machine.execHeatDark region degC s
  | .trip region first second => Sys2Proof.Machine.execTrip region first second s
  | .tripEnd region => Sys2Proof.Machine.execTripEnd region s
  | .coolantOkStop => Sys2Proof.Machine.execCoolantOkStop s
  | .inputLockout => Sys2Proof.Machine.execInputLockout s
  | .perstAssert => Sys2Proof.Machine.execPerstAssert s
  | .bringupStart found => Sys2Proof.Machine.execBringupStart found s
  | .agreementRecheck => Sys2Proof.Machine.execAgreementRecheck s
  | .claspBlockReceive link bytes lanePar poison => Sys2Proof.Machine.execClaspBlockReceive link bytes lanePar poison s
  | .ackTimeout link => Sys2Proof.Machine.execAckTimeout link s
  | .linkDownDeclare link excess => Sys2Proof.Machine.execLinkDownDeclare link excess s
  | .linkRetrain link lanes delay nbr band fastFail => Sys2Proof.Machine.execLinkRetrain link lanes delay nbr band fastFail s
  | .laneFault link lane => Sys2Proof.Machine.execLaneFault link lane s
  | .trainId link nbr => Sys2Proof.Machine.execTrainId link nbr s
  | .clsBind link msg => Sys2Proof.Machine.execClsBind link msg s
  | .clsBound link msg => Sys2Proof.Machine.execClsBound link msg s
  | .clsRelease link strand origin => Sys2Proof.Machine.execClsRelease link strand origin s
  | .bindRetry strand => Sys2Proof.Machine.execBindRetry strand s
  | .clsLinkDown link msg => Sys2Proof.Machine.execClsLinkDown link msg s
  | .clsResync link strand seq => Sys2Proof.Machine.execClsResync link strand seq s
  | .transportTimeout strand => Sys2Proof.Machine.execTransportTimeout strand s
  | .peerRequest req bad wire => Sys2Proof.Machine.execPeerRequest req bad wire s
  | .timeMsg t => Sys2Proof.Machine.execTimeMsg t s
  | .placement hdr rec => Sys2Proof.Machine.execPlacement hdr rec s
  | .placementApply => Sys2Proof.Machine.execPlacementApply s
  | .processorCrash proc cause info => Sys2Proof.Machine.execProcessorCrash proc cause info s
  | .processorRestart proc => Sys2Proof.Machine.execProcessorRestart proc s
  | .keepsakeWrite proc => Sys2Proof.Machine.execKeepsakeWrite proc s
  | .recordResend queue => Sys2Proof.Machine.execRecordResend queue s
  | .recordAnswer queue => Sys2Proof.Machine.execRecordAnswer queue s
  | .setSink hdr => Sys2Proof.Machine.execSetSink hdr s
  | .heirloomRead hdr => Sys2Proof.Machine.execHeirloomRead hdr s
  | .floorplanRead hdr offset length => Sys2Proof.Machine.execFloorplanRead hdr offset length s
  | .keepsakeRead hdr proc latest offset length => Sys2Proof.Machine.execKeepsakeRead hdr proc latest offset length s
  | .keepsakeClear hdr => Sys2Proof.Machine.execKeepsakeClear hdr s
  | .fwRestart hdr proc info => Sys2Proof.Machine.execFwRestart hdr proc info s
  | .manifest hdr bytes => Sys2Proof.Machine.execManifest hdr bytes s
  | .attestReport hdr other nonce => Sys2Proof.Machine.execAttestReport hdr other nonce s
  | .attestChain hdr offset length => Sys2Proof.Machine.execAttestChain hdr offset length s
  | .licenceInstall hdr file => Sys2Proof.Machine.execLicenceInstall hdr file s
  | .licenceList hdr => Sys2Proof.Machine.execLicenceList hdr s
  | .licenceEffect loupeFail laneFail => Sys2Proof.Machine.execLicenceEffect loupeFail laneFail s
  | .bcastStart hdr session lo hi => Sys2Proof.Machine.execBcastStart hdr session lo hi s
  | .bcastStatus hdr => Sys2Proof.Machine.execBcastStatus hdr s
  | .bcastAbort hdr => Sys2Proof.Machine.execBcastAbort hdr s
  | .broadcastBlock session index total crc payload => Sys2Proof.Machine.execBroadcastBlock session index total crc payload s
  | .rollCall asked answers => Sys2Proof.Machine.execRollCall asked answers s
  | .activate session => Sys2Proof.Machine.execActivate session s
  | .recoveryEnter hdr => Sys2Proof.Machine.execRecoveryEnter hdr s
  | .pldmFirmwareUpdate pkg upTo eth => Sys2Proof.Machine.execPldmFirmwareUpdate pkg upTo eth s
  | .pldmSensorUpdate memTemps get => Sys2Proof.Machine.execPldmSensorUpdate memTemps get s
  | .linkLocalFallback addr => Sys2Proof.Machine.execLinkLocalFallback addr s
  | .chainRead offset length => Sys2Proof.Machine.execChainRead offset length s
  | .sessionStart hostKey hostNonce => Sys2Proof.Machine.execSessionStart hostKey hostNonce s
  | .sessionData seq cipher tag => Sys2Proof.Machine.execSessionData seq cipher tag s
  | .ideKmOutside msg => Sys2Proof.Machine.execIdeKmOutside msg s
  | .coolantAssert => Sys2Proof.Machine.execCoolantAssert s
  | .timedRelease tag => Sys2Proof.Machine.execTimedRelease tag s
  | .peerMapMessage msg => Sys2Proof.Machine.execPeerMapMessage msg s
  | .bcastDone target => Sys2Proof.Machine.execBcastDone target s
  | .activateTimeout => Sys2Proof.Machine.execActivateTimeout s
  | .timePathDelay link roundTrip => Sys2Proof.Machine.execTimePathDelay link roundTrip s
  | .setpointUpdate region proc0 proc1 target => Sys2Proof.Machine.execSetpointUpdate region proc0 proc1 target s
  | .thermalSensorFailed region sensor => Sys2Proof.Machine.execThermalSensorFailed region sensor s
  | .errorCheckAndScrub field package count => Sys2Proof.Machine.execErrorCheckAndScrub field package count s
  | .operatingMinute => Sys2Proof.Machine.execOperatingMinute s
  | .setEndpointId eth eid => Sys2Proof.Machine.execSetEndpointId eth eid s
  | .entdaa addr => Sys2Proof.Machine.execEntdaa addr s
  | .dhcpLease addr => Sys2Proof.Machine.execDhcpLease addr s

end Sys2Proof.Machine
end

