-- ==== Sys2Proof/Machine/Tick.lean ====
section
/-! DEFINITION. One cycle of the F0 uncore clock: what step does when no command waits. The Calendar advances, the
field counters follow, each run's cycle counts advance, tiles that were waiting for credit leave, and Clasp links send. -/

namespace Sys2Proof.Machine

/-- Most that the Calendar master may be steered by in one cycle, 500 ppm of its period (R342). -/
def steerMax (v : Variant) : Int := ((periodUnits v * 500 / 1000000 : Nat) : Int)

/-- What steering toward the time parent adds in this cycle, in 2^-24 ns (R342, R421). -/
def State.steer (s : State) : Int :=
  if s.parentLink.isSome then max (-(steerMax s.part.variant)) (min s.cls.timeErr (steerMax s.part.variant)) else 0

/-- The Calendar master advances by one nominal uncore period and its steering (R338, R342). -/
def State.tickCal (s : State) : State :=
  let d := s.steer
  { s with cal := s.cal + BitVec.ofInt _ ((periodUnits s.part.variant : Int) + d), cls.timeErr := s.cls.timeErr - d }

/-- A field's Calendar counter, as its difference from the master, while the master advances by n ns: it slews 1 ns in
every 64 ns; one that holds waits until the master reaches it, and one whose clock is stopped falls behind (R339, R340). -/
def FieldSt.tickCal (k : FieldSt) (runs : Bool) (n : Nat) : FieldSt :=
  if !runs then { k with calDiff := k.calDiff - n }
  else if k.slewPhase = 64 then
    if (n : Int) ≤ k.calDiff then { k with calDiff := k.calDiff - n } else { k with calDiff := 0, slewPhase := 0 }
  else
    let p := k.slewPhase + n
    let turn := decide (64 ≤ p) && decide (k.slew ≠ 0)
    let d : Int := if !turn then 0 else if 0 < k.slew then 1 else -1
    { k with calDiff := k.calDiff + d, slew := k.slew - d, slewPhase := p % 64 }

/-- Whether the uncore clock of a field runs: its region is ON, and it is not one of those that a COOLANT_OK stop halts
(R331, R389). -/
def State.clockRuns (s : State) (f : Nat) : Bool :=
  decide ((s.region (120 + f)).state = .on) && (!s.thm.coolantStop || decide (f = 0))

/-- The field counters over n ns of the master. -/
def State.tickFields (s : State) (n : Nat) : State :=
  ((List.range 12).filter (fun f => !s.clockRuns f || (tget? s.fields f).isSome)).foldl
    (fun (s : State) f => s.modField f (fun k => k.tickCal (s.clockRuns f) n)) s

/-- Whether the head of a core's DMA queue waits for a credit, and whether its strand leads to a HOST station (R108). -/
def State.headWaits (s : State) (k : CoreSt) : Bool × Bool :=
  match k.dmaQ with
  | op :: _ =>
    match s.strand? op.strand with
    | some x => (decide (op.kind ≠ 2) && sends k x && !s.holdsCredit x k.member, (s.stn k.job x.entry.dst).map (·.kind) == some .host)
    | none => (false, false)
  | [] => (false, false)

/-- One counted cycle of a run (R108, R245). -/
def State.countRun (s : State) (k : CoreSt) (r : Run) : Run :=
  let w := s.headWaits k
  let stall := w.1 && ((r.stallDma && decide (16 ≤ k.dmaQ.length)) || r.ending)
  let recv :=
    match r.recvWait with
    | some n => ((s.strand? n).bind (fun x => (x.rotated k.member (s.srcCount x)).nextTile k.member)).isNone
    | none => false
  let swait :=
    match r.swaitOn with
    | some n => s.storing k n
    | none => false
  let idle := recv || swait || stall
  { r with
    busy := if idle then r.busy else r.busy + 1
    tail := if idle then r.tail else r.tail + 1
    wait := if swait || (stall && !w.2) then r.wait + 1 else r.wait }

/-- One cycle of a core whose region is on: an array-domain period passes; outside bubbles its run is counted
(R108, R145, R382). -/
def State.tickCore (s : State) (c : Nat) (k : CoreSt) : CoreSt :=
  if (s.region c).state ≠ .on then k
  else
    let k := { k with cycles := k.cycles + 1 }
    if s.inBubble c s.clk.frame then k else { k with run := k.run.map (s.countRun k) }

/-- Cores that stand in a bubble in this cycle. -/
def State.bubbling (s : State) : Nat :=
  ((List.range 120).filter (fun c => decide ((s.region c).state = .on) && s.inBubble c s.clk.frame)).length

/-- CLK_HOLDOVER_NS over n units of 2^-24 ns (R356). -/
def State.tickHoldover (s : State) (n : Nat) : State :=
  if s.clk.ref ≠ .holdover then s
  else
    let f := s.clk.holdFrac + n
    { s with clk.holdNs := s.clk.holdNs + BitVec.ofNat 64 (f / 16777216), clk.holdFrac := f % 16777216 }

/-- Setpoints on their way move on while the power sequencer runs (R362). -/
def State.tickSetpoints (s : State) : State :=
  if s.sequencerUp then { s with pwr.regions := tmap s.pwr.regions (fun r k => s.stepSetpoint r k) } else s

/-- A new frame of 64 cycles begins with no stretched time (R385). -/
def State.tickFrame (s : State) : State :=
  let s := { s with clk.frame := (s.clk.frame + 1) % 64 }
  if s.clk.frame ≠ 0 then s
  else (List.range 120).foldl (fun (s : State) c =>
    if (s.region c).frameStretch = 0 then s else (s.modRegion c (fun r => { r with frameStretch := 0 })).rebubble c) s

/-- The arrays that have something to start go on, where a bubble or nothing more holds them (R104, R382). -/
def State.tickArrays (s : State) : State :=
  (s.cores.filter (fun e => !e.2.arrQ.isEmpty || e.2.drain.isSome)).foldl (fun (s : State) e => State.pumpArray 9 e.1 s) s

/-- The report that is signed and the LICENCE that is handled are answered when they are due (R476, R478). -/
def State.tickMaster (s : State) : State :=
  let s := match s.sec.signing with
    | some k => if k.due.toNat ≤ s.stamp.toNat then s.finishReport k else s
    | none => s
  match s.sec.licensing with
  | some k => if k.due.toNat ≤ s.stamp.toNat then s.finishLicence k else s
  | none => s

/-- One uncore cycle. In RESET no clock runs. -/
def State.tick (s : State) : State :=
  if s.gen.state = .reset then s
  else
    let t := s.tickCal
    let n := t.now - s.now
    let t := (t.tickFields n).tickSetpoints
    let t := { t with
      opTime := t.opTime + n
      cores := tmap t.cores (fun c k => s.tickCore c k)
      thm.bubbles := t.thm.bubbles + BitVec.ofNat 64 s.bubbling }
    let t := if s.now / 10000 = t.now / 10000 then t else t.sendTime
    let t := if t.realignDue then t.endRealign else t
    let t := t.tickMaster
    let d := (t.cal - s.cal).toNat
    ((((t.tickHoldover d).tickFrame).tickArrays).pump).sendLinks d

end Sys2Proof.Machine
end

