-- ==== Sys2Proof/Safety.lean ====
section
/-! DEFINITION. What counts as a safe step and as a tidy state, in the terms the statements use. -/

namespace Sys2Proof.Safety

open Sys2Proof.Machine

/-- The step ran: neither a fault nor a refusal. -/
def Ran (o : Host.Outcome State Fault Refusal) : Prop := ∃ t, o = .next t

/-- The states in which the device serves work or is stopped for it, after bring-up (R446). -/
def InService (s : State) : Prop := s.gen.state = .ready ∨ s.gen.state = .stopped

/-- Every byte store is in its canonical form: addresses strictly rising, and in scratchpads and slices no byte equal
to what an unlisted address reads as. -/
def Tidy (s : State) : Prop :=
  (∀ e ∈ s.cores, Memory.wf (some 0) e.2.spad = true) ∧ (∀ e ∈ s.fields, Memory.wf (some 0) e.2.slice = true) ∧
    Memory.wf none s.mem.bytes = true

/-- What is fixed for the life of a part (R5, R11, R326, R469, R482): variant, stepping, serial, fused floors, identity key,
root key and ROM version. -/
def SamePart (s t : State) : Prop := t.part = s.part

/-- A row of fuses never loses a blown fuse (R473). -/
def FusesKept (s t : State) : Prop := ∀ n, tget s.flash.svn n 0 ≤ tget t.flash.svn n 0

/-- The ring's oldest fetched descriptor is d, it may land, it is of the operation and well formed, and the device state
allows the operation (R285-R287, R299). -/
def Lands (s : State) (n op : Nat) (faults : Desc → List (Nat × Bool)) (d : Desc) : Prop :=
  s.landing n op = .go d ∧ firstFault (headerFaults d ++ faults d) = none ∧
    (readyOpcodes.contains op = true → s.gen.state = .ready)

/-- The outcome is a next state: u, in which descriptor d completes with a status, DETAIL, COUNT and VALUE (R292), and what
a ring that this halts still has to end has ended (R269, R279). -/
def Ends (o : Host.Outcome State Fault Refusal) (u : State) (d : Desc) (st : Byte) (detail : Nat := 0) (count : Nat := 0)
    (value : Nat := 0) : Prop :=
  o = .next (u.finish (descPend d) st detail count value).finishHalts

/-- A core stands at an instruction word of the opcode and may issue it: a run is in progress, END has not been issued, the
core's region is ON, and the cycle is no bubble (R103, R370, R382). -/
def Issues (s : State) (c : Nat) (r : Run) (w : W64) (op : Nat) : Prop :=
  (s.core c).run = some r ∧ (s.core c).word = some w ∧ fOp w = op ∧ r.ending = false ∧ (s.region c).state = .on ∧ s.bubbled c = false

/-- An array instruction as it enters the queue: its word with the scalar registers it names as they are at issue (R104). -/
def queued (w : W64) (r : Run) (k : CoreSt) (ecc : List (Nat × EccFind)) : ArrOp :=
  { word := w, a := (k.gr (fA w)).toNat, b := (k.gr (fB w)).toNat, c := (k.gr (fC w)).toNat, work := r.work, instr := k.pc, ecc := ecc }

/-- What holds the array instruction at the head of the queue back: a load in progress (WLOAD, SWAP); a Hallmark event, or bank
rows that an ADRAIN has yet to read (MMW, and MMO as far as it writes rows); an ADRAIN that has rows to read (ADRAIN) (R89, R90,
R96, R104, R144). -/
def ArrayWaits (k : CoreSt) (op : ArrOp) : Prop :=
  let rows := (k.shape (fShape op.word)).rows
  if fOp op.word = 0x20 ∨ fOp op.word = 0x21 then k.loading = true
  else if fOp op.word = 0x22 then k.mayIssue op.b rows = false
  else if fOp op.word = 0x23 then k.mayIssue op.c (if op.word.toNat.testBit 29 then rows else 0) = false
  else k.drain.isSome = true

/-- The management port runs and a vendor request's header is right, so that its command acts (R427, R433, R434). -/
def Heard (s : State) (h : VHdr) : Prop :=
  s.portUp = true ∧ VHdr.isVendor h = true ∧ h.iana = 0x0000D5A3 ∧ h.unknown = none ∧ h.flags = 0

/-- The command byte and header of a vendor request (R434). -/
def vendorRequest : Instr → Option (Byte × VHdr)
  | .setSink h => some (0x01, h)
  | .heirloomRead h => some (0x10, h)
  | .floorplanRead h _ _ => some (0x11, h)
  | .keepsakeRead h _ _ _ _ => some (0x12, h)
  | .keepsakeClear h => some (0x13, h)
  | .fwRestart h _ _ => some (0x14, h)
  | .placement h _ => some (0x20, h)
  | .manifest h _ => some (0x21, h)
  | .attestReport h _ _ => some (0x30, h)
  | .attestChain h _ _ => some (0x30, h)
  | .licenceInstall h _ => some (0x31, h)
  | .licenceList h => some (0x31, h)
  | .bcastStart h _ _ _ => some (0x40, h)
  | .bcastStatus h => some (0x41, h)
  | .bcastAbort h => some (0x42, h)
  | .recoveryEnter h => some (0x50, h)
  | _ => none

end Sys2Proof.Safety
end

