-- ==== Sys2Proof/WellFormed.lean ====
section
/-! DEFINITION. Which commands are well formed: the operands whose types allow more than the spec gives them. -/

namespace Sys2Proof

/-- Coordinates within the largest block, 32 on an axis (R406). -/
def coordOk (c : Coord) : Bool := decide (c.x < 32) && decide (c.y < 32) && decide (c.z < 32)

/-- Bytes at strictly rising addresses below 2^52. -/
def cellsOk : List Host.Cell → Bool
  | [] => true
  | [a] => decide (a.1 < 2 ^ 52)
  | a :: b :: t => decide (a.1 < b.1) && cellsOk (b :: t)

/-- Host memory as a fetch finds it. -/
def memOk (m : HostMem) : Bool := cellsOk m.cells

/-- A failing check: units 0x01 to 0x0A, a column and a lane of 256 (R145). -/
def faultOk (h : HmFault) : Bool :=
  decide (1 ≤ h.unit) && decide (h.unit ≤ 10) && decide (h.col < 256) && decide (h.lane < 256)

/-- Words within the 32 MiB that the longest area read holds (R178). -/
def wordsOk (ecc : List (Nat × EccFind)) : Bool := ecc.all (fun x => decide (x.1 < 4194304))

/-- A peer response: poisoned words lie within its data. -/
def replyOk : PeerReply → Bool
  | .data bytes poison => poison.all (fun n => decide (8 * n < bytes.length))
  | _ => true

/-- A row of a scratchpad, 24,576 and 512 of redundancy of 4 words each, or of a field's slices, 131,072 and 4,096 of
redundancy of 64 words each, and words of it (R180). -/
def rowOk (space : ScrubSpace) (row : Nat) (finds : List (Nat × EccFind)) : Bool :=
  match space with
  | .spad _ => decide (row < 25088) && finds.all (fun x => decide (x.1 < 4))
  | .slice _ => decide (row < 135168) && finds.all (fun x => decide (x.1 < 64))

/-- What a bring-up finds names units that the part has. -/
def bringOk (b : BringIn) : Bool :=
  b.colFail.all (fun x => decide (x.1 < 120) && decide (x.2 < 256)) && b.coreFail.all (fun c => decide (c < 120)) &&
    b.bankRows.all (fun x => decide (x.1 < 120) && decide (x.2.1 < 32)) && b.sliceRows.all (fun x => decide (x.1 < 12) && decide (x.2.1 < 128)) &&
    b.loupeFail.all (fun f => decide (f < 12)) && b.filFail.all (fun i => decide (i < 16)) &&
    b.laneFail.all (fun x => decide (x.1 < 6) && decide (x.2 < 32)) && b.licenceBad.all (fun n => decide (n < 8)) &&
    b.trainFail.all (fun i => decide (i < 36)) && b.fastFail.all (fun i => decide (i < 42)) && b.links.all (fun x => decide (x.1 < 6)) &&
    decide (b.trips.length ≤ 12) && b.monitors.all (fun x => decide (x.1 < 132) && decide (x.2.1 < 65536) && decide (x.2.2.1 < 65536) && decide (x.2.2.2 < 256))

/-- Whether a command is well formed. -/
def Instr.wellFormed : Instr → Bool
  | .doorbell _ size off _ => decide (1 ≤ size) && decide (size ≤ 8) && decide (off < 4096)
  | .descriptorFetch mem _ => memOk mem
  | .nopDesc _ => true
  | .work _ mem => memOk mem
  | .abort _ => true
  | .jobOpen _ => true
  | .loadStations _ mem => memOk mem
  | .loadStrands _ mem => memOk mem
  | .jobCommit _ _ => true
  | .jobClose _ => true
  | .jobCloseComplete _ => true
  | .jobKill _ => true
  | .lktPoolAdd _ => true
  | .lktPoolRemove _ => true
  | .lktMap _ _ => true
  | .lktUnmap _ => true
  | .lktPin _ => true
  | .lktRead _ => true
  | .feastBind _ => true
  | .feastUnbind _ => true
  | .feastRead _ => true
  | .seqOpen _ => true
  | .seqPause _ => true
  | .seqResume _ => true
  | .seqClose _ => true
  | .seqReset _ => true
  | .completion _ _ => true
  | .heldCompletionWrite _ _ => true
  | .hostStall _ => true
  | .hostAbort _ => true
  | .hostTileWrite _ _ => true
  | .interruptCoalesceExpiry _ => true
  | .ringEnable _ => true
  | .ringDisable _ => true
  | .d3hotRequest _ => true
  | .hdmCommit base size ways => decide (base < 2 ^ 52) && decide (size < 2 ^ 52) && decide (1 ≤ ways)
  | .cxlMemRequest addr write _ _ wire _ => decide (addr % 64 = 0) && ((write.map (fun l => decide (l.length = 64))).getD true) && wire.all (fun w => decide (w < 8))
  | .cxlLinkDown _ => true
  | .viral => true
  | .registerWrite _ _ _ size _ => decide (1 ≤ size) && decide (size ≤ 8)
  | .rllRead _ _ _ size => decide (1 ≤ size) && decide (size ≤ 8)
  | .asyOpen => true
  | .asyCommit => true
  | .asyRefWrite _ => true
  | .assaySweep _ flips => flips.all (fun x => decide (x.1 < 2 ^ 24) && decide (x.1 % 4 = 0))
  | .hostStop _ => true
  | .wakeClear _ => true
  | .retentionRearm _ => true
  | .lwReset => true
  | .relock => true
  | .runStart _ => true
  | .runEnd _ => true
  | .nopInstruction _ => true
  | .endInstruction _ => true
  | .movi _ => true
  | .addi _ => true
  | .add _ => true
  | .mul _ => true
  | .sys _ => true
  | .loop _ => true
  | .skipz _ => true
  | .lds _ ecc => wordsOk ecc
  | .recv _ => true
  | .free _ => true
  | .emit _ => true
  | .fetch _ => true
  | .store _ => true
  | .swait _ => true
  | .wait _ => true
  | .wload _ ecc => wordsOk ecc
  | .wloadComplete _ => true
  | .swap _ => true
  | .mmw _ ecc => wordsOk ecc
  | .mmo _ ecc => wordsOk ecc
  | .passRetire _ => true
  | .anch _ => true
  | .adrain _ => true
  | .vopAdd _ => true
  | .vopSub _ => true
  | .vopMul _ => true
  | .vopFma _ => true
  | .vopMax _ => true
  | .vopMin _ => true
  | .vopExp2 _ => true
  | .vopRcp _ => true
  | .vopRsqrt _ => true
  | .vopMuls _ => true
  | .vopAdds _ => true
  | .vld _ ecc => wordsOk ecc
  | .vst _ => true
  | .vlda _ => true
  | .vredTree _ => true
  | .vredMax _ => true
  | .vredAnchored _ => true
  | .cardOverrun _ => true
  | .tileSend _ ecc _ => wordsOk ecc
  | .tileLand _ _ bad => bad.all (fun n => decide (n < 33554432))
  | .creditReturn _ _ _ => true
  | .fetchResponse _ bad reply wire => bad.all (fun n => decide (n < 33554432)) && replyOk reply && wire.all (fun n => decide (n < 33554432))
  | .storeWrite _ _ reply bad => replyOk reply && bad.all (fun n => decide (n < 33554432))
  | .hallmarkEvent _ what => faultOk what
  | .rerunDecision _ again => again.all faultOk && decide ((again.map (fun h => (h.col, h.second))).Nodup)
  | .hallmarkForward _ => true
  | .targetedSelfTest kind index _ => decide (1 ≤ kind) && decide (kind ≤ 5) && decide (index < 2 ^ 32)
  | .heirloomWrite => true
  | .scrubRead space row finds => rowOk space row finds
  | .patrolScrub addr _ => decide (addr % 8 = 0)
  | .sliceRepair _ _ rows => rows.all (fun x => decide (x.1 < 8192))
  | .retEntering _ _ => true
  | .retRetained _ _ => true
  | .lateAccess _ _ => true
  | .promote _ => true
  | .demote _ => true
  | .migrationSwitch _ bad => bad.all (fun n => decide (n < 262144))
  | .stepWaitExpiry _ => true
  | .stepAssembly _ => true
  | .stepTile _ => true
  | .planRecompute _ => true
  | .loupeTileConsume _ _ _ _ => true
  | .loupeClose _ _ => true
  | .memTrip _ quarterC => decide (quarterC < 1024)
  | .memTripEnd _ quarterC => decide (quarterC < 1024)
  | .referenceLoss => true
  | .referenceValid => true
  | .pullInEnd _ => true
  | .calendarSync _ _ => true
  | .pathDelayMeasure trips => decide (trips.length = 12)
  | .droopStretch _ below => decide (below < 1024)
  | .droopBreach _ _ _ => true
  | .slipHold _ => true
  | .ctrlResend _ _ _ _ _ => true
  | .converterShutdown _ => true
  | .powerFault _ => true
  | .phaseLoss _ _ => true
  | .sensorInvalid _ _ => true
  | .retentionEntry _ => true
  | .rampStart _ => true
  | .rampComplete _ => true
  | .pllLock _ => true
  | .hardwareLoopTick temps currents => decide (temps.length ≤ 132) && decide (currents.length ≤ 132) && currents.all (fun c => decide (c < 65536))
  | .trimUpdate _ _ => true
  | .powerHalt _ _ => true
  | .capLowerApply _ => true
  | .heatThrottle _ degC _ => decide (degC < 256)
  | .heatRelease _ degC => decide (degC < 256)
  | .heatDark _ degC => decide (degC < 256)
  | .trip _ first second => decide (first < 1024) && decide (second < 1024)
  | .tripEnd _ => true
  | .coolantOkStop => true
  | .inputLockout => true
  | .perstAssert => true
  | .bringupStart found => bringOk found
  | .agreementRecheck => true
  | .claspBlockReceive _ bytes _ poison => decide (bytes.length = 256) && poison.all (fun w => decide (w < 30))
  | .ackTimeout _ => true
  | .linkDownDeclare _ _ => true
  | .linkRetrain _ _ delay _ _ _ => decide (delay < 256)
  | .laneFault _ _ => true
  | .trainId _ _ => true
  | .clsBind _ msg => coordOk msg.origin
  | .clsBound _ _ => true
  | .clsRelease _ _ origin => coordOk origin
  | .bindRetry _ => true
  | .clsLinkDown _ _ => true
  | .clsResync _ _ _ => true
  | .transportTimeout _ => true
  | .peerRequest _ bad wire => (bad ++ wire).all (fun n => decide (n < 33554432))
  | .timeMsg _ => true
  | .placement _ rec => coordOk rec.coord
  | .placementApply => true
  | .processorCrash _ _ _ => true
  | .processorRestart _ => true
  | .keepsakeWrite _ => true
  | .recordResend _ => true
  | .recordAnswer _ => true
  | .setSink _ => true
  | .heirloomRead _ => true
  | .floorplanRead _ offset length => decide (offset < 65536) && decide (length < 65536)
  | .keepsakeRead _ _ _ offset length => decide (offset < 2 ^ 32) && decide (length < 2 ^ 32)
  | .keepsakeClear _ => true
  | .fwRestart _ _ _ => true
  | .manifest _ _ => true
  | .attestReport _ _ _ => true
  | .attestChain _ offset length => decide (offset < 65536) && decide (length < 65536)
  | .licenceInstall _ _ => true
  | .licenceList _ => true
  | .licenceEffect loupeFail laneFail => loupeFail.all (fun f => decide (f < 12)) && laneFail.all (fun x => decide (x.1 < 6) && decide (x.2 < 32))
  | .bcastStart _ _ lo hi => coordOk lo && coordOk hi
  | .bcastStatus _ => true
  | .bcastAbort _ => true
  | .broadcastBlock _ index total _ payload => decide (index < 2 ^ 32) && decide (total < 2 ^ 32) && decide (payload.length = 4096)
  | .rollCall asked answers => ((asked.map (fun x => coordOk x.2)).getD true) && answers.all (fun x => coordOk x.1)
  | .activate _ => true
  | .recoveryEnter _ => true
  | .pldmFirmwareUpdate _ _ _ => true
  | .pldmSensorUpdate memTemps get => get.isSome || decide (memTemps.length = 72)
  | .linkLocalFallback _ => true
  | .chainRead offset length => decide (offset < 65536) && decide (length < 65536)
  | .sessionStart hostKey hostNonce => decide (hostKey.length = 97) && decide (hostNonce.length = 32)
  | .sessionData seq _ tag => decide (seq < 2 ^ 64) && decide (tag.length = 16)
  | .ideKmOutside _ => true
  | .coolantAssert => true
  | .timedRelease _ => true
  | .peerMapMessage _ => true
  | .bcastDone target => coordOk target
  | .activateTimeout => true
  | .timePathDelay _ _ => true
  | .setpointUpdate _ _ _ _ => true
  | .thermalSensorFailed _ _ => true
  | .errorCheckAndScrub _ _ _ => true
  | .operatingMinute => true
  | .setEndpointId _ _ => true
  | .entdaa _ => true
  | .dhcpLease _ => true

end Sys2Proof
end

