-- ==== Sys2Proof/Certificates/Slice0/Obligations.lean ====
section
/-! DEFINITION. The statements for the provers, family by family. A statement of an effect says the next state whole: by
an equation, or by the parts of the state that may differ with everything else the same. Where a descriptor completes,
the completion is the one that `State.finish` writes, whose bytes a statement of its own gives. -/

open Sys2Proof Sys2Proof.Machine

/-! ## The queue, time, rings and completions -/

/-- A step takes the command at the front of the queue and answers what that command does to the state that holds the rest of the queue. Where the spec leaves a choice it takes the one of the model: log 6. -/
def Obligations.StepRunsFrontCommand : Prop :=
  ∀ (c : Instr) (s : State) (rest : List Instr), step { s with pending := c :: rest } = exec c { s with pending := rest }

/-- Every command answers a next state, whatever the state and its operands: none ends in a fault and none is refused. Where the spec leaves a choice it takes the one of the model: log 6. -/
def Obligations.EveryCommandRuns : Prop := ∀ (c : Instr) (s : State), Safety.Ran (exec c s)

/-- With an empty queue, outside RESET, a step is one uncore cycle (DESIGN CHOICE, log 5): the Calendar master gains the nominal uncore period in units of 2^-24 ns and its steering, which is at most 500 ppm of the period either way, none without a time parent, and the whole of a smaller known error with one. The parts' data and the Assay registers stay. When no array has anything to start, no realignment runs and the device master signs no report and handles no LICENCE, a core changes only in its cycle count and in the counts of its run, a region keeps its state, and memory, registers of control, jobs, rings and flash stay as they are too. In RESET nothing happens. Where the spec leaves a choice it takes the one of the model: log 5, 116. -/
def Obligations.EmptyQueueIsOneUncoreCycle : Prop :=
  ∀ s : State, s.pending = [] →
    (s.gen.state = .reset → step s = .next s) ∧
    (s.gen.state ≠ .reset → ∃ (t : State) (d : Int), step s = .next t ∧ t.cal = s.cal + BitVec.ofInt 88 ((periodUnits s.part.variant : Int) + d) ∧
      -(periodUnits s.part.variant * 500 / 1000000 : Nat) ≤ d ∧ d ≤ (periodUnits s.part.variant * 500 / 1000000 : Nat) ∧
      (s.parentLink = none → d = 0) ∧
      (s.parentLink ≠ none → -(periodUnits s.part.variant * 500 / 1000000 : Nat) ≤ s.cls.timeErr →
        s.cls.timeErr ≤ (periodUnits s.part.variant * 500 / 1000000 : Nat) → d = s.cls.timeErr) ∧
      t.part = s.part ∧ t.asy = s.asy ∧ t.pending = [] ∧
      ((∀ e ∈ s.cores, e.2.arrQ = [] ∧ e.2.drain = none) → s.clk.realigning = false → s.sec.signing = none → s.sec.licensing = none →
        (∀ c, ∃ n r, t.core c = { s.core c with cycles := n, run := r }) ∧
        (∀ f, (t.field f).slice = (s.field f).slice ∧ (t.field f).hmQueue = (s.field f).hmQueue) ∧
        (∀ r, (t.region r).state = (s.region r).state) ∧
        t.mem = s.mem ∧ t.gen = s.gen ∧ t.jobs = s.jobs ∧ t.rng = s.rng ∧ t.flash = s.flash ∧
        t.lkt = s.lkt ∧ t.sec = s.sec ∧ t.mgmt = s.mgmt ∧ t.heirloom = s.heirloom))

/-- On an ON ring a doorbell write of 8 bytes sets SQ_TAIL, CQ_HEAD and TILE_HEAD, one of 4 bytes at +0 the first two and one at +4 the last, when every index it carries is valid, modulo 65,536; one that moves no index changes none. With any invalid index it is not applied at all: the ring becomes HALTED with DOORBELL_ERR (bit 1) set, and its indices stay. A STOPPING ring ignores SQ_TAIL. On an OFF or HALTED ring, and for another size or offset, a write has no effect. -/
def Obligations.DoorbellsSetValidIndicesOrHaltTheRing : Prop :=
  ∀ (s : State) (n : RingId) (v : W64), s.reachable = true →
    let k := s.ring n
    let tail : W16 := v.extractLsb' 0 16
    let cq : W16 := v.extractLsb' 16 16
    let tile : W16 := v.extractLsb' 32 16
    let okTail := (k.sqTail - k.sqHead).toNat ≤ (tail - k.sqHead).toNat ∧ (tail - k.sqHead).toNat ≤ 2 ^ (k.sizes.toNat % 16)
    let okCq := (cq - k.cqHead).toNat ≤ (k.cqTail - k.cqHead).toNat
    let okTile (x : W16) := (x - k.tileHead).toNat ≤ (k.tileTail - k.tileHead).toNat
    let halts (size off : Nat) := ∃ t, exec (.doorbell n size off v) s = .next t ∧ (t.ring n).state = .halted ∧ (t.ring n).flags.getLsbD 1 = true ∧
      (t.ring n).sqTail = k.sqTail ∧ (t.ring n).cqHead = k.cqHead ∧ (t.ring n).tileHead = k.tileHead
    (k.state = .on →
      (okTail → okCq → okTile tile → exec (.doorbell n 8 0 v) s = .next (s.setRing n { k with sqTail := tail, cqHead := cq, tileHead := tile })) ∧
      (¬ (okTail ∧ okCq ∧ okTile tile) → halts 8 0) ∧
      (okTail → okCq → exec (.doorbell n 4 0 v) s = .next (s.setRing n { k with sqTail := tail, cqHead := cq })) ∧
      (¬ (okTail ∧ okCq) → halts 4 0) ∧
      (okTile tail → exec (.doorbell n 4 4 v) s = .next (s.setRing n { k with tileHead := tail })) ∧
      (¬ okTile tail → halts 4 4) ∧
      (tail = k.sqTail → cq = k.cqHead → tile = k.tileHead → (k.sqTail - k.sqHead).toNat ≤ 2 ^ (k.sizes.toNat % 16) →
        ∃ t, exec (.doorbell n 8 0 v) s = .next t ∧ (∀ m, t.ring m = s.ring m) ∧ t = { s with rng := t.rng })) ∧
    (k.state = .stopping → okCq → okTile tile →
      exec (.doorbell n 8 0 v) s = .next (s.setRing n { k with cqHead := cq, tileHead := tile })) ∧
    (k.state = .off ∨ k.state = .halted → ∀ size off, exec (.doorbell n size off v) s = .next s) ∧
    ∀ size off, (size, off) ≠ (8, 0) → (size, off) ≠ (4, 0) → (size, off) ≠ (4, 4) → exec (.doorbell n size off v) s = .next s

/-- The hub fetches from the ring whose turn it is: the descriptor is the 64 bytes that host memory holds at SQ_BASE + 64 × (SQ head mod 2^SQ_SIZE), read with one CXL.cache read, the SQ head and the count of outstanding descriptors advance by one, the turn passes on, and nothing else changes. A read that fails halts the ring with the fetch error's bit (2) set; with no ring whose turn it is, or in another device state, nothing is read. Where the spec leaves a choice it takes the one of the model: log 8, 18. -/
def Obligations.FetchTakesTheNextDescriptorInTurn : Prop :=
  ∀ (s : State) (mem : HostMem) (bad : Bool),
    (∀ n, s.gen.state = .ready ∨ s.gen.state = .stopped → s.cxl.down = false → s.cxl.d3 = false → s.fetchTurn = some n →
      let k := s.ring n
      let a := k.sqBase.toNat + 64 * (k.sqHead.toNat % 2 ^ (k.sizes.toNat % 16))
      (hostFails mem a 64 = false →
        exec (.descriptorFetch mem bad) s = .next ((({ s with rng.rr := n } : State).put (.hostRead a 64)).setRing n
          { k with sqHead := k.sqHead + 1, outstanding := k.outstanding + 1,
                   fetched := k.fetched ++ [{ ring := n, index := k.sqHead, bytes := hostRead mem a 64, cplBad := bad }] })) ∧
      (hostFails mem a 64 = true →
        ∃ t, exec (.descriptorFetch mem bad) s = .next t ∧ (k.state = .on → (t.ring n).state = .halted ∧ (t.ring n).flags.getLsbD 2 = true ∧
          (t.ring n).sqHead = k.sqHead))) ∧
    (s.fetchTurn = none ∨ (s.gen.state ≠ .ready ∧ s.gen.state ≠ .stopped) → exec (.descriptorFetch mem bad) s = .next s)

/-- A well-formed NOP completes at once. On an ON ring with a free CQ entry, nothing held and a write that succeeds, the 32 bytes go to CQ entry (CQ tail mod 2^CQ_SIZE) with TAG, SQ_INDEX, STATUS DONE, the PHASE of this pass, TIME and zeros in DETAIL, COUNT and VALUE; the CQ tail advances and one descriptor fewer is outstanding. A wanted interrupt follows the completion. Of the rest of the module only the count of descriptors and the interrupt's own bits change. A completion whose write fails puts the ring in HALTED with CPL_ERR (bit 3) and no bytes are written. Where the spec leaves a choice it takes the one of the model: log 9, 14. -/
def Obligations.NopCompletesInTheNextCqEntry : Prop :=
  ∀ (s : State) (n : RingId) (d : Desc), Safety.Lands s n 0x01 (fun _ => []) d → d.ring = n.val →
    Safety.Ends (exec (.nopDesc n) s) (s.take n) d 0 ∧
    ((s.ring n).state = .on → (s.ring n).held = [] → 0 < (s.ring n).cqFree →
      let k := s.ring n
      (d.cplBad = false → ∃ (u : State) (ms : List Output) (bs : List Byte), exec (.nopDesc n) s = .next u.finishHalts ∧ bs.length = 32 ∧
        u.out = ms ++ .hostWrite .woWrInv (k.cqBase.toNat + 32 * (k.cqTail.toNat % 2 ^ k.cqLog)) bs :: s.out ∧
        ((descF d 1 1).testBit 0 = false → ms = []) ∧
        fld bs 0 4 = (descTag d).toNat ∧ fld bs 4 2 = d.index.toNat ∧ fld bs 6 1 = 0 ∧ fld bs 7 1 = 1 - k.cqTail.toNat / 2 ^ k.cqLog % 2 ∧
        fld bs 8 8 = s.stamp.toNat ∧ fld bs 0x10 2 = 0 ∧ fld bs 0x12 2 = 0 ∧ fld bs 0x18 8 = 0 ∧
        u.ring n = { k with fetched := k.fetched.drop 1, cqTail := k.cqTail + 1, outstanding := k.outstanding - 1 } ∧
        (∀ m, m ≠ n.val → u.ring m = s.ring m) ∧ u.rng.haltDue = s.rng.haltDue ∧
        u = { s with rng := u.rng, out := u.out, cxl.descCount := s.cxl.descCount + 1 }) ∧
      (d.cplBad = true → ∃ t, exec (.nopDesc n) s = .next t ∧ (t.ring n).state = .halted ∧ (t.ring n).flags.getLsbD 3 = true ∧
        (t.ring n).cqTail = k.cqTail))

/-- A completion finds its place in one of three ways. The item whose completion is the next to be formed has it written when its ring writes completions, holds none and has a free CQ entry: the record of the item's tag and status goes to the next CQ entry and the item leaves the Almanac. On a silent ring the item leaves without a completion; with no free entry its completion is held at the end of the ring's queue and the item stays. The oldest held completion is written, and leaves the queue, once the ring has a free entry: one of a SEQ_OPEN gives the DUE that counts from this time; the item's status then decides its STATUS, and a DEADLINE that passed while it was held makes it ABORTED with DETAIL HOST_STALL. At its DEADLINE an item whose completion is still held, or that waits for the host to take its tiles, gets that status, HOST_ABORT is set and the item is counted; before the DEADLINE neither event changes anything. A write that fails halts the ring. Where the spec leaves a choice it takes the one of the model: log 9, 43, 97. -/
def Obligations.CompletionsAreWrittenHeldOrAborted : Prop :=
  (∀ (s : State) (i : Item), s.item? i.tag = some i → s.nextFormed i = true →
    let k := s.ring i.ring
    (k.silent = false → k.held = [] → 0 < k.cqFree →
      (∃ (u : State) (ms : List Output) (bs : List Byte), exec (.completion i.tag true) s = .next u.finishHalts ∧
        u.out = ms ++ .hostWrite .woWrInv (k.cqBase.toNat + 32 * (k.cqTail.toNat % 2 ^ k.cqLog)) bs :: s.out ∧
        fld bs 0 4 = i.tag.toNat ∧ fld bs 6 1 = ((i.status.map Prod.fst).getD (if i.suspect then 0x01 else 0x00)).toNat ∧
        u.item? i.tag = none ∧ (∀ tag, tag ≠ i.tag → u.item? tag = s.item? tag) ∧
        u.cores = s.cores ∧ u.strands = s.strands ∧ u.mem = s.mem ∧ (i.step = none → u.fst = s.fst)) ∧
      exec (.completion i.tag false) s = .next (s.ringHalt i.ring 3)) ∧
    (k.silent = true → ∀ ok, ∃ u : State, exec (.completion i.tag ok) s = .next u.finishHalts ∧ u.item? i.tag = none ∧
      (i.step = none → u.out = s.out ∧ u.fst = s.fst)) ∧
    (k.silent = false → k.held ≠ [] ∨ k.cqFree = 0 →
      ∀ ok, exec (.completion i.tag ok) s = .next (s.setRing i.ring { k with held := k.held ++ [s.itemRec i] }))) ∧
  (∀ (s : State) (i : Item) (ok : Bool), s.item? i.tag = some i → s.nextFormed i = false → exec (.completion i.tag ok) s = .next s) ∧
  (∀ (s : State) (n : RingId) (r : Rec32) (rest : List Rec32), (s.ring n).held = r :: rest → (s.ring n).silent = false →
    let k := s.ring n
    (0 < k.cqFree →
      (r.bad = false → ∃ (u : State) (ms : List Output) (bs : List Byte), exec (.heldCompletionWrite n true) s = .next u.finishHalts ∧
        u.out = ms ++ .hostWrite .woWrInv (k.cqBase.toNat + 32 * (k.cqTail.toNat % 2 ^ k.cqLog)) bs :: s.out ∧
        fld bs 0 4 = r.tag.toNat ∧
        (r.item = false → fld bs 6 1 = r.status.toNat ∧ fld bs 0x10 2 = r.detail.toNat ∧
          (∀ m p, r.opens = some (m, p) → refused r.status = false → fld bs 0x18 8 = (s.stamp + BitVec.ofNat 64 p).toNat ∧
            ((s.slot m).due = r.value → (u.slot m).due = s.stamp + BitVec.ofNat 64 p)) ∧ (u.ring n).held = rest ∧
          (u.ring n).cqTail = k.cqTail + 1 ∧ u.alm = s.alm ∧ (∀ m, m ≠ n.val → u.ring m = s.ring m)) ∧
        (∀ i, r.item = true → s.item? r.tag = some i → u.item? r.tag = none ∧
          (∀ st, i.status = some st → fld bs 6 1 = st.1.toNat ∧ fld bs 0x10 2 = st.2.toNat) ∧
          (i.status = none → s.now ≤ i.deadline.toNat → fld bs 6 1 = r.status.toNat ∧ fld bs 0x10 2 = r.detail.toNat) ∧
          (i.status = none → i.deadline.toNat < s.now → fld bs 6 1 = 0x20 ∧ fld bs 0x10 2 = 0x1004 ∧
            u.alm.hostAbortCount = sat s.alm.hostAbortCount))) ∧
      (∀ ok, ok = false ∨ r.bad = true → exec (.heldCompletionWrite n ok) s = .next (s.ringHalt n 3))) ∧
    (k.cqFree = 0 → ∀ ok, exec (.heldCompletionWrite n ok) s = .next s)) ∧
  (∀ (s : State) (i : Item), s.item? i.tag = some i → i.status = none →
    (s.heldItem i = true → i.deadline.toNat ≤ s.now →
      ∃ t, exec (.hostStall i.tag) s = .next t ∧ t.item? i.tag = some { i with status := some (0x20, 0x1004) } ∧
        t.alm.hostAbortCount = sat s.alm.hostAbortCount ∧ t.alm.status = setFlag s.alm.status 3 ∧ t.cores = s.cores ∧ t.out = s.out) ∧
    (s.heldItem i = false → s.hostBlocked i = true → i.deadline.toNat ≤ s.now →
      ∃ t j, exec (.hostAbort i.tag) s = .next t ∧ t.item? i.tag = some j ∧ j.status = some (0x20, 0x1004) ∧ j.ring = i.ring ∧
        t.alm.hostAbortCount = sat s.alm.hostAbortCount ∧ t.alm.status = setFlag s.alm.status 3) ∧
    (s.now < i.deadline.toNat → exec (.hostStall i.tag) s = .next s ∧ exec (.hostAbort i.tag) s = .next s))

/-- A HOST station's oldest outbound tile goes, header then payload, to slot (tile tail mod 2^TILE_SLOTS_LOG) of its ring's tile area once a slot is free: the whole 64-byte lines as one write and the rest of the last line as another (log 97). The tile tail advances, the tile leaves the buffer, and its credit returns to its source on this module, or across Clasp on a link that is in service. With no free slot nothing changes; the tile of a HALTED ring ends its work item with RING_HALT, and one whose write fails ends it and halts the ring. Where the spec leaves a choice it takes the one of the model: log 9, 85, 88, 97. -/
def Obligations.HostTilesFillTheTileAreaInOrder : Prop :=
  ∀ (s : State) (n : StrandId) (k : StrandSt) (st : StationE) (tl : Tile) (rest : List Tile), s.strand? n = some k →
    k.outbound = tl :: rest → s.dstStn k = some st → st.kind = .host →
    let r := s.ring st.target
    let a := r.tileBase.toNat + 4096 * (r.units.toNat % 128) * (r.tileTail.toNat % 2 ^ r.tileLog)
    let bs := tileHeader tl ++ tl.payload
    let whole := bs.length / 64 * 64
    let writes : List Output := (if bs.length = whole then [] else [.hostWrite .woWrInv (a + whole) (bs.drop whole)]) ++
      (if whole = 0 then [] else [.hostWrite .itoMWr a (bs.take whole)])
    (r.silent = false → 0 < r.tileFree →
      (k.entry.place ≠ .fromPeer → ∃ t, exec (.hostTileWrite n true) s = .next t ∧ t.out = writes ++ s.out ∧
        t.ring st.target = { r with tileTail := r.tileTail + 1 } ∧
        t.strand? n = some (({ k with outbound := rest } : StrandSt).addCredit (s.groupOf k tl.srcMember tl.seq) 1) ∧
        (∀ m, m ≠ n.val → t.strand? m = s.strand? m) ∧ t = { s with rng := t.rng, out := t.out, strands := t.strands, alm := t.alm }) ∧
      (k.entry.place = .fromPeer → ∃ t, exec (.hostTileWrite n true) s = .next t ∧
        t.out = (match s.ownLinkOf n false with
          | some l => if (s.link l).serves then [.claspAck l n [] [s.groupOf k tl.srcMember tl.seq]] else []
          | none => []) ++ writes ++ s.out ∧
        t.ring st.target = { r with tileTail := r.tileTail + 1 } ∧ t.strand? n = some { k with outbound := rest } ∧
        (∀ m, m ≠ n.val → t.strand? m = s.strand? m) ∧ t = { s with rng := t.rng, out := t.out, strands := t.strands, alm := t.alm, cls := t.cls }) ∧
      exec (.hostTileWrite n false) s = .next ((s.endItem tl.work 0x20 0x1009).ringHalt st.target 3)) ∧
    (r.state ≠ .halted → r.tileFree = 0 → ∀ ok, exec (.hostTileWrite n ok) s = .next s) ∧
    (r.state = .halted → ∀ ok, exec (.hostTileWrite n ok) s = .next (s.endItem tl.work 0x20 0x1005))

/-- ENABLE turns an OFF ring ON when its parameters pass, with all its counts at 0; when a parameter fails, the ring stays OFF with CFG_ERR set and the number of the failing check. DISABLE takes an ON ring that no HOST station and no stream holds to STOPPING, or at once to OFF when nothing of it is outstanding; a HALTED ring goes the same way; a ring that is held stays ON with BUSY set. The end of a vector's microsecond sends the combined message when a request has waited, and starts another microsecond; when none has, it only ends the period. A masked vector sets its pending bit in place of the message. Where the spec leaves a choice it takes the one of the model: log 10, 19. -/
def Obligations.RingsTurnOnAndOffAndCoalesceInterrupts : Prop :=
  (∀ (s : State) (v : Fin 2048),
    (tget? s.rng.coalesce v = some true → s.masked v = false →
      ∃ t, exec (.interruptCoalesceExpiry v) s = .next t ∧ t.out = .msix v :: s.out ∧ tget? t.rng.coalesce v = some false ∧
        t = { s with out := t.out, rng.coalesce := t.rng.coalesce }) ∧
    (tget? s.rng.coalesce v = some true → s.masked v = true →
      ∃ t, exec (.interruptCoalesceExpiry v) s = .next t ∧ t.out = s.out ∧ tget? t.rng.pba v = some true ∧
        tget? t.rng.coalesce v = none) ∧
    (tget? s.rng.coalesce v = some false →
      ∃ t, exec (.interruptCoalesceExpiry v) s = .next t ∧ t.out = s.out ∧ tget? t.rng.coalesce v = none)) ∧
  (∀ (s : State) (n : RingId), s.writable = true →
    ((s.ring n).state = .off → s.cfgFault (s.ring n) = 0 →
      ∃ k, exec (.ringEnable n) s = .next (s.setRing n k) ∧ k.state = .on ∧ k.sqHead = 0 ∧ k.sqTail = 0 ∧ k.cqTail = 0 ∧
        k.cqHead = 0 ∧ k.tileTail = 0 ∧ k.tileHead = 0 ∧ k.sqBase = (s.ring n).sqBase ∧ k.flags = (s.ring n).flags) ∧
    ((s.ring n).state = .off → s.cfgFault (s.ring n) ≠ 0 →
      ∃ t, exec (.ringEnable n) s = .next t ∧ (t.ring n).state = .off ∧ (t.ring n).flags.getLsbD 0 = true ∧
        (t.ring n).cfgFault = BitVec.ofNat 4 (s.cfgFault (s.ring n)) ∧ (∀ m, m ≠ n.val → t.ring m = s.ring m)) ∧
    ((s.ring n).state = .on ∧ s.ringBusy n = false ∨ (s.ring n).state = .halted →
      ∃ t, exec (.ringDisable n) s = .next t ∧ (∀ m, m ≠ n.val → t.ring m = s.ring m) ∧ t = { s with rng := t.rng } ∧
        ((s.ring n).outstanding ≠ 0 → (t.ring n).state = .stopping) ∧
        ((s.ring n).outstanding = 0 → (s.ring n).held = [] → s.alm.items.all (fun i => i.ring != n) = true → (t.ring n).state = .off)) ∧
    ((s.ring n).state = .on → s.ringBusy n = true →
      exec (.ringDisable n) s = .next (s.setRing n { s.ring n with flags := (s.ring n).flags ||| 16 })))

/-! ## Descriptors, jobs and work items -/

/-- Descriptors without operands (NOP, JOB_OPEN, JOB_COMMIT, JOB_CLOSE, JOB_KILL) and ABORT are refused in the order form, then device state: an opcode that the table does not list completes REJECTED_FORM with DETAIL 0x2000, a faulty field completes REJECTED_FORM with 0x2000 plus the offset of the first one, and JOB_OPEN and JOB_COMMIT outside READY complete REJECTED_STATE with 0x8001. Beyond the landing and the completion nothing changes. Where the spec leaves a choice it takes the one of the model: log 14, 15, 16. -/
def Obligations.DescriptorsAreRefusedByFormThenDeviceState : Prop :=
  ∀ (s : State) (n : RingId) (d : Desc) (b : Bool),
    ∀ p ∈ [(Instr.nopDesc n, 0x01), (.abort n, 0x03), (.jobOpen n, 0x10), (.jobCommit n b, 0x13), (.jobClose n, 0x14), (.jobKill n, 0x15)],
      (s.landing n p.2 = .refuse d → Safety.Ends (exec p.1 s) (s.take n) d 0x12 0x2000) ∧
      (∀ o, s.landing n p.2 = .go d → firstFault (headerFaults d) = some o → Safety.Ends (exec p.1 s) (s.take n) d 0x12 (0x2000 + o)) ∧
      (s.landing n p.2 = .go d → firstFault (headerFaults d) = none → p.2 = 0x10 ∨ p.2 = 0x13 → s.gen.state ≠ .ready →
        Safety.Ends (exec p.1 s) (s.take n) d 0x11 0x8001) ∧
      (s.landing n p.2 = .wait → exec p.1 s = .next s)

/-- JOB_OPEN makes an absent job OPEN with no tables while fewer than 64 are open, and is refused with 0x8002 otherwise. LOAD_STATIONS and LOAD_STRANDS of a good image replace that table of an OPEN job and leave its other table; on a job that is not OPEN they are refused with 0x8002 and change no job. Both read the image that the descriptor names. Where the spec leaves a choice it takes the one of the model: log 14, 15, 16, 114. -/
def Obligations.JobsOpenAndLoadTheirTables : Prop :=
  ∀ (s : State) (n : RingId) (d : Desc) (mem : HostMem) (bs : List Byte),
    (Safety.Lands s n 0x10 (fun _ => []) d →
      (s.job? (descJob d) = none → s.jobs.length < 64 → Safety.Ends (exec (.jobOpen n) s) ((s.take n).setJob (descJob d) {}) d 0x00) ∧
      ((s.job? (descJob d)).isSome = true ∨ 64 ≤ s.jobs.length → Safety.Ends (exec (.jobOpen n) s) (s.take n) d 0x11 0x8002)) ∧
    (Safety.Lands s n 0x11 (s.loadFaults 64 1024) d → fetchImage mem 1 64 1024 d = some bs →
      ∀ sts, stationsOf (fun a n => s.hostAddrOk a 64 n) mem 0 [] (imageEntries 64 bs) = .inr sts →
      (s.gen.lp = true ∨ ∀ e ∈ sts, e.kind ≠ .loupe) →
      ∃ ms : List Output, (∀ o ∈ ms, ∃ a k, o = .hostRead a k) ∧
      let u : State := { s.take n with out := ms ++ (.hostRead (descF d 0x08 8) (descF d 0x10 4) :: s.out) }
      (∀ k, s.job? (descJob d) = some k → k.phase = .opened →
        Safety.Ends (exec (.loadStations n mem) s) (u.setJob (descJob d) { k with stations := some sts }) d 0x00) ∧
      (s.openJob (descJob d) = false → Safety.Ends (exec (.loadStations n mem) s) u d 0x11 0x8002)) ∧
    (Safety.Lands s n 0x12 (s.loadFaults 32 4096) d → fetchImage mem 2 32 4096 d = some bs →
      ∀ sks, strandsOf 0 [] (imageEntries 32 bs) = .inr sks → (∀ e ∈ sks, s.unlicensed e = false) →
      let u := (s.take n).put (.hostRead (descF d 0x08 8) (descF d 0x10 4))
      (∀ k, s.job? (descJob d) = some k → k.phase = .opened →
        Safety.Ends (exec (.loadStrands n mem) s) (u.setJob (descJob d) { k with strands := some sks }) d 0x00) ∧
      (s.openJob (descJob d) = false → Safety.Ends (exec (.loadStrands n mem) s) u d 0x11 0x8002))

/-- A JOB_COMMIT whose checks pass makes the job COMMITTED and completes DONE: every strand of it starts with SEQ 0 on both sides, a LOCAL strand is bound and holds DEPTH credits in each credit group, and a strand to or from another module begins to bind. A commit that lacks a table is refused with 0x8002, one that a JOB_KILL of the job overtakes ends ABORTED with 0x1008, one with a fault of form is refused with its DETAIL, one with a strand whose route needs a link that is not licensed is refused REJECTED_LICENCE with 0x3000 plus the number of the first such entry, one that needs what another job holds is refused with 0x8003, and one whose state check fails is refused with that check's DETAIL; each of these leaves the job OPEN. Where the spec leaves a choice it takes the one of the model: log 44, 93, 127. -/
def Obligations.CommitBindsTheStrandsOfTheJob : Prop :=
  ∀ (s : State) (n : RingId) (d : Desc) (k : JobSt) (killed : Bool), Safety.Lands s n 0x13 (fun _ => []) d →
    s.job? (descJob d) = some k → k.phase = .opened →
    let o := exec (.jobCommit n killed) s
    ((k.stations = none ∨ k.strands = none) → Safety.Ends o (s.take n) d 0x11 0x8002) ∧
    (∀ sts sks, k.stations = some sts → k.strands = some sks →
      (killed = true → (s.take n).killWaits (descJob d) = true → Safety.Ends o (s.take n) d 0x20 0x1008) ∧
      (killed = false ∨ (s.take n).killWaits (descJob d) = false →
        (∀ detail, commitForm sts sks = some detail → Safety.Ends o (s.take n) d 0x12 detail) ∧
        (∀ i, commitForm sts sks = none → firstIdx s.unlicensed sks = some i → Safety.Ends o (s.take n) d 0x13 (0x3000 + i)) ∧
        (commitForm sts sks = none → (∀ e ∈ sks, s.unlicensed e = false) →
          (s.heldElsewhere (descJob d) sts sks = true → Safety.Ends o (s.take n) d 0x11 0x8003) ∧
          (s.heldElsewhere (descJob d) sts sks = false →
            let u := (boundCores sts).foldl (fun s l => s.boundary l) (s.take n)
            (u.commitState (descJob d) sts sks = none →
              ∃ t kept j, Safety.Ends o t d 0x00 0 kept ∧ t.job? (descJob d) = some j ∧ j.phase = .committed ∧
                j.stations = some sts ∧ j.strands = some sks ∧
                ∀ e ∈ sks, ∃ x, t.strand? e.strand = some x ∧ x.job = descJob d ∧ x.entry.strand = e.strand ∧ x.nextSeq = [] ∧ x.expSeq = [] ∧
                  x.slots = [] ∧ (x.entry.place = .locl → x.bound = true ∧ ∀ g < t.groups x, tget x.credits g 0 = x.entry.depth) ∧
                  (x.entry.place ≠ .locl → x.bound = false ∧ x.binding = true)) ∧
            (∀ detail, u.commitState (descJob d) sts sks = some detail →
              ∃ t, Safety.Ends o t d 0x11 detail ∧ t.job? (descJob d) = some k)))))

/-- JOB_CLOSE of an OPEN job and JOB_KILL of an OPEN job discard its tables and complete DONE; JOB_CLOSE of a COMMITTED job makes it CLOSING with the descriptor pending, unbinds its streams, and ends none of its items. JOB_KILL of a COMMITTED or CLOSING job ends every item of it that has an unfinished window ABORTED with DETAIL 0x1001. Either operation on an absent job, and JOB_KILL of one that is being killed, is refused with 0x8002. Where the spec leaves a choice it takes the one of the model: log 45, 79. -/
def Obligations.JobsCloseAndDie : Prop :=
  ∀ (s : State) (n : RingId) (d : Desc),
    (Safety.Lands s n 0x14 (fun _ => []) d → s.job? (descJob d) = none → Safety.Ends (exec (.jobClose n) s) (s.take n) d 0x11 0x8002) ∧
    (Safety.Lands s n 0x15 (fun _ => []) d → s.job? (descJob d) = none ∨ (∃ k, s.job? (descJob d) = some k ∧ k.phase = .killing) →
      Safety.Ends (exec (.jobKill n) s) (s.take n) d 0x11 0x8002) ∧
    ∀ k, s.job? (descJob d) = some k →
    (Safety.Lands s n 0x14 (fun _ => []) d → k.phase = .opened →
      Safety.Ends (exec (.jobClose n) s) { s.take n with jobs := tdel s.jobs (descJob d) } d 0x00) ∧
    (Safety.Lands s n 0x15 (fun _ => []) d → k.phase = .opened →
      Safety.Ends (exec (.jobKill n) s) { s.take n with jobs := tdel s.jobs (descJob d) } d 0x00) ∧
    (Safety.Lands s n 0x14 (fun _ => []) d → k.phase = .committed →
      ∃ u : State, exec (.jobClose n) s = .next u.finishHalts ∧ u.job? (descJob d) = some { k with phase := .closing, closer := some (descPend d) } ∧
        (∀ j, j ≠ descJob d → u.job? j = s.job? j) ∧ u.alm = s.alm ∧ u.cores = s.cores ∧ u.strands = s.strands ∧
        (∀ n st, tget? u.fst.streams n = some st → st.job = descJob d → st.unbinding.isSome = true) ∧
        (s.fst.streams = [] → u.out = s.out)) ∧
    (Safety.Lands s n 0x15 (fun _ => []) d → k.phase = .committed ∨ k.phase = .closing →
      ∃ u : State, exec (.jobKill n) s = .next u.finishHalts ∧ (s.jobItems (descJob d) = [] → u.job? (descJob d) = none) ∧
        ∀ i, s.item? i.tag = some i → i.job = descJob d → i.status = none → i.wins.all (s.winDone i) = false →
          ∃ i', u.item? i.tag = some i' ∧ i'.status = some (0x20, 0x1001) ∧ i'.ring = i.ring)

/-- A CLOSING or KILLING job whose last item has completed goes: the job is absent, its strands are gone, other jobs stay, and the descriptor that waits completes DONE. When no unit of a core and no lane pair is to be retired, each core it bound is unbound with no program, run, accumulators or vector registers left and with zeros in its scratchpad outside the resident region, and other cores keep everything (but for a width held since a substitution). A job that still has items, or that is OPEN, COMMITTED or absent, stays as it is. Where the spec leaves a choice it takes the one of the model: log 79. -/
def Obligations.ClosedJobsLeaveNothingBehind : Prop :=
  ∀ (s : State) (j : W16),
    (∀ k, s.job? j.toNat = some k → k.phase = .closing ∨ k.phase = .killing → s.jobItems j.toNat = [] →
      ∃ t : State, exec (.jobCloseComplete j) s = .next (match k.closer with | some p => t.finish p 0x00 0 | none => t).finishHalts ∧
        t.job? j.toNat = none ∧ (∀ i, i ≠ j.toNat → t.job? i = s.job? i) ∧ (∀ e ∈ t.strands, e.2.job ≠ j.toNat) ∧
        ((∀ c, s.unitsDue c = false) → (∀ l, s.pairsDue l = []) → j ≠ 0 →
          (∀ c, (s.core c).job = j.toNat →
            (t.core c).job = 0 ∧ (t.core c).station = none ∧ (t.core c).prog = none ∧ (t.core c).run = none ∧ (t.core c).bank = [] ∧
            (t.core c).vregs = [] ∧ (t.core c).plane0 = .zeroed ∧ (t.core c).plane1 = .zeroed ∧ (t.core c).resident = (s.core c).resident ∧
            ∀ a, (∀ r, (s.core c).resident = some r → a < 4096 * r.base ∨ 4096 * (r.base + r.len) ≤ a) → Memory.get? (t.core c).spad a = none) ∧
          (∀ c, (s.core c).job ≠ j.toNat → ∃ w o, t.core c = { s.core c with servedWidth := w, outOfService := o } ∧
            ((s.core c).widthHeld = false → w = none ∧ o = false)))) ∧
    (s.jobItems j.toNat ≠ [] ∨ s.job? j.toNat = none ∨ (∃ k, s.job? j.toNat = some k ∧ (k.phase = .opened ∨ k.phase = .committed)) →
      exec (.jobCloseComplete j) s = .next s)

/-- A WORK item of a committed job that passes every check before the price, and fits the calendar, is admitted with its windows and completion slot, counted, and its stations' tails move to the ends of its windows; one that does not fit is refused REJECTED_LATE and counted; one that lands while 32,768 items are incomplete is refused REJECTED_LATE with FULL set. None of the refused is admitted. A PROBE (CLASS 2) is not admitted either: it completes DONE with the priced completion, 1,000 times its completion slot, as VALUE. A WORK whose tiles do not fit the intake buffer waits. Where the spec leaves a choice it takes the one of the model: log 39, 40, 41, 42, 89, 127. -/
def Obligations.WorkIsAdmittedAtItsPriceOrRefused : Prop :=
  ∀ (s : State) (n : RingId) (mem : HostMem) (d : Desc), s.landing n 0x02 = .go d →
    (descF d 0x1C 1 ≤ 64 → 16777216 < s.intakeUse + intakeNeed mem d →
      exec (.work n mem) s = .next (s.modRing n (fun k => { k with waitIntake := true }))) ∧
    (descF d 0x1C 1 ≤ 64 → s.intakeUse + intakeNeed mem d ≤ 16777216 →
    let v := ((s.modRing n (fun k => { k with waitIntake := false })).readTiles mem d).noteVerdict
    firstFault (headerFaults d ++ v.workFaults d) = none → s.gen.state = .ready →
    let u := v.take n
    let p := descF d 0x19 1
    ∀ jb sts sks es ts, s.job? (descJob d) = some jb → jb.phase = .committed → jb.stations = some sts → jb.strands = some sks →
      planStations sts sks p ≠ [] → tileList mem d = some es →
      u.listTiles mem (u.hostStrandOk (descJob d) d.ring) 0 0 [] es = .inr ts → u.workState d jb sts sks p (es.map (·.strand)) = none →
      s.alm.holdover = false →
      let ws := u.windows sts sks p (descF d 0x1A 2) (tget jb.priced p {})
      let full := 32768 ≤ s.alm.items.length
      let late := fun (extra : AlmSt → Prop) => ∃ a : AlmSt, Safety.Ends (exec (.work n mem) s) { u with alm := a } d 0x10 ∧
        a.items = s.alm.items ∧ a.tails = s.alm.tails ∧ a.lateCount = sat s.alm.lateCount ∧ a.status.getLsbD 1 = true ∧ extra a
      (full → late (fun a => a.status.getLsbD 4 = true)) ∧
      (¬ full → descF d 0x08 8 < s.now ∨ s.now + 10000000000 < descF d 0x10 8 → late (fun _ => True)) ∧
      (¬ full → s.now ≤ descF d 0x08 8 → descF d 0x10 8 ≤ s.now + 10000000000 →
        (descF d 0x18 1 = 2 → Safety.Ends (exec (.work n mem) s) u d 0x00 0 0
          (freeCslot u.alm.cslots u.alm.cslots.length (u.earliest 0 ws + spanSlots ws) * 1000)) ∧
        (descF d 0x18 1 ≠ 2 → u.verdict (descF d 0x08 8) (descF d 0x10 8) ws = .late → late (fun _ => True)) ∧
        (∀ t0 c wins, descF d 0x18 1 ≠ 2 → u.verdict (descF d 0x08 8) (descF d 0x10 8) ws = .place t0 c wins →
          ∃ (t : State) (i : Item), exec (.work n mem) s = .next t.finishHalts ∧ t.item? (descTag d) = some i ∧ i.job = descJob d ∧
            i.wins = wins ∧ i.t0 = t0 ∧ i.cslot = c ∧
            i.status = none ∧ t.alm.admitCount = s.alm.admitCount + 1 ∧
            t.alm.tails = wins.foldl (fun tl w => tput tl w.station w.last) s.alm.tails ∧
            tget t.alm.cslots c 0 = tget s.alm.cslots c 0 + 1 ∧ t.rng = u.rng ∧ t.jobs = s.jobs ∧ t.cores = s.cores)))

/-- ABORT of an item that is not ending ends it ABORTED with DETAIL 0x1002 and completes DONE with COUNT 1; of one that is ending it changes nothing of the item and completes DONE with COUNT 0; of no item it is refused with 0x8009. A TIMED item's RELEASE frees its runs, and lets its host tiles enter their strands in order, when the time has come and not before. A recomputation prices every plan of a committed job with the values now in force and leaves none stale. Where the spec leaves a choice it takes the one of the model: log 79. -/
def Obligations.ItemsAreAbortedReleasedAndRepriced : Prop :=
  (∀ (s : State) (n : RingId) (d : Desc), Safety.Lands s n 0x03 (fun _ => []) d →
    let target := BitVec.ofNat 32 (descF d 0x08 4)
    (s.item? target = none → Safety.Ends (exec (.abort n) s) (s.take n) d 0x11 0x8009) ∧
    (∀ i, s.item? target = some i → s.isEnding i = true → Safety.Ends (exec (.abort n) s) (s.take n) d 0x00) ∧
    (∀ i, s.item? target = some i → s.isEnding i = false →
      ∃ u i', Safety.Ends (exec (.abort n) s) u d 0x00 0 1 ∧ u = (s.take n).endItem target 0x20 0x1002 ∧
        u.item? target = some i' ∧ i'.status = some (0x20, 0x1002))) ∧
  (∀ (s : State) (i : Item), s.item? i.tag = some i → i.released = false →
    (i.release.toNat ≤ s.now → ∃ t i', exec (.timedRelease i.tag) s = .next t ∧
      t = (s.modItem i.tag (fun i => { i with released := true })).feedHost ∧ t.item? i.tag = some i' ∧ i'.released = true ∧ i'.wins = i.wins) ∧
    (s.now < i.release.toNat → exec (.timedRelease i.tag) s = .next s)) ∧
  (∀ (s : State) (j : W16) (jb : JobSt) sts sks, s.job? j.toNat = some jb → jb.phase = .committed → jb.stations = some sts → jb.strands = some sks →
    ∃ t, exec (.planRecompute j) s = .next t ∧ t.job? j.toNat = some { jb with priced := s.reprice sts sks, stale := [] } ∧
      (∀ i, i ≠ j.toNat → t.job? i = s.job? i) ∧ t = { s with jobs := t.jobs, strands := t.strands } ∧
      ∀ e ∈ t.strands, e.2.job = j.toNat → e.2.recompute = false)

/-! ## Locket, Feast and the CXL attachment -/

/-- LKT_POOL_ADD of frames that lie in their tier, are neither pooled nor used and whose LPDDR5X is not lent adds exactly the named frames to the pool of the field and tier; one that breaks this is refused with 0x800A. LKT_POOL_REMOVE of frames that are all in the pool takes exactly them out, and is refused otherwise. Nothing else of Locket changes. Where the spec leaves a choice it takes the one of the model: log 14. -/
def Obligations.LocketPoolsGainAndLoseTheNamedFrames : Prop :=
  ∀ (s : State) (n : RingId) (d : Desc),
    let f := descF d 0x08 1
    let lp := decide (descF d 0x09 1 = 1)
    let count := descF d 0x0C 4
    let ends := descF d 0x10 4 + count * s.pageUnits
    let names := (List.range count).map (fun i => descF d 0x10 4 + i * s.pageUnits)
    let fine := ends ≤ (if lp then lpSize else hbmSize) / 65536 ∧ ¬ (lp = true ∧ s.lkt.lend.getLsbD f = true) ∧
      ∀ x ∈ names, x ∉ s.pool f lp ∧ s.frameUsed f lp x = false
    (Safety.Lands s n 0x20 s.poolFaults d →
      (fine → ∃ p, Safety.Ends (exec (.lktPoolAdd n) s) ((s.take n).setPool f lp p) d 0x00 ∧ ∀ x, x ∈ p ↔ x ∈ s.pool f lp ∨ x ∈ names) ∧
      (¬ fine → Safety.Ends (exec (.lktPoolAdd n) s) (s.take n) d 0x11 0x800A)) ∧
    (Safety.Lands s n 0x21 s.poolFaults d →
      ((∀ x ∈ names, x ∈ s.pool f lp) ∧ count ≤ (s.pool f lp).length →
        ∃ p, Safety.Ends (exec (.lktPoolRemove n) s) ((s.take n).setPool f lp p) d 0x00 ∧ ∀ x, x ∈ p ↔ x ∈ s.pool f lp ∧ x ∉ names) ∧
      (¬ (∀ x ∈ names, x ∈ s.pool f lp) ∨ (s.pool f lp).length < count → Safety.Ends (exec (.lktPoolRemove n) s) (s.take n) d 0x11 0x800A))

/-- LKT_MAP to HBM or LPDDR is all or nothing: with every named entry FREE and as many frames in the pool it maps each entry to a frame drawn from the pool, no two to one frame, and leaves every other entry; otherwise it is refused with 0x800A and changes no entry and no pool. Which frame an entry draws is open. LKT_MAP to a lending peer maps the named frames in order; a lender that does not lend or refuses has it refused. LKT_UNMAP frees every named entry, none of them OWNED, returns each local frame to its pool and tells the lender of each PEER frame over a link in service; one OWNED entry has it refused. LKT_PIN sets or clears PIN of every named entry and nothing else, refused where one is FREE. LKT_READ writes the named entries, 8 bytes each with STATE in bits [2:0], to host memory and changes no entry. Where the spec leaves a choice it takes the one of the model: log 38. -/
def Obligations.LocketEntriesAreMappedUnmappedPinnedAndRead : Prop :=
  (∀ (s : State) (n : RingId) (d : Desc) (a : Option LenderAnswer), Safety.Lands s n 0x22 s.mapFaults d →
    let f := descF d 0x11 1
    let lp := decide (descF d 0x10 1 = 1)
    let first := descF d 0x08 4
    let count := descF d 0x0C 4
    let pos := descF d 0x12 1
    let tier := descF d 0x13 1
    (descF d 0x10 1 ≠ 2 →
      ((∃ i < count, (s.entry (first + i)).state ≠ .free) ∨ (s.pool f lp).length < count →
        Safety.Ends (exec (.lktMap n a) s) (s.take n) d 0x11 0x800A) ∧
      ((∀ i < count, (s.entry (first + i)).state = .free) → count ≤ (s.pool f lp).length → (s.pool f lp).Nodup →
        ∃ u : State, Safety.Ends (exec (.lktMap n a) s) u d 0x00 ∧ u = { s.take n with lkt := u.lkt, free := u.free } ∧
          (∀ i < count, let e := u.entry (first + i)
            e.state = (if lp then .lpddr else .hbm) ∧ e.field = f ∧ e.frame ∈ s.pool f lp ∧ e.frame ∉ u.pool f lp ∧ e.pin = false ∧ e.owned = false) ∧
          (∀ i < count, ∀ j < count, i ≠ j → (u.entry (first + i)).frame ≠ (u.entry (first + j)).frame) ∧
          (∀ m, m < first ∨ first + count ≤ m → u.entry m = s.entry m) ∧ (u.pool f lp).length + count = (s.pool f lp).length)) ∧
    (descF d 0x10 1 = 2 →
      (s.gen.cl = false → (∃ l ∈ (s.trayRoute pos).getD [], 2 ≤ l) → Safety.Ends (exec (.lktMap n a) s) (s.take n) d 0x13 0x2012) ∧
      ((s.gen.cl = true ∨ ∀ l ∈ (s.trayRoute pos).getD [], l < 2) → (∀ i < count, (s.entry (first + i)).state = .free) →
      (s.trayRoute pos).getD [] ≠ [] → s.cls.cfg.toNat % 16 ≠ 0 →
      descF d 0x14 4 + count * s.pageUnits ≤ (if tier = 1 then lpSize else hbmSize) / 65536 →
      let told := (s.take n).putOn (s.trayLink pos) 3 (.peerMapMsg pos
        { requester := s.gen.straps.toNat % 4, field := f, first := descF d 0x14 4, frames := count, pageUnits := s.pageUnits, hbm := decide (tier = 0) })
      (∀ x, a = some x → x.lends = true → x.refuses = false →
        ∃ u : State, Safety.Ends (exec (.lktMap n a) s) u d 0x00 ∧ u = { told with lkt.entries := u.lkt.entries } ∧
          (∀ i < count, u.entry (first + i) =
            { state := .peer, field := f, trayPos := pos, frame := descF d 0x14 4 + i * s.pageUnits, peerTier := tier, peerEpoch := x.epoch }) ∧
          (∀ m, m < first ∨ first + count ≤ m → u.entry m = s.entry m)) ∧
      ((∀ x, a = some x → x.lends = false ∨ x.refuses = true) → Safety.Ends (exec (.lktMap n a) s) told d 0x11 0x800A)))) ∧
  (∀ (s : State) (n : RingId) (d : Desc),
    let first := descF d 0x08 4
    let count := descF d 0x0C 4
    (Safety.Lands s n 0x23 rangeFaults d →
      ((∃ i < count, (s.entry (first + i)).owned = true) → Safety.Ends (exec (.lktUnmap n) s) (s.take n) d 0x11 0x800A) ∧
      ((∀ i < count, (s.entry (first + i)).owned = false) →
        ∃ u : State, Safety.Ends (exec (.lktUnmap n) s) u d 0x00 ∧ u = { s.take n with lkt := u.lkt, out := u.out, cls := u.cls } ∧
          (∀ i < count, (u.entry (first + i)).state = .free) ∧
          (∀ i < count, (s.entry (first + i)).state ≠ .free → (s.entry (first + i)).isPeer = false →
            (s.entry (first + i)).frame ∈ u.pool (s.entry (first + i)).field (s.entry (first + i)).inLp) ∧
          (∀ i < count, (s.entry (first + i)).isPeer = true → (s.link (s.trayLink (s.entry (first + i)).trayPos)).serves = true →
            Output.peerMapMsg (s.entry (first + i)).trayPos
              { requester := s.gen.straps.toNat % 4, field := (s.entry (first + i)).field, first := (s.entry (first + i)).frame, frames := 1,
                pageUnits := s.pageUnits, hbm := decide ((s.entry (first + i)).peerTier = 0), unmap := true } ∈ u.out) ∧
          (∀ m, m < first ∨ first + count ≤ m → u.entry m = s.entry m))) ∧
    (Safety.Lands s n 0x24 (fun d => rangeFaults d ++ [(0x10, decide (1 < descF d 0x10 1))]) d →
      ((∃ i < count, (s.entry (first + i)).state = .free) → Safety.Ends (exec (.lktPin n) s) (s.take n) d 0x11 0x800A) ∧
      ((∀ i < count, (s.entry (first + i)).state ≠ .free) →
        ∃ u : State, Safety.Ends (exec (.lktPin n) s) u d 0x00 ∧ u = { s.take n with lkt.entries := u.lkt.entries } ∧
          (∀ i < count, u.entry (first + i) = { s.entry (first + i) with pin := decide (descF d 0x10 1 = 1) }) ∧
          (∀ m, m < first ∨ first + count ≤ m → u.entry m = s.entry m))) ∧
    (Safety.Lands s n 0x25 (fun d => rangeFaults d ++ [(0x10, !s.hostAddrOk (descF d 0x10 8) 64 (8 * descF d 0x0C 4))]) d →
      Safety.Ends (exec (.lktRead n) s) ((s.take n).hostPut (descF d 0x10 8)
        (((List.range count).map (first + ·)).flatMap (fun m => (s.entry m).bytes))) d 0x00) ∧
    ∀ e : LktEntry, e.bytes.length = 8 ∧ fld e.bytes 0 8 % 8 = e.state.code)

/-- As the lender, outside RESET, a module answers a map message: it grants frames of a lent field that lie in its LPDDR5X and overlap none that any peer has mapped, and records them for the requester alone; it refuses all others, HBM3E among them, and records nothing. An unmap forgets the requester's named frames. A request under a stale epoch is refused with bit 8 of CLS_STATUS set, and one for frames not mapped reads zeros, stores nothing and sets that bit too. A mapped read answers the bytes and names the words that are poisoned, that a tripped device holds, or that cross Filigree with an error; a mapped write stores the bytes. The answer goes out on the link to the requester when that link is in service. Where the spec leaves a choice it takes the one of the model: log 49, 128. -/
def Obligations.LentMemoryServesOnlyWhatItsPeersMapped : Prop :=
  (∀ (s : State) (m : PeerMap), s.gen.state ≠ .reset →
    let units := (List.range (m.frames * m.pageUnits)).map (m.first + ·)
    let fine := m.hbm = false ∧ m.field < 12 ∧ s.lkt.lend.getLsbD m.field = true ∧ m.first + m.frames * m.pageUnits ≤ lpSize / 65536 ∧
      ∀ e ∈ s.lkt.peerMaps, e.1 = m.field → e.2.2 ∉ units
    (m.unmap = false → fine → exec (.peerMapMessage m) s =
      .next (({ s with lkt.peerMaps := s.lkt.peerMaps ++ units.map (fun u => (m.field, m.requester, u)) } : State).putOn (s.trayLink m.requester) 3 (.peerMapAnswer m.requester true))) ∧
    (m.unmap = false → ¬ fine → exec (.peerMapMessage m) s = .next (s.putOn (s.trayLink m.requester) 3 (.peerMapAnswer m.requester false))) ∧
    (m.unmap = true → ∃ l, exec (.peerMapMessage m) s = .next (({ s with lkt.peerMaps := l } : State).putOn (s.trayLink m.requester) 3 (.peerMapAnswer m.requester true)) ∧
      ∀ e, e ∈ l ↔ e ∈ s.lkt.peerMaps ∧ ¬ (e.1 = m.field ∧ e.2.1 = m.requester ∧ e.2.2 ∈ units))) ∧
  (∀ (s : State) (r : PeerReq) (bad wire : List Nat), s.gen.state ≠ .reset → s.thm.coolantStop = false → r.len ≤ 4096 →
    let l := s.trayLink r.requester
    let answers := fun (t : State) (o : Output) => (s.link l).carries = true → t.out.head? = some o
    (r.epoch ≠ s.cls.lendEpoch → exec (.peerRequest r bad wire) s =
      .next (({ s with cls.status := setFlag s.cls.status 8 } : State).putPeer l (.peerAnswer r.requester false [] []))) ∧
    (r.epoch = s.cls.lendEpoch → s.peerMapped r = false →
      ∃ t, exec (.peerRequest r bad wire) s = .next t ∧ t.mem = s.mem ∧ t.lkt = s.lkt ∧
        t.cls = { s.cls with status := t.cls.status, links := t.cls.links } ∧ t.cls.status.getLsbD 8 = true ∧
        answers t (.peerAnswer r.requester true (if r.data.isSome then [] else List.replicate r.len 0) [])) ∧
    (r.epoch = s.cls.lendEpoch → s.peerMapped r = true →
      let a := lpBase r.field + 65536 * r.frame + r.offset
      let u := (s.peerRoutes r).foldl (fun (s : State) x => s.countLinks x.1 x.2) s
      (r.data = none → wire = [] → s.rangeTripped a r.len = false → (∀ i < (r.len + 7) / 8, s.wordPoison (a / 8 + i) = false ∧ i ∉ bad) →
        exec (.peerRequest r bad wire) s = .next (u.putPeer l (.peerAnswer r.requester true (s.memRead a r.len) []))) ∧
      (r.data = none →
        ∃ t ps, exec (.peerRequest r bad wire) s = .next t ∧ answers t (.peerAnswer r.requester true (s.memRead a r.len) ps) ∧
          (∀ i, i ∈ ps ↔ i < (r.len + 7) / 8 ∧ (s.wordPoison (a / 8 + i) = true ∨ i ∈ bad ∨
            (s.rangeTripped a r.len = true ∧ s.devTripped (8 * (a / 8 + i)) = true) ∨ (i ∈ wire ∧ ∃ x ∈ s.peerRoutes r, x.1 ≠ []))) ∧
          t.mem.bytes = s.mem.bytes) ∧
      (∀ bs, r.data = some bs → wire = [] → s.rangeTripped a bs.length = false → (∀ w ∈ r.poison, s.devTripped (8 * (a / 8 + w)) = false) →
        exec (.peerRequest r bad wire) s =
          .next ((r.poison.foldl (fun (s : State) w => s.poisonWord (a / 8 + w)) (u.memWrite a bs)).putPeer l (.peerAnswer r.requester true [] [])))))

/-- A field's copy engine moves one page at a time. PROMOTE takes the lowest entry of the field that the first slot of the promotion queue with one owns, draws a frame of the field's HBM3E pool and makes the entry PROMOTING, or notes POOL_EMPTY; DEMOTE does likewise from HBM to LPDDR5X for its candidate while free frames are low. The switch ends the copy, gives the entry its new tier and frame, holds the copied bytes there, and counts; a word that the copy finds poisoned makes the entry POISONED. An engine that may not work does nothing. Where the spec leaves a choice it takes the one of the model: log 36, 38, 99, 127. -/
def Obligations.PagesMigrateAndSwitch : Prop :=
  ∀ (s : State) (f : FieldId),
    (s.copyIdle f = false → exec (.promote f) s = .next s ∧ exec (.demote f) s = .next s) ∧
    (∀ m, s.copyIdle f = true → s.promoteNext f = some m →
      (s.pool f false = [] → ∃ t, exec (.promote f) s = .next t ∧ t.lkt = { s.lkt with status := setFlag s.lkt.status 2 } ∧ t.mem = s.mem ∧ t.fst = s.fst) ∧
      (s.pool f false ≠ [] → ∃ t fr, exec (.promote f) s = .next t ∧ fr ∈ s.pool f false ∧ fr ∉ t.pool f false ∧
        t.entry m = { s.entry m with state := .promoting } ∧ (∀ i, i ≠ m → t.entry i = s.entry i) ∧
        tget? t.lkt.copies f = some { entry := m, dst := fr, up := true } ∧ t.mem = s.mem ∧ t.fst = s.fst)) ∧
    (∀ m, s.copyIdle f = true → (s.pool f false).length < 32 * s.lkt.hbmLow.toNat → s.demoteNext f = some m → s.pool f true ≠ [] →
      ∃ t fr, exec (.demote f) s = .next t ∧ fr ∈ s.pool f true ∧ fr ∉ t.pool f true ∧
        t.entry m = { s.entry m with state := .demoting } ∧ (∀ i, i ≠ m → t.entry i = s.entry i) ∧
        tget? t.lkt.copies f = some { entry := m, dst := fr, up := false } ∧ t.mem = s.mem) ∧
    (s.copyIdle f = true → (s.pool f false).length < 32 * s.lkt.hbmLow.toNat → s.demoteNext f = none →
      ∃ t, exec (.demote f) s = .next t ∧ t.lkt.status.getLsbD 3 = true ∧ t.lkt.entries = s.lkt.entries ∧ t.lkt.copies = s.lkt.copies ∧ t.mem = s.mem) ∧
    (∀ bad, s.copyRuns f = false → exec (.migrationSwitch f bad) s = .next s) ∧
    (∀ c bad, tget? s.lkt.copies f = some c → s.copyRuns f = true →
      let e := s.entry c.entry
      let src := e.addr 0
      let dst := (if c.up then hbmBase f else lpBase f) + 65536 * c.dst
      ∃ t, exec (.migrationSwitch f bad) s = .next t ∧
        ((∀ i < s.pageBytes / 8, s.wordPoison (src / 8 + i) = false ∧ i ∉ bad) →
          t.entry c.entry = { e with state := if c.up then .hbm else .lpddr, frame := c.dst }) ∧
        ((∃ i < s.pageBytes / 8, s.wordPoison (src / 8 + i) = true ∨ i ∈ bad) →
          (t.entry c.entry).state = .poisoned ∧ t.lkt.status.getLsbD 1 = true) ∧
        (∀ i, i ≠ c.entry → t.entry i = s.entry i) ∧ tget? t.lkt.copies f = none ∧ e.frame ∈ t.pool f c.up ∧
        t.mem.bytes = Memory.write none s.mem.bytes dst (s.memRead src s.pageBytes) ∧
        t.lkt.promoteCount = s.lkt.promoteCount + (if c.up then 1 else 0) ∧ t.lkt.demoteCount = s.lkt.demoteCount + (if c.up then 0 else 1))

/-- FEAST_BIND of a free stream to a strand that leaves a KV station of a COMMITTED job and can carry the largest step tile binds the stream with the descriptor's parameters; it is refused with 0x8002 for another job, REJECTED_FORM with 0x200A for another strand, 0x200C for a strand too narrow, and 0x800A for a bound stream. FEAST_UNBIND of a bound stream with no step in flight ends it and frees its slots; with steps in flight the stream is being unbound and the descriptor waits; of one not bound it is refused. FEAST_READ writes the named slot records to host memory. Where the spec leaves a choice it takes the one of the model: log 79. -/
def Obligations.StreamsAreBoundUnboundAndRead : Prop :=
  ∀ (s : State) (n : RingId) (d : Desc),
    (Safety.Lands s n 0x30 bindFaults d →
      let j := descJob d
      let st := descF d 0x08 1
      ((∀ k, s.job? j = some k → k.phase ≠ .committed) → Safety.Ends (exec (.feastBind n) s) (s.take n) d 0x11 0x8002) ∧
      (∀ k, s.job? j = some k → k.phase = .committed →
        ((∀ x, s.strand? (descF d 0x0A 2) = some x → x.job ≠ j ∨ s.srcKind x ≠ some .kv) →
          Safety.Ends (exec (.feastBind n) s) (s.take n) d 0x12 0x200A) ∧
        (∀ x, s.strand? (descF d 0x0A 2) = some x → x.job = j → s.srcKind x = some .kv →
          (x.entry.maxKib * 1024 < (16 * descF d 0x0C 2 + 31) / 32 * 32 → Safety.Ends (exec (.feastBind n) s) (s.take n) d 0x12 0x200C) ∧
          ((16 * descF d 0x0C 2 + 31) / 32 * 32 ≤ x.entry.maxKib * 1024 →
            ((tget? s.fst.streams st).isSome = true → Safety.Ends (exec (.feastBind n) s) (s.take n) d 0x11 0x800A) ∧
            (tget? s.fst.streams st = none → ∃ u : State, Safety.Ends (exec (.feastBind n) s) u d 0x00 ∧
              tget? u.fst.streams st = some
                { job := j, ring := d.ring, strand := descF d 0x0A 2, stepMax := descF d 0x0C 2, stepMin := descF d 0x0E 2,
                  stepWait := descF d 0x10 2, budget := descF d 0x12 2, inFlightMax := descF d 0x09 1, lastAsm := s.stamp } ∧
              (∀ i, i ≠ st → tget? u.fst.streams i = tget? s.fst.streams i) ∧
              u = { s.take n with fst.streams := u.fst.streams }))))) ∧
    (Safety.Lands s n 0x31 (fun d => [(0x08, decide (7 < descF d 0x08 1))]) d →
      let st := descF d 0x08 1
      (s.streamLive st = false → Safety.Ends (exec (.feastUnbind n) s) (s.take n) d 0x11 0x800A) ∧
      (s.streamLive st = true → s.inFlight st = 0 →
        ∃ u : State, Safety.Ends (exec (.feastUnbind n) s) u d 0x00 ∧ tget? u.fst.streams st = none ∧
          (∀ i, i ≠ st → tget? u.fst.streams i = tget? s.fst.streams i) ∧ (∀ m, (s.slot m).stream = st → (u.slot m).state = .free) ∧
          u.alm = s.alm ∧ u.jobs = s.jobs) ∧
      (s.streamLive st = true → 0 < s.inFlight st →
        ∃ (u : State) (k : StreamSt), exec (.feastUnbind n) s = .next u.finishHalts ∧ tget? u.fst.streams st = some k ∧
          k.unbinding = some (some (descPend d)) ∧ (∀ i, i ≠ st → tget? u.fst.streams i = tget? s.fst.streams i) ∧ u.alm = s.alm)) ∧
    (Safety.Lands s n 0x32 (fun d => [(0x08, decide (2048 ≤ descF d 0x08 4)), (0x0C, decide (descF d 0x0C 4 = 0) || decide (2048 < descF d 0x08 4 + descF d 0x0C 4)),
        (0x10, !s.hostAddrOk (descF d 0x10 8) 64 (32 * descF d 0x0C 4))]) d →
      Safety.Ends (exec (.feastRead n) s) ((s.take n).hostPut (descF d 0x10 8)
        (((List.range (descF d 0x0C 4)).map (descF d 0x08 4 + ·)).flatMap s.slotBytes)) d 0x00) ∧
    ∀ m, (s.slotBytes m).length = 32 ∧ fld (s.slotBytes m) 2 1 = (s.slot m).state.code

/-- The slot operations by the slot's state: SEQ_PAUSE takes READY to PAUSED and waits on RUNNING; SEQ_RESUME takes PAUSED to READY unless TOKENS = MAX_TOKENS; SEQ_CLOSE frees a READY, PAUSED or FAULTED slot and takes RUNNING to CLOSING; SEQ_RESET takes FAULTED to READY unless its range holds a POISONED entry. Every other operand of these is refused with 0x800A and leaves the slot as it was. Where the spec leaves a choice it takes the one of the model: log 79. -/
def Obligations.SlotOperationsFollowTheSlotTable : Prop :=
  ∀ (s : State) (n : RingId) (d : Desc),
    let m := descF d 0x08 2
    let k := s.slot m
    let refused := fun (o : Result) => Safety.Ends o (s.take n) d 0x11 0x800A
    let dest := fun (o : Result) (x : SlotState) => Safety.Ends o ((s.take n).setSlot m { k with state := x }) d 0x00
    (Safety.Lands s n 0x34 slotFaults d →
      (k.state = .ready → dest (exec (.seqPause n) s) .paused) ∧
      (k.state = .running → k.pauseBy = none →
        exec (.seqPause n) s = .next ((s.take n).setSlot m { k with pauseBy := some (descPend d) }).finishHalts) ∧
      (k.state = .running → k.pauseBy ≠ none → refused (exec (.seqPause n) s)) ∧
      (k.state ≠ .ready → k.state ≠ .running → refused (exec (.seqPause n) s))) ∧
    (Safety.Lands s n 0x35 slotFaults d →
      (k.state = .paused → k.tokens ≠ k.maxTokens → dest (exec (.seqResume n) s) .ready) ∧
      (k.state ≠ .paused ∨ k.tokens = k.maxTokens → refused (exec (.seqResume n) s))) ∧
    (Safety.Lands s n 0x36 slotFaults d →
      (k.state = .running →
        exec (.seqClose n) s = .next ((s.take n).setSlot m { k with state := .closing, closeBy := some (descPend d) }).finishHalts) ∧
      (k.state = .ready ∨ k.state = .paused ∨ k.state = .faulted →
        ∃ u : State, Safety.Ends (exec (.seqClose n) s) u d 0x00 ∧ (u.slot m).state = .free ∧ (∀ i, i ≠ m → u.slot i = s.slot i) ∧
          (∀ e ∈ u.lkt.entries, ¬ (e.2.owned = true ∧ e.2.slot = m)) ∧ u.fst.streams = s.fst.streams ∧ u.alm = s.alm) ∧
      (k.state = .free ∨ k.state = .closing → refused (exec (.seqClose n) s))) ∧
    (Safety.Lands s n 0x37 slotFaults d →
      (k.state = .faulted → s.rangePoisoned k = false → dest (exec (.seqReset n) s) .ready) ∧
      (k.state ≠ .faulted ∨ s.rangePoisoned k = true → refused (exec (.seqReset n) s)))

/-- SEQ_OPEN of a FREE slot on a bound stream, with TOKENS below MAX_TOKENS, every entry of the range mapped, unowned and not POISONED and a reservation that fits, makes the slot READY with DUE, which its completion's VALUE gives, the present time plus TOKEN_PERIOD and every entry of the range OWNED by it; when the reservation does not fit it is refused REJECTED_LATE, and when a check fails with 0x800A. A stream's wait is over once STEP_WAIT µs have passed since its last assembly, and not before. A step is assembled only when the stream has members for it; its members are then RUNNING, and the stream's next step has the next number; a step whose state checks fail, for which there is no room among the 32,768 items and steps, or that does not fit the calendar is refused: its members are RUNNING no more, it is counted, and its completion with its tag, STATUS REJECTED_LATE, KIND 1, the count of its members and its number goes to the next CQ entry of the stream's ring. The oldest step tile of a stream leaves once its strand holds a credit, and stays while it holds none. Where the spec leaves a choice it takes the one of the model: log 41, 79, 101. -/
def Obligations.SequencesOpenAndStepsAreAssembled : Prop :=
  (∀ (s : State) (n : RingId) (d : Desc),
    let f := descF d
    Safety.Lands s n 0x33 (fun d =>
      [(0x08, decide (2047 < descF d 0x08 2)), (0x0A, decide (7 < descF d 0x0A 1)), (0x0C, decide (2097152 ≤ descF d 0x0C 4)),
       (0x10, decide (descF d 0x10 4 = 0) || decide (2097152 < descF d 0x0C 4 + descF d 0x10 4)), (0x1C, decide (descF d 0x1C 4 < 1000))]) d →
    let m := f 0x08 2
    let fine := (s.slot m).state = .free ∧ s.streamLive (f 0x0A 1) = true ∧ f 0x14 4 < f 0x18 4 ∧
      ∀ i < f 0x10 4, (s.entry (f 0x0C 4 + i)).state ≠ .free ∧ (s.entry (f 0x0C 4 + i)).state ≠ .poisoned ∧ (s.entry (f 0x0C 4 + i)).owned = false
    (¬ fine → Safety.Ends (exec (.seqOpen n) s) (s.take n) d 0x11 0x800A) ∧
    ∀ k, tget? s.fst.streams (f 0x0A 1) = some k → fine →
      (s.alm.holdover = true ∨ s.seqFits (f 0x0A 1) k (f 0x1C 4) = false → Safety.Ends (exec (.seqOpen n) s) (s.take n) d 0x10) ∧
      (s.alm.holdover = false → s.seqFits (f 0x0A 1) k (f 0x1C 4) = true →
        let due := s.stamp + BitVec.ofNat 64 (f 0x1C 4)
        ∃ u : State, exec (.seqOpen n) s = .next (u.finish (descPend d) 0x00 0 0 due.toNat (some (m, f 0x1C 4))).finishHalts ∧
          u.slot m =
          { state := .ready, stream := f 0x0A 1, tokens := BitVec.ofNat 32 (f 0x14 4), maxTokens := BitVec.ofNat 32 (f 0x18 4), base := f 0x0C 4,
            pages := f 0x10 4, period := BitVec.ofNat 32 (f 0x1C 4), due := due } ∧
          (∀ i, i ≠ m → u.slot i = s.slot i) ∧
          (∀ i, f 0x0C 4 ≤ i → i < f 0x0C 4 + f 0x10 4 → u.entry i = { s.entry i with owned := true, slot := m }) ∧
          (∀ i, i < f 0x0C 4 ∨ f 0x0C 4 + f 0x10 4 ≤ i → u.entry i = s.entry i) ∧
          u = { s.take n with lkt.entries := u.lkt.entries, fst.slots := u.fst.slots })) ∧
  (∀ (s : State) (st : StreamId) (k : StreamSt), tget? s.fst.streams st = some k →
    (k.lastAsm.toNat + 1000 * k.stepWait ≤ s.now →
      exec (.stepWaitExpiry st) s = .next { s with fst.streams := tput s.fst.streams st { k with waitOver := true } }) ∧
    (s.now < k.lastAsm.toNat + 1000 * k.stepWait → exec (.stepWaitExpiry st) s = .next s) ∧
    (s.stepMembers st k = [] → exec (.stepAssembly st) s = .next s) ∧
    (∀ jb sts sks, s.stepMembers st k ≠ [] → s.job? k.job = some jb → jb.stations = some sts → jb.strands = some sks →
      (∀ m ∈ s.stepMembers st k, ∀ e ∈ s.lkt.entries, e.2.owned = true → e.2.slot = m → e.2.state ≠ .demoting) →
      let ms := ascending (s.stepMembers st k)
      let full := 32768 ≤ s.alm.items.length
      let deadline := Nat.max (ms.foldl (fun x m => Nat.min x (s.slot m).due.toNat) ((s.slot (ms.headD 0)).due.toNat)) (s.now + 1000 * k.budget)
      let verdict := s.verdict deadline 0 (s.windows sts sks 15 ms.length (tget jb.priced 15 {}) (some (s.stepMix ms)))
      ((s.stepState k jb sts sks).isSome = true ∨ full ∨ verdict = .late →
        ∃ u : State, exec (.stepAssembly st) s = .next u.finishHalts ∧ u.alm.items = s.alm.items ∧ u.mem = s.mem ∧ u.jobs = s.jobs ∧
          u.fst.stepRefused = sat s.fst.stepRefused ∧ u.fst.status.getLsbD 2 = true ∧ u.alm.lateCount = sat s.alm.lateCount ∧
          (s.stepState k jb sts sks = none → full → u.alm.status.getLsbD 4 = true) ∧
          (∀ m, m ∉ ms → u.slot m = s.slot m) ∧ (∀ m ∈ ms, (u.slot m).state ≠ .running) ∧
          tget? u.fst.streams st = some { k with lastAsm := s.stamp, waitOver := false, nextStep := k.nextStep + 1 } ∧
          let r := s.ring k.ring
          ((∀ m ∈ ms, (s.slot m).pauseBy = none) → r.state = .on → r.held = [] → 0 < r.cqFree →
            ∃ (os : List Output) (bs : List Byte),
              u.out = os ++ .hostWrite .woWrInv (r.cqBase.toNat + 32 * (r.cqTail.toNat % 2 ^ r.cqLog)) bs :: s.out ∧ bs.length = 32 ∧
              fld bs 0 4 = (stepTag st k.nextStep).toNat ∧ fld bs 6 1 = 0x10 ∧ fld bs 7 1 / 2 = 1 ∧
              fld bs 0x12 2 = ms.length % 65536 ∧ fld bs 0x18 8 = k.nextStep % 2 ^ 64)) ∧
      ∀ t0 c wins, s.stepState k jb sts sks = none → ¬ full → verdict = .place t0 c wins →
      ∃ (u : State) (x : Item), exec (.stepAssembly st) s = .next u.finishHalts ∧ (∀ m ∈ ms, (u.slot m).state = .running) ∧
        (∀ m, m ∉ ms → u.slot m = s.slot m) ∧
        tget? u.fst.streams st = some { k with lastAsm := s.stamp, waitOver := false, nextStep := k.nextStep + 1 } ∧
        u.alm.items = s.alm.items ++ [x] ∧ x.step = some st.val ∧ x.stepNo = k.nextStep ∧ x.plan = 15 ∧ x.batch = ms.length ∧ x.slotsIn = ms ∧
        x.wins = wins ∧ x.t0 = t0 ∧ u.fst.stepTiles.length = s.fst.stepTiles.length + 1 ∧ u.mem = s.mem ∧ u.jobs = s.jobs) ∧
    (∀ x t0, s.fst.stepTiles.find? (fun y => y.1 == k.strand) = some (k.strand, t0) → s.strand? k.strand = some x →
      (s.hasCredit x 0 = false → exec (.stepTile st) s = .next s) ∧
      (s.hasCredit x 0 = true → ∃ t, exec (.stepTile st) s = .next t ∧ t.fst.stepTiles = s.fst.stepTiles.erase (k.strand, t0) ∧ t.fst.streams = s.fst.streams ∧
        t.cores = s.cores ∧ t.mem = s.mem ∧ (∀ i, t.item? t0.work = some i → i.stepTileOut = true))))

/-- A request for D3hot is carried out only while every ring is OFF, and else leaves the power state as it is; one for D0 is carried out at once (DEDUCED, log 58). In D3hot no write or read of BAR0 or BAR2 has an effect, no descriptor is fetched, and each CXL.mem request to the window completes with a completer abort; the device keeps all its state. -/
def Obligations.D3hotOnlyWithRingsOff : Prop :=
  (∀ s : State, s.linkDown = false →
    ((∀ e ∈ s.rng.rings, e.2.state = .off) → exec (.d3hotRequest true) s = .next { s with cxl.d3 := true }) ∧
    ((∃ e ∈ s.rng.rings, e.2.state ≠ .off) → exec (.d3hotRequest true) s = .next s) ∧
    exec (.d3hotRequest false) s = .next { s with cxl.d3 := false }) ∧
  ∀ s : State, s.cxl.d3 = true →
    (∀ p sp o n v, sp = .bar0 ∨ sp = .bar2 → exec (.registerWrite p sp o n v) s = .next s) ∧
    (∀ p sp o n, sp = .bar0 ∨ sp = .bar2 → exec (.rllRead p sp o n) s = .next s) ∧
    (∀ n w o v, exec (.doorbell n w o v) s = .next s) ∧
    (∀ mem bad, exec (.descriptorFetch mem bad) s = .next s) ∧
    (∀ a x w l, s.linkDown = false → exec (.cxlMemRequest a x w l [] false) s = .next (s.put (.memAbort a)))

/-- A commit of the HDM decoder takes effect exactly when the interleave is one way, the size is a multiple of 256 MiB from 256 MiB to 256 GiB, the backed range lies in the LPDDR5X tier and the device is READY; otherwise it fails, with Error Not Committed set. With the memories awake and no device of theirs tripped, a window read answers the 64 bytes of module memory that back the line, poisoned when one of its words is, when the link's check fails or when a word crosses Filigree with an error, and a store writes each byte it enables and no other; both are counted. An offset outside the window, or a window that is not committed, names no memory: the request completes with a completer abort and nothing is stored (DEDUCED, log 91). A request that breaks the protocol is an error that AER and the RAS capability show, and does nothing else. Where the spec leaves a choice it takes the one of the model: log 3, 11, 58, 91, 124, 128. -/
def Obligations.WindowsAreCommittedAndRequestsReachTheBackedLine : Prop :=
  (∀ (s : State) (base size ways : Nat), s.reachable = true →
    let b := (s.cxl.hdmTarget.toNat % 32768) * 0x10000000
    let fine := ways = 1 ∧ size % 0x10000000 = 0 ∧ 0x10000000 ≤ size ∧ size ≤ 0x4000000000 ∧ 0x20000000000 ≤ b ∧ b + size ≤ 0x50000000000 ∧ s.gen.state = .ready
    (fine → exec (.hdmCommit base size ways) s =
      .next { s with cxl.compRev := s.cxl.compRev + 1, cxl.hdm := some (base, size), cxl.hdmErr := false }) ∧
    (¬ fine → exec (.hdmCommit base size ways) s =
      .next { s with cxl.compRev := s.cxl.compRev + 1, cxl.hdm := none, cxl.hdmErr := true })) ∧
  (∀ (s : State) (a : Nat), s.linkDown = false → s.cxl.d3 = false →
    (∀ b size, s.cxl.hdm = some (b, size) → a / 64 * 64 + 64 ≤ size → s.cxl.selfRefresh = false →
      let x := (s.cxl.hdmTarget.toNat % 32768) * 0x10000000 + a / 64 * 64
      s.devTripped x = false →
      (∀ p wire, (∀ i < 8, s.wordPoison (x / 8 + i) = false) → (∀ i ∈ wireBad (memField x) 0 wire, 8 ≤ i) →
        exec (.cxlMemRequest a none p false wire false) s =
          .next ((({ s with cxl.winRd := s.cxl.winRd + 1 } : State).countAccess (memField x) 0 64).put (.memRead a (s.memRead x 64) false))) ∧
      (∀ p lf wire, lf = true ∨ (∃ i < 8, s.wordPoison (x / 8 + i) = true ∨ i ∈ wireBad (memField x) 0 wire) →
        ∃ t, exec (.cxlMemRequest a none p lf wire false) s = .next t ∧ t.out.head? = some (.memRead a (s.memRead x 64) true) ∧
          t.cxl.winRd = s.cxl.winRd + 1 ∧ t.cxl.winPoison = sat s.cxl.winPoison ∧ t.mem.bytes = s.mem.bytes) ∧
      (∀ (bs : List (Option Byte)) (p lf : Bool) (wire : List Nat), bs.length = 64 → ∃ t, exec (.cxlMemRequest a (some bs) p lf wire false) s = .next t ∧
        (∀ i v, bs[i]? = some (some v) → Memory.get? t.mem.bytes (x + i) = some v) ∧
        (∀ i, bs[i]? = some none → Memory.get? t.mem.bytes (x + i) = Memory.get? s.mem.bytes (x + i)) ∧
        (∀ y, y < x ∨ x + 64 ≤ y → Memory.get? t.mem.bytes y = Memory.get? s.mem.bytes y) ∧
        t.cxl = { s.cxl with winWr := s.cxl.winWr + 1 } ∧ t.lkt = s.lkt ∧ (p = false → wire = [] → t.out = s.out))) ∧
    (∀ w p l, (s.cxl.hdm = none ∨ ∃ b size, s.cxl.hdm = some (b, size) ∧ size < a / 64 * 64 + 64) →
      exec (.cxlMemRequest a w p l [] false) s = .next (s.put (.memAbort a)))) ∧
  (∀ (s : State) a w p l wire, s.linkDown = false → exec (.cxlMemRequest a w p l wire true) s = .next s.cxlError)

/-- While the memories are in self-refresh after a COOLANT_OK stop, a window read returns poisoned data, a window write is discarded, and WINDOW_OFF is set. -/
def Obligations.WindowIsOffInSelfRefresh : Prop :=
  ∀ (s : State) (a b size : Nat) (poison fail : Bool) (wire : List Nat), s.cxl.hdm = some (b, size) → a / 64 * 64 + 64 ≤ size → s.linkDown = false → s.cxl.d3 = false → s.cxl.selfRefresh = true →
    (∃ t bs, exec (.cxlMemRequest a none poison fail wire false) s = .next t ∧ t.out = .memRead a bs true :: s.out ∧ t.cxl.status.getLsbD 2 = true ∧ t.mem = s.mem) ∧
    (∀ bs, ∃ t, exec (.cxlMemRequest a (some bs) poison fail wire false) s = .next t ∧ t.cxl.status.getLsbD 2 = true ∧
      t = { s with cxl.winWr := s.cxl.winWr + 1, cxl.status := t.cxl.status })

/-! ## Cores: the sequencer, the array and the vector unit -/

/-- No instruction issues on a core without a run in progress, after the run's END, past the end of its program, while the core's region is not ON, or in a bubble: the command changes nothing. Where the spec leaves a choice it takes the one of the model: log 24. -/
def Obligations.InstructionsIssueOnlyInARun : Prop :=
  ∀ (s : State) (c : CoreId) (ecc : List (Nat × EccFind)),
    (s.core c).run = none ∨ (s.core c).word = none ∨ (s.region c).state ≠ .on ∨ s.bubbled c = true ∨ (∃ r, (s.core c).run = some r ∧ r.ending = true) →
    ∀ i ∈ [Instr.nopInstruction c, .endInstruction c, .movi c, .addi c, .add c, .mul c, .sys c, .loop c, .skipz c, .lds c ecc, .recv c, .free c, .emit c,
        .fetch c, .store c, .swait c, .wait c, .wload c ecc, .swap c, .mmw c ecc, .mmo c ecc, .anch c, .adrain c, .vopAdd c, .vopSub c, .vopMul c, .vopFma c,
        .vopMax c, .vopMin c, .vopExp2 c, .vopRcp c, .vopRsqrt c, .vopMuls c, .vopAdds c, .vld c ecc, .vst c, .vlda c, .vredTree c, .vredMax c, .vredAnchored c],
      exec i s = .next s

/-- MOVI, ADDI, ADD, MUL and SYS write one scalar register and go on; a write to g0 is ignored and g0 reads 0; nothing outside the core changes, and of the core only that register, the control state and, for SYS 5, which reads the Calendar counter of the core's field, the latch of its high word. Where the spec leaves a choice it takes the one of the model: log 24. -/
def Obligations.ScalarInstructionsWriteOneRegister : Prop :=
  (∀ (s : State) (c : CoreId) (r : Run) (w : W64),
    let k := s.core c
    let go := fun (v : W32) => (.next (s.setCore c (k.setG (fD w) v).next) : Result)
    (Safety.Issues s c r w 0x02 → exec (.movi c) s = go (w.setWidth 32)) ∧
    (Safety.Issues s c r w 0x03 → exec (.addi c) s = go (k.gr (fA w) + (w.setWidth 24).signExtend 32)) ∧
    (Safety.Issues s c r w 0x04 → exec (.add c) s = go (k.gr (fA w) + k.gr (fB w))) ∧
    (Safety.Issues s c r w 0x05 → exec (.mul c) s = go (k.gr (fA w) * k.gr (fB w))) ∧
    (Safety.Issues s c r w 0x06 →
      (bits w.toNat 7 0 = 0 → exec (.sys c) s = go (BitVec.ofNat 32 k.member)) ∧
      (bits w.toNat 7 0 = 1 → exec (.sys c) s = go (BitVec.ofNat 32 k.members)) ∧
      (bits w.toNat 7 0 = 2 → ∀ l, s.logicalOf c = some l → exec (.sys c) s = go (BitVec.ofNat 32 l)) ∧
      (bits w.toNat 7 0 = 3 → exec (.sys c) s = go (BitVec.ofNat 32 k.cwidth)) ∧
      (bits w.toNat 7 0 = 4 → exec (.sys c) s = go r.work) ∧
      (bits w.toNat 7 0 = 5 → let time := BitVec.ofInt 64 ((s.now : Int) + (s.field (coreField c)).calDiff)
        exec (.sys c) s = .next (s.setCore c ({ k.setG (fD w) (time.setWidth 32) with sysLatch := (time >>> 32).setWidth 32 } : CoreSt).next)) ∧
      (bits w.toNat 7 0 = 6 → exec (.sys c) s = go k.sysLatch) ∧
      (bits w.toNat 7 0 = 7 → ∀ st, k.station = some st → exec (.sys c) s = go (BitVec.ofNat 32 st)))) ∧
  ∀ (k : CoreSt) (d : Nat) (v : W32), (k.setG d v).gr 0 = 0 ∧ (d ≠ 0 → (k.setG d v).gr d = v) ∧ ∀ x, x ≠ d → (k.setG d v).gr x = k.gr x

/-- Control goes to the next instruction; at the end of the innermost loop's body it goes back to the first one while iterations are left, and else out of the loop. SKIPZ skips its count when gA is 0; LOOP runs min(gA, MAX) iterations, MAX with A = g0, and skips the body when that is 0; NOP only goes on; END ends issue and moves nothing. Where the spec leaves a choice it takes the one of the model: log 24. -/
def Obligations.ControlFollowsLoopsAndSkips : Prop :=
  (∀ k : CoreSt, k.next = { k with loops := k.next.loops, pc := k.next.pc, run := k.next.run } ∧
    (k.loops = [] → k.next.pc = k.pc + 1 ∧ k.next.loops = []) ∧
    ∀ f fs, k.loops = f :: fs →
      (k.pc + 1 ≠ f.past → k.next.pc = k.pc + 1 ∧ k.next.loops = f :: fs) ∧
      (k.pc + 1 = f.past → 1 < f.left → k.next.pc = f.first ∧ k.next.loops = { f with left := f.left - 1 } :: fs) ∧
      (k.pc + 1 = f.past → f.left ≤ 1 → k.next = ({ k with loops := fs } : CoreSt).next)) ∧
  ∀ (s : State) (c : CoreId) (r : Run) (w : W64),
    let k := s.core c
    (Safety.Issues s c r w 0x00 → exec (.nopInstruction c) s = .next (s.setCore c k.next)) ∧
    (Safety.Issues s c r w 0x01 → exec (.endInstruction c) s = .next (s.setCore c { k with run := some { r with ending := true } })) ∧
    (Safety.Issues s c r w 0x08 →
      (k.gr (fA w) = 0 → exec (.skipz c) s = .next (s.setCore c (k.goto (k.pc + 1 + bits w.toNat 13 0)))) ∧
      (k.gr (fA w) ≠ 0 → exec (.skipz c) s = .next (s.setCore c k.next))) ∧
    (Safety.Issues s c r w 0x07 →
      let most := bits w.toNat 35 20
      let len := bits w.toNat 13 0
      let times := if fA w = 0 then most else min (k.gr (fA w)).toNat most
      (times = 0 → exec (.loop c) s = .next (s.setCore c (k.goto (k.pc + 1 + len)))) ∧
      (times ≠ 0 → exec (.loop c) s =
        .next (s.setCore c ({ k with loops := { first := k.pc + 1, past := k.pc + 1 + len, left := times } :: k.loops } : CoreSt).next)))

/-- LDS consumes the word at gA + IMM and gives its register the low or high half, or ends the run's item where the word is or becomes poisoned, with FAULT_THERMAL when a tripped memory device gave the poison and else with FAULT_MEMORY. RECV hands a core the next landed tile of its member, which the run then holds, freeing the oldest slot held first when the member holds DEPTH, or waits; a SUSPECT tile of the run's own work item marks the run; FREE frees the oldest slot that the member holds; SWAIT waits while a store of the core on the strand is to be performed; WAIT waits for the array, its queue, drains and loads, and the DMA queue, as its mask says (the mask's bit order is the model's choice, log 107). Where the spec leaves a choice it takes the one of the model: log 27, 34, 107, 117, 127. -/
def Obligations.CoresReceiveFreeAndWait : Prop :=
  ∀ (s : State) (c : CoreId) (r : Run) (w : W64) (ecc : List (Nat × EccFind)),
    let k := s.core c
    let n := fStrand w
    (Safety.Issues s c r w 0x09 →
      let a := areaOf (k.gr (fA w) + BitVec.ofNat 32 (bits w.toNat 19 0)).toNat
      let u := (s.areaTouch c a 8).areaFinds c a 8 ecc
      (u.areaPoisoned c a 8 = false → exec (.lds c ecc) s = .next (u.modCore c (fun k =>
        (k.setG (fD w) (BitVec.ofNat 32 (fld (u.areaRead c a 8) (if w.toNat.testBit 20 then 4 else 0) 4))).next))) ∧
      (u.areaPoisoned c a 8 = true → exec (.lds c ecc) s = .next (u.endItem r.work (if u.areaHot c a 8 then 0x34 else 0x32) (u.areaLocus c a)))) ∧
    (Safety.Issues s c r w 0x10 → s.strand? n = none → exec (.recv c) s = .next (s.setCore c { k with run := some { r with recvWait := some n } })) ∧
    (Safety.Issues s c r w 0x10 → ∀ x, s.strand? n = some x →
      let y := (if x.entry.depth ≤ x.heldBy k.member then x.freeOldest k.member else x).rotated k.member (s.srcCount x)
      (x.entry.srcMode ≠ .gather → y = if x.entry.depth ≤ x.heldBy k.member then x.freeOldest k.member else x) ∧
      (y.nextTile k.member = none → exec (.recv c) s = .next ((s.setStrand n y).setCore c { k with run := some { r with recvWait := some n } })) ∧
      (∀ z, y.nextTile k.member = some z → ∃ (q : StrandSt) (k' : CoreSt), exec (.recv c) s = .next ((s.setStrand n q).setCore c k') ∧
        q = { y with slots := y.slots.erase z ++ [{ z with phase := 1, holder := some r.work }], turn := q.turn, due := q.due } ∧
        (x.entry.srcMode ≠ .gather → q.turn = y.turn ∧ q.due = y.due) ∧
        (fD w ≠ 0 → k'.gr (fD w) = BitVec.ofNat 32 ((if (slotArea y.entry z.group z.idx).slices then 2 ^ 31 else 0) + (slotArea y.entry z.group z.idx).base / 8)) ∧
        (∀ g, g ≠ fD w → k'.gr g = k.gr g) ∧ k'.pc = k.next.pc ∧ k'.runFlag = (k.runFlag || z.tile.anchorSat) ∧
        (∃ r', k'.run = some r' ∧ r'.suspect = (r.suspect || (z.tile.suspect && z.tile.work == r.work)) ∧ r'.tail = 0 ∧ r'.busy = r.busy ∧ r'.wait = r.wait) ∧
        k'.spad = k.spad ∧ k'.vregs = k.vregs ∧ k'.bank = k.bank)) ∧
    (Safety.Issues s c r w 0x11 → ∀ x, s.strand? n = some x →
      exec (.free c) s = .next ((s.setStrand n (x.freeOldest k.member)).setCore c k.next)) ∧
    (Safety.Issues s c r w 0x15 →
      (s.storing k n = true → exec (.swait c) s = .next (s.setCore c { k with run := some { r with swaitOn := some n } })) ∧
      (s.storing k n = false → exec (.swait c) s = .next (s.setCore c k.next))) ∧
    (Safety.Issues s c r w 0x18 →
      let busy := (w.toNat.testBit 0 = true ∧ (k.arrQ ≠ [] ∨ k.drain ≠ none ∨ k.passes ≠ [] ∨ k.loading = true)) ∨ (w.toNat.testBit 1 = true ∧ k.dmaQ ≠ [])
      (busy → exec (.wait c) s = .next s) ∧ (¬ busy → exec (.wait c) s = .next (s.setCore c k.next)))

/-- EMIT, FETCH and STORE enter the core's DMA queue with their strand, areas and shape and the core goes on; while the queue holds 16 they stall it. A FETCH that enters an empty queue leaves at once as a request to its strand. Where the spec leaves a choice it takes the one of the model: log 24, 85. -/
def Obligations.TransfersEnterTheDmaQueue : Prop :=
  ∀ (s : State) (c : CoreId) (r : Run) (w : W64),
    let k := s.core c
    let emit : DmaOp := { kind := 0, strand := fStrand w, area := (k.gr (fA w)).toNat, shape := fShape w, last := w.toNat.testBit 20, empty := w.toNat.testBit 21, work := r.work }
    let fetch : DmaOp := { kind := 2, strand := fStrand w, area := (k.gr (fA w)).toNat, shape := fShape w, work := r.work }
    let store : DmaOp := { kind := 1, strand := fStrand w, area := (k.gr (fA w)).toNat, offset := (k.gr (fB w)).toNat, shape := fShape w, work := r.work }
    ∀ p ∈ [(0x12, Instr.emit c, emit), (0x13, .fetch c, fetch), (0x14, .store c, store)], Safety.Issues s c r w p.1 →
      (16 ≤ k.dmaQ.length → exec p.2.1 s = .next (s.setCore c { k with run := some { r with stallDma := true } })) ∧
      (k.dmaQ.length < 16 → ∀ o os, k.dmaQ = o :: os → o.kind ≠ 2 →
        exec p.2.1 s = .next (s.setCore c ({ k with dmaQ := k.dmaQ ++ [p.2.2] } : CoreSt).next)) ∧
      (k.dmaQ = [] → p.1 ≠ 0x13 → exec p.2.1 s = .next (s.setCore c ({ k with dmaQ := [p.2.2] } : CoreSt).next)) ∧
      (k.dmaQ = [] → p.1 = 0x13 → ∃ t, exec p.2.1 s = .next t ∧ t.core c = k.next ∧ (∀ d, d ≠ c.val → t.core d = s.core d) ∧
          t.strand? (fStrand w) = (s.strand? (fStrand w)).map (fun x => { x with fetchQ := x.fetchQ ++
            [{ member := k.member, offset := BitVec.ofNat 32 (k.gr (fA w)).toNat, shape := k.shape (fShape w), work := r.work }] }) ∧
          t = { s with cores := t.cores, strands := t.strands })

/-- A core starts the run of its next admitted item only when that is released, no run is in progress, the array and its queue are empty and no ADRAIN is under way, and its region is ON; the run starts at instruction 0 with cleared scalar registers and flag. On a tripped region the item ends instead. The run ends once END was issued and the array, its queue, drains, loads and transfers are done, frees the slots it still held of ended items, and then counts for the core's member; a run that exceeds its cost card ends its item ABORTED with DETAIL 0x1003, and one within it goes on. Where the spec leaves a choice it takes the one of the model: log 28. -/
def Obligations.RunsStartEndAndOverrun : Prop :=
  ∀ (s : State) (c : CoreId),
    let k := s.core c
    (s.nextItem k = none → exec (.runStart c) s = .next s) ∧
    (∀ i, s.nextItem k = some i →
      let free := k.run = none ∧ k.passes = [] ∧ k.arrQ = [] ∧ k.drain = none ∧ i.released = true ∧ k.prog ≠ none ∧ (s.region c).subst = none ∧ (s.region c).state = .on
      (¬ free → exec (.runStart c) s = .next s) ∧
      (free → s.trippedAt c = none → exec (.runStart c) s =
        .next (s.setCore c { k with run := some { work := i.tag }, pc := 0, g := [], loops := [], runFlag := false, accFresh := true })) ∧
      (free → ∀ x, s.trippedAt c = some x → exec (.runStart c) s = .next (s.endItem i.tag 0x34 (0x7200 + x)))) ∧
    (∀ r st, k.run = some r → k.station = some st →
      let done := r.ending = true ∧ k.arrQ = [] ∧ k.drain = none ∧ k.passes = [] ∧ k.loading = false ∧ k.dmaQ = []
      (¬ done → exec (.runEnd c) s = .next s) ∧
      (done → ∃ t, exec (.runEnd c) s = .next t ∧ t.core c = { k with run := none, loops := [] } ∧ (∀ d, d ≠ c.val → t.core d = s.core d) ∧
        (∀ i, s.item? r.work = some i → t.item? r.work = some { i with runsDone := i.runsDone ++ [(st, k.member)], suspect := i.suspect || r.suspect }) ∧
        (∀ x, x ≠ r.work → t.item? x = s.item? x) ∧ t.mem = s.mem ∧ t.out = s.out ∧
        ∀ n, t.strand? n = (s.strand? n).map (fun x => { x with slots := x.slots.map (fun q =>
          if q.gone = true ∧ q.phase = 1 ∧ q.holder = some r.work ∧ s.destCore x q.member = c then { q with phase := 2 } else q) })) ∧
      (∀ i e card, s.item? r.work = some i → s.stn k.job st = some e → cardPlan? e.card i.plan = some card →
        let beyond := card.busyBase + card.busyPer * i.batch + e.card.rerun < r.busy ∨ card.tail + e.card.rerun < r.tail ∨ card.wait < r.wait
        (¬ beyond → exec (.cardOverrun c) s = .next s) ∧
        (beyond → i.status = none → ∃ t j, exec (.cardOverrun c) s = .next t ∧ t.item? r.work = some j ∧ j.status = some (0x20, 0x1003) ∧
          t.alm.overrunCount = sat s.alm.overrunCount ∧ t.alm.status = setFlag s.alm.status 2)))

/-- WLOAD, SWAP, MMW, MMO and ADRAIN enter the array queue, which holds 8, with the scalar values of their issue, and the core goes on; while it holds 8 the core stalls. Outside bubbles, with the core's region ON, an ADRAIN under way reads its rows until one has to wait, and then the queued instructions start in order: nothing starts while what holds the oldest one back lasts, and with nothing to hold it back an instruction that enters an empty queue starts at once. ANCH sets the anchor once every pass has retired, every ADRAIN is over and no MMW, MMO or ADRAIN is queued. WLOAD consumes its area into the shadow plane, which holds the weights when the load completes, not before; a word that is or becomes poisoned ends the item. SWAP makes the other plane active. WLOAD_COMPLETE fills the planes of the loads under way, changes nothing else of the core, and then lets the array go on. Where the spec leaves a choice it takes the one of the model: log 25, 26, 105, 108, 117, 127. -/
def Obligations.WeightsLoadSwapAndAnchor : Prop :=
  ((∀ (s : State) (c : CoreId) (r : Run) (w : W64) (ecc : List (Nat × EccFind)),
    let k := s.core c
    (∀ p ∈ [(0x20, Instr.wload c ecc, ecc), (0x21, .swap c, []), (0x22, .mmw c ecc, ecc), (0x23, .mmo c ecc, ecc), (0x25, .adrain c, [])],
      Safety.Issues s c r w p.1 →
      let op := Safety.queued w r k p.2.2
      let q : CoreSt := { k with arrQ := k.arrQ ++ [op] }
      let still := ∀ d, k.drain = some d → q.drainStalls d (k.shape (fShape d.op.word)) = true
      (8 ≤ k.arrQ.length → exec p.2.1 s = .next s) ∧
      (k.arrQ.length < 8 → exec p.2.1 s = .next (State.pumpArray 9 c (s.setCore c q.next))) ∧
      (k.arrQ.length < 8 → still → ∀ x xs, k.arrQ = x :: xs → Safety.ArrayWaits k x → exec p.2.1 s = .next (s.setCore c q.next)) ∧
      (k.arrQ = [] → still → Safety.ArrayWaits k op → exec p.2.1 s = .next (s.setCore c q.next)) ∧
      (k.arrQ = [] → still → ¬ Safety.ArrayWaits k op →
        ∃ t, (s.setCore c k.next).startArray c op = some t ∧ exec p.2.1 s = .next (State.goOn 8 c t))) ∧
    (Safety.Issues s c r w 0x24 →
      let busy := k.passes ≠ [] ∨ k.drain ≠ none ∨ ∃ op ∈ k.arrQ, 0x22 ≤ fOp op.word
      (busy → exec (.anch c) s = .next s) ∧
      (¬ busy → exec (.anch c) s = .next (s.setCore c ({ k with anchor := signed 16 w.toNat } : CoreSt).next)))) ∧
  ∀ (s : State) (c n : Nat),
    (s.bubbled c = true ∨ (s.region c).state ≠ .on → State.pumpArray n c s = s) ∧
    (s.bubbled c = false → (s.region c).state = .on → State.pumpArray n c s = State.goOn n c s) ∧
    ((s.core c).drain = none → State.runDrain n c s = s) ∧
    (∀ d, (s.core c).drain = some d →
      let sh := (s.core c).shape (fShape d.op.word)
      ((s.core c).drainStalls d sh = true → State.runDrain n c s = s) ∧
      ((s.core c).drainStalls d sh = false → State.runDrain (n + 1) c s = State.runDrain n c (s.drainRow c d sh))) ∧
    let u := State.runDrain 512 c s
    ((u.core c).arrQ = [] → State.goOn (n + 1) c s = u) ∧
    ∀ op rest, (u.core c).arrQ = op :: rest →
      (Safety.ArrayWaits (u.core c) op → State.goOn (n + 1) c s = u) ∧
      (¬ Safety.ArrayWaits (u.core c) op →
        ∃ t, (u.modCore c (fun k => { k with arrQ := rest })).startArray c op = some t ∧ State.goOn (n + 1) c s = State.goOn n c t)) ∧
  (∀ (s : State) (c : CoreId) (op : ArrOp),
    let k := s.core c
    k.loading = false →
    (fOp op.word = 0x20 →
      let sh := k.shape (fShape op.word)
      let u := (s.areaTouch c (areaOf op.a) sh.payload).areaFinds c (areaOf op.a) sh.payload op.ecc
      let two := decide (sh.fmt.toNat % 128 = 1) && (k.prog.map (fun p => pairsNext p (op.instr + 1) (fShape op.word))).getD true
      (u.areaPoisoned c (areaOf op.a) sh.payload = true → s.startArray c op = some (u.poisonStop c (areaOf op.a) sh.payload op.work)) ∧
      (u.areaPoisoned c (areaOf op.a) sh.payload = false →
        ∃ n, s.startArray c op = some (({ u with free := n } : State).modCore c (fun k' => k'.setLoad (!k.active)
          (some { plane := !k.active, src := op.a, words := sh.payload / 8, fill := planeOf sh two (u.areaRead c (areaOf op.a) sh.payload) u.free }))) ∧
          (elemBits sh.fmt.toNat ≤ 16 → n = u.free))) ∧
    (fOp op.word = 0x21 → s.startArray c op = some (s.setCore c { k with active := !k.active }))) ∧
  ∀ (s : State) (c : CoreId),
    let k := s.core c
    (s.bubbled c = true → exec (.wloadComplete c) s = .next s) ∧
    (s.bubbled c = false → ∃ u : State, exec (.wloadComplete c) s = .next (State.pumpArray 9 c u) ∧ u = s.setCore c (u.core c) ∧
      (∀ l, k.load0 = some l → l.done = false → (u.core c).plane0 = l.fill ∧ (u.core c).load0 = some { l with done := true, fill := {} }) ∧
      (∀ l, k.load1 = some l → l.done = false → (u.core c).plane1 = l.fill ∧ (u.core c).load1 = some { l with done := true, fill := {} }) ∧
      ((k.load0 = none ∨ ∃ l, k.load0 = some l ∧ l.done = true) → (u.core c).plane0 = k.plane0 ∧ (u.core c).load0 = k.load0) ∧
      ((k.load1 = none ∨ ∃ l, k.load1 = some l ∧ l.done = true) → (u.core c).plane1 = k.plane1 ∧ (u.core c).load1 = k.load1) ∧
      u.core c = { k with plane0 := (u.core c).plane0, plane1 := (u.core c).plane1, load0 := (u.core c).load0, load1 := (u.core c).load1 })

/-- MMW starts a pass whose result for activation row i and weight row n goes to bank row (gB + i) mod 512, column n, as the sum of products of activations and active-plane weights in ascending k; MMO starts a pass that adds to the cell accumulators and, with DRAIN, writes them out last row first. Both lock their operands, end the item on a poisoned word, and leave the bank to the retirement: when the oldest pass, one without events, retires outside bubbles, each entry it writes is replaced under ACC = 0 and added to under ACC = 1, and every other entry stays. Where the spec leaves a choice it takes the one of the model: log 25, 105, 117. -/
def Obligations.PassesIssueAndRetire : Prop :=
  (∀ (s : State) (c : CoreId) (op : ArrOp),
    let k := s.core c
    let a := k.shape (fShape op.word)
    let b := k.shape (fShape2 op.word)
    let fa := a.fmt.toNat
    let fb := b.fmt.toNat
    let fp := (pairKind fa fb).getD false
    let two := isFp4Pair fa fb
    (fOp op.word = 0x22 → k.mayIssue op.b a.rows = true →
      let u := (s.areaTouch c (areaOf op.a) a.payload).areaFinds c (areaOf op.a) a.payload op.ecc
      (u.areaPoisoned c (areaOf op.a) a.payload = true → s.startArray c op = some (u.poisonStop c (areaOf op.a) a.payload op.work)) ∧
      (u.areaPoisoned c (areaOf op.a) a.payload = false →
        let acts := u.areaRead c (areaOf op.a) a.payload
        ∃ t p, s.startArray c op = some t ∧ t = u.setCore c (t.core c) ∧
          (t.core c).passes = (u.core c).passes ++ [p] ∧ (t.core c).bank = (u.core c).bank ∧ (t.core c).pc = (u.core c).pc ∧
          p.work = op.work ∧ p.acc = op.word.toNat.testBit 28 ∧ p.mmo = false ∧ p.events = [] ∧ (op.a, a.payload / 8) ∈ p.locks ∧
          p.writes = (List.range a.rows).flatMap (fun i => (List.range b.rows).map (fun n =>
            { row := (op.b + i) % 512, col := n
              entry := sumUp fp two k.anchor { fp := fp } ((List.range a.cols).map (fun j =>
                ((fa, operand fa a.rows a.cols acts i j), (fb, (k.plane k.active).weight two fb j n)))) })))) ∧
    (fOp op.word = 0x23 → k.mayIssue op.c (if op.word.toNat.testBit 29 then a.rows else 0) = true →
      let ea := op.ecc.filter (fun x => decide (x.1 < a.payload / 8))
      let eb := (op.ecc.filter (fun x => decide (a.payload / 8 ≤ x.1))).map (fun x => (x.1 - a.payload / 8, x.2))
      let u := (s.areaTouch c (areaOf op.a) a.payload).areaFinds c (areaOf op.a) a.payload ea
      let v := (u.areaTouch c (areaOf op.b) b.payload).areaFinds c (areaOf op.b) b.payload eb
      (u.areaPoisoned c (areaOf op.a) a.payload = true → s.startArray c op = some (u.poisonStop c (areaOf op.a) a.payload op.work)) ∧
      (u.areaPoisoned c (areaOf op.a) a.payload = false → v.areaPoisoned c (areaOf op.b) b.payload = true →
        s.startArray c op = some (v.poisonStop c (areaOf op.b) b.payload op.work)) ∧
      (u.areaPoisoned c (areaOf op.a) a.payload = false → v.areaPoisoned c (areaOf op.b) b.payload = false →
        let start := if k.accFresh || k.cellAcc.any (fun e => e.2.fp != fp) then [] else k.cellAcc
        let cell := fun (i j : Nat) => sumUp fp two k.anchor (tget start (256 * i + j) { fp := fp }) ((List.range a.cols).map (fun m =>
          ((fa, operand fa a.rows a.cols (u.areaRead c (areaOf op.a) a.payload) i m),
           (fb, operand fb b.rows b.cols (v.areaRead c (areaOf op.b) b.payload) j m))))
        ∃ t p, s.startArray c op = some t ∧ t = v.setCore c (t.core c) ∧ (t.core c).passes = (v.core c).passes ++ [p] ∧ (t.core c).bank = (v.core c).bank ∧
          p.work = op.work ∧ p.mmo = true ∧ p.acc = op.word.toNat.testBit 28 ∧ p.events = [] ∧ (op.a, a.payload / 8) ∈ p.locks ∧ (op.b, b.payload / 8) ∈ p.locks ∧
          (op.word.toNat.testBit 29 = false → p.writes = [] ∧ (t.core c).accFresh = false ∧
            (b.rows ≤ 256 → ∀ i < a.rows, ∀ j < b.rows, tget (t.core c).cellAcc (256 * i + j) { fp := fp } = cell i j)) ∧
          (op.word.toNat.testBit 29 = true → (t.core c).cellAcc = [] ∧ (t.core c).accFresh = true ∧
            (b.rows ≤ 256 → p.writes = (List.range a.rows).reverse.flatMap (fun i => (List.range b.rows).map (fun j =>
              { row := (op.c + i) % 512, col := j, entry := cell i j }))))))) ∧
  (∀ (s : State) (c : CoreId) (p : Pass) (ps : List Pass),
    let k := s.core c
    s.bubbled c = false → k.passes = p :: ps → p.events = [] → (∀ x ∈ p.writes, x.held = false ∧ x.col < 256) →
      p.writes.Pairwise (fun x y => ¬ (x.row = y.row ∧ x.col = y.col)) →
      ∃ u : State, exec (.passRetire c) s = .next (State.pumpArray 9 c u) ∧ u = s.setCore c (u.core c) ∧ (u.core c).passes = ps ∧
        (∀ x ∈ p.writes, (u.core c).bankAt x.row x.col = bankAdd p.acc (k.bankAt x.row x.col) x.entry) ∧
        (∀ row col, col < 256 → (∀ x ∈ p.writes, ¬ (x.row = row ∧ x.col = col)) → (u.core c).bankAt row col = k.bankAt row col) ∧
        (u.core c).spad = k.spad ∧ (u.core c).g = k.g ∧ (u.core c).vregs = k.vregs) ∧
  ∀ (old new : AccEntry), bankAdd false old new = new ∧
    (new.fp = false → old.fp = false → -accS ≤ old.val + new.val → old.val + new.val ≤ accS →
      (bankAdd true old new).val = old.val + new.val ∧ (bankAdd true old new).flag = (old.flag || new.flag))

/-- The eleven VOP forms write every lane of vD with the operation on the same lanes of vA, vB and vC and the scalar gB, leave the other vector registers, and go on. VRED gives every lane of vD the pairwise tree sum, the maximum or the anchored sum of the lanes of vA. The anchored sum of lanes and its flag do not depend on the order of the lanes. Where the spec leaves a choice it takes the one of the model: log 27. -/
def Obligations.LaneOperationsWriteEveryLane : Prop :=
  (∀ (s : State) (c : CoreId) (r : Run) (w : W64),
    let k := s.core c
    let ops : List (Instr × Nat × (W32 → W32 → W32 → W32 → W32)) :=
      [(.vopAdd c, 0, fun a b _ _ => fAdd a b), (.vopSub c, 1, fun a b _ _ => fSub a b), (.vopMul c, 2, fun a b _ _ => fMul a b),
       (.vopFma c, 3, fun a b d _ => fFma a b d), (.vopMax c, 4, fun a b _ _ => fMax a b), (.vopMin c, 5, fun a b _ _ => fMin a b),
       (.vopExp2 c, 6, fun a _ _ _ => fExp2 a), (.vopRcp c, 7, fun a _ _ _ => fRcp a), (.vopRsqrt c, 8, fun a _ _ _ => fRsqrt a),
       (.vopMuls c, 9, fun a _ _ g => fMul a g), (.vopAdds c, 10, fun a _ _ g => fAdd a g)]
    let same := fun (t : State) => (∀ d i, d ≠ fD w → i < 256 → (t.core c).lane d i = k.lane d i) ∧ (∀ x, x ≠ c.val → t.core x = s.core x) ∧
      (t.core c).pc = k.next.pc ∧ (t.core c).bank = k.bank ∧ (t.core c).g = k.g ∧ (t.core c).spad = k.spad ∧ t = s.setCore c (t.core c)
    (Safety.Issues s c r w 0x30 → ∀ p ∈ ops, bits w.toNat 3 0 = p.2.1 →
      ∃ t, exec p.1 s = .next t ∧ same t ∧ (t.core c).runFlag = k.runFlag ∧
        ∀ i < 256, (t.core c).lane (fD w) i = p.2.2 (k.lane (fA w) i) (k.lane (fB w) i) (k.lane (fC w) i) (k.gr (fB w))) ∧
    (Safety.Issues s c r w 0x34 →
      let xs := (List.range 256).map (k.lane (fA w))
      (bits w.toNat 1 0 = 0 → ∃ t, exec (.vredTree c) s = .next t ∧ same t ∧ (t.core c).runFlag = k.runFlag ∧ ∀ i < 256, (t.core c).lane (fD w) i = treeSum xs) ∧
      (bits w.toNat 1 0 = 1 → ∃ t, exec (.vredMax c) s = .next t ∧ same t ∧ (t.core c).runFlag = k.runFlag ∧
        ∀ i < 256, (t.core c).lane (fD w) i = xs.foldl fMax (xs.headD 0)) ∧
      (bits w.toNat 1 0 = 2 → ∃ t, exec (.vredAnchored c) s = .next t ∧ same t ∧ (t.core c).runFlag = (k.runFlag || (anchoredSum k.anchor xs).2) ∧
        ∀ i < 256, (t.core c).lane (fD w) i = (anchoredSum k.anchor xs).1))) ∧
  (∀ (a : Int) (xs ys : List W32), xs.Perm ys → anchoredSum a xs = anchoredSum a ys)

/-- What a write of an area stores is what a read of it gives, with the wrap at the end of the store; other bytes of a scratchpad keep their values. VLD, VST, VLDA and ADRAIN move elements between vector registers, bank rows and areas in their format; VST waits for locks, VLDA for passes that still write its row, issued or queued; a word that is or becomes poisoned under VLD ends the item. An ADRAIN that starts is under way until it has read its last row; each row that it reads is converted and written to its place in the area, the bytes after the last element being 0, and leaves the bank as it was. Where the spec leaves a choice it takes the one of the model: log 27, 87, 109, 117, 118. -/
def Obligations.VectorAndDrainTransfers : Prop :=
  (∀ (s : State) (c : Nat) (v : Nat) (bs : List Byte), v.testBit 31 = false → bs.length ≤ 786432 →
    (s.areaWrite c (areaOf v) bs).areaRead c (areaOf v) bs.length = bs ∧
    ∀ x, (∀ p ∈ (areaOf v).parts bs.length, x < p.1 ∨ p.1 + p.2 ≤ x) →
      (Memory.get? ((s.areaWrite c (areaOf v) bs).core c).spad x).getD 0 = (Memory.get? (s.core c).spad x).getD 0) ∧
  (∀ (s : State) (c : CoreId) (r : Run) (w : W64) (ecc : List (Nat × EccFind)),
    let k := s.core c
    let fmt := bits w.toNat 7 0
    let a := areaOf (k.gr (fA w)).toNat
    (Safety.Issues s c r w 0x31 →
      let u := (s.areaTouch c a (vecBytes fmt)).areaFinds c a (vecBytes fmt) ecc
      (u.areaPoisoned c a (vecBytes fmt) = true → exec (.vld c ecc) s = .next (u.poisonStop c a (vecBytes fmt) r.work)) ∧
      (u.areaPoisoned c a (vecBytes fmt) = false → ∃ t, exec (.vld c ecc) s = .next t ∧ t = u.setCore c (t.core c) ∧
        (∀ i < 256, (t.core c).lane (fD w) i = toFp32 (elemValue fmt (packedElem (u.areaRead c a (vecBytes fmt)) (elemBits fmt) i))) ∧
        (∀ d i, d ≠ fD w → i < 256 → (t.core c).lane d i = (u.core c).lane d i) ∧ (t.core c).pc = (u.core c).next.pc ∧ (t.core c).bank = (u.core c).bank)) ∧
    (Safety.Issues s c r w 0x32 →
      let bs := packElems (elemBits fmt) ((k.lanes (fD w)).map (fun x => convert fmt (ofFp32 x)))
      (k.locked a (vecBytes fmt) = true → exec (.vst c) s = .next s) ∧
      (k.locked a (vecBytes fmt) = false → ∃ t, exec (.vst c) s = .next t ∧
        let u := s.areaWrite c a bs
        t = u.setCore c (t.core c) ∧ (t.core c).spad = (u.core c).spad ∧ (t.core c).vregs = (u.core c).vregs ∧ (t.core c).g = (u.core c).g ∧
          (t.core c).bank = (u.core c).bank ∧ (t.core c).pc = (u.core c).next.pc)) ∧
    (Safety.Issues s c r w 0x33 →
      let row := (k.gr (fA w)).toNat % 512
      let busy := k.rowsDue row 1 = true ∨ k.rowQueued row = true
      (busy → exec (.vlda c) s = .next s) ∧
      (¬ busy → ∃ t, exec (.vlda c) s = .next t ∧ t = s.setCore c (t.core c) ∧
        (∀ i < 256, (t.core c).lane (fD w) i = if i < k.cwidth then toFp32 ((k.bankAt row i).value k.anchor) else 0) ∧
        (∀ d i, d ≠ fD w → i < 256 → (t.core c).lane d i = k.lane d i) ∧ (t.core c).bank = k.bank ∧ (t.core c).pc = k.next.pc))) ∧
  (∀ (s : State) (c : CoreId) (op : ArrOp), fOp op.word = 0x25 → ¬ Safety.ArrayWaits (s.core c) op →
    s.startArray c op = some (s.setCore c { s.core c with drain := some { op := op } })) ∧
  ∀ (s : State) (c : Nat) (d : Drain) (sh : Shape),
    let k := s.core c
    let xs := (List.range sh.cols).map (fun j => (k.bankAt ((d.op.b + d.next) % 512) j).drained sh k.anchor)
    let last := decide (sh.rows ≤ d.next + 1)
    let ps := rowParts sh d.next xs ++ (if last then [(shapeFilled sh, List.replicate (sh.payload - shapeFilled sh) 0)] else [])
    let u := (ps.filter (fun p => !p.2.isEmpty)).foldl (fun (s : State) p => s.areaWrite c ((areaOf d.op.a).plus p.1) p.2) s
    let t := s.drainRow c d sh
    (t.core c).spad = (u.core c).spad ∧ (∀ f, t.field f = u.field f) ∧ t = u.setCore c (t.core c) ∧
      (t.core c).bank = k.bank ∧ (t.core c).vregs = k.vregs ∧ (t.core c).pc = k.pc ∧ (t.core c).arrQ = k.arrQ ∧ (t.core c).passes = k.passes ∧
      (t.core c).runFlag = (k.runFlag || xs.any (fun x => x.2.2)) ∧
      (last = true → (t.core c).drain = none) ∧
      (last = false → ∃ d', (t.core c).drain = some d' ∧ d'.op = d.op ∧ d'.next = d.next + 1)

/-! ## Tiles, memory stations, Loupe, Hallmark and the stores -/

/-- The EMIT or STORE at the head of a core's DMA queue sends its tile once its strand holds a credit and its pacing allows one more tile: under the member's next SEQ, with the bytes of its area, into flight or across Clasp; else it waits. A poisoned word ends the item, and a word that an error hits on the way to the link leaves as poison. A tile in flight lands: a duplicate is discarded, one of an ended item from another module is acknowledged with its credit and takes no slot, one for a HOST station joins the outbound tiles, and one for a CORE station takes a slot of each destination member. The credit of a freed slot returns to its source, to another module by a control message; CREDIT_RETURN of a strand to another module takes the message's acknowledgements and credits. Where the spec leaves a choice it takes the one of the model: log 32, 33, 92, 106, 117, 128. -/
def Obligations.TilesAreSentLandedAndCredited : Prop :=
  (∀ (s : State) (c : CoreId) (ecc : List (Nat × EccFind)) (bad : List Nat) (op : DmaOp) (rest : List DmaOp) (x : StrandSt),
    let k := s.core c
    k.dmaQ = op :: rest → op.kind ≠ 2 → s.strand? op.strand = some x →
    (sends k x = false → exec (.tileSend c ecc bad) s = .next (s.popDma c)) ∧
    (sends k x = true → s.hasCredit x k.member = false → exec (.tileSend c ecc bad) s = .next s) ∧
    (sends k x = true → s.hasCredit x k.member = true →
      let n := if op.empty then 0 else (k.shape op.shape).payload
      let u := (s.areaTouch c (areaOf op.area) n).areaFinds c (areaOf op.area) n ecc
      (u.areaPoisoned c (areaOf op.area) n = true →
        exec (.tileSend c ecc bad) s = .next ((u.popDma c).poisonStop c (areaOf op.area) n op.work)) ∧
      (u.areaPoisoned c (areaOf op.area) n = false →
        ∃ tile : Tile, exec (.tileSend c ecc bad) s = .next ((u.sendTile op.strand x k.member tile).popDma c) ∧
          tile.payload = u.areaRead c (areaOf op.area) n ∧ tile.work = op.work ∧ tile.last = op.last ∧ tile.empty = op.empty ∧
          tile.anchorSat = k.runFlag ∧ (x.entry.place ≠ .toPeer ∨ bad = [] → tile.poison = []) ∧ (∀ w ∈ tile.poison, w ∈ bad) ∧
          (tile.suspect = true ↔ (∃ r, k.run = some r ∧ r.suspect = true) ∨ ∃ p ∈ k.passes, p.work = op.work ∧ p.events ≠ [])))) ∧
  (∀ (s : State) (n m : Nat) (k : StrandSt) (tile : Tile), ∃ y, (s.sendTile n k m tile).strand? n = some y ∧
    tget y.nextSeq m 0 = tget k.nextSeq m 0 + 1 ∧ y.slots = k.slots ∧
    ((y.recent m s.now).map (·.2)).sum = ((k.recent m s.now).map (·.2)).sum + tileBytes tile ∧
    (k.entry.place ≠ .toPeer → y.flight = k.flight ++ [{ tile with strand := n, seq := tget k.nextSeq m 0, srcMember := m }] ∧ y.unacked = k.unacked) ∧
    (k.entry.place = .toPeer → y.flight = k.flight ∧ y.unacked = k.unacked ++ [(m, tget k.nextSeq m 0, tile.work, s.now)]) ∧
    (∀ i, i ≠ n → (s.sendTile n k m tile).strand? i = s.strand? i) ∧ (s.sendTile n k m tile).mem = s.mem ∧ (s.sendTile n k m tile).alm = s.alm) ∧
  (∀ (s : State) (k : StrandSt) (m : Nat), s.hasCredit k m = true →
    k.bound = true ∧ 0 < tget k.credits (s.groupOf k m (tget k.nextSeq m 0)) 0 ∧ ((k.recent m s.now).map (·.2)).sum ≤ k.entry.rate * 1000) ∧
  (∀ (s : State) (n : StrandId) (m : Fin 96) (bad : List Nat) (k : StrandSt) (tile : Tile) (kind : StationKind),
    s.strand? n = some k → k.flight.find? (fun x => x.srcMember == m.val) = some tile → s.dstKind k = some kind →
    let base := if k.entry.place = .fromPeer then s.countTile k tile else s
    let gone := k.entry.place = .fromPeer ∧ tile.work ∈ k.ended
    (isMemKind kind = true → exec (.tileLand n m bad) s = .next s) ∧
    (isMemKind kind = false → isDuplicate k tile = true →
      exec (.tileLand n m bad) s = .next (base.setStrand n { k with flight := k.flight.erase tile })) ∧
    (isMemKind kind = false → isDuplicate k tile = false → gone → ∃ y, y.slots = k.slots ∧ y.flight = k.flight.erase tile ∧ y.outbound = k.outbound ∧
      exec (.tileLand n m bad) s = .next ((base.setStrand n y).ackPeer n [m] [s.groupOf k m tile.seq])) ∧
    (isDuplicate k tile = false → ¬ gone → kind = .host ∨ kind = .core → ∃ (t : State) (y : StrandSt) (ps : List Nat), exec (.tileLand n m bad) s = .next t ∧
      t.strand? n = some y ∧ y.flight = k.flight.erase tile ∧ (bad = [] → ps = []) ∧ (∀ i, i ≠ n.val → t.strand? i = s.strand? i) ∧ t.mem = s.mem ∧
      (kind = .host → y.slots = k.slots ∧ y.outbound = k.outbound ++ [{ tile with poison := tile.poison ++ ps }] ∧ t.cores = s.cores) ∧
      (kind = .core → y.outbound = k.outbound ∧ t.alm = s.alm ∧ ∃ rs : List SlotRec, y.slots = k.slots ++ rs ∧ rs.map (·.member) = s.dests k tile.seq ∧
        ∀ r ∈ rs, r.phase = 0 ∧ r.tile = { tile with payload := [], poison := tile.poison ++ ps }))) ∧
  ∀ (s : State) (n : StrandId) (landed credits : List (Fin 128)) (k : StrandSt), s.strand? n = some k →
    (k.entry.place ≠ .toPeer →
      (k.slots.find? (fun r => decide (r.phase = 2) && s.returnable k r) = none → exec (.creditReturn n landed credits) s = .next s) ∧
      ∀ r, k.slots.find? (fun r => decide (r.phase = 2) && s.returnable k r) = some r →
        let k' := { k with slots := k.slots.filter (fun x => !(x.tile.srcMember == r.tile.srcMember && x.tile.seq == r.tile.seq)) }
        (k.entry.place = .locl → exec (.creditReturn n landed credits) s = .next ((s.setStrand n
          { k' with credits := tput k.credits r.group (tget k.credits r.group 0 + 1) }).pump)) ∧
        (k.entry.place = .fromPeer → exec (.creditReturn n landed credits) s = .next ((s.setStrand n k').ackPeer n [] [r.group]))) ∧
    (k.entry.place = .toPeer → ∀ (m g : Fin 128), k.bound = true → g.val < s.groups k → tget k.credits g 0 < k.entry.depth →
      exec (.creditReturn n [m] [g]) s = .next ((s.setStrand n { k with
        unacked := (match k.unacked.find? (fun u => u.1 == m.val) with | some u => k.unacked.erase u | none => k.unacked)
        credits := tput k.credits g (tget k.credits g 0 + 1) }).pump))

/-- A memory station reads and writes byte i of a payload at REGION_BASE + ((OFFSET × 64 + i) mod (REGION_LEN × 65,536)) of its tier, so that an access past the end of the region wraps to its start, and raises no fault or status by it: the answer to a fetch carries those bytes, and a store changes those bytes and no other of module memory, but for a tile from another module of an item that has ended here, which changes none. -/
def Obligations.MemoryStationsWrapInTheirRegion : Prop :=
  (∀ (s : State) (n : StrandId) (k : StrandSt) (r : FetchReq) (rest : List FetchReq) (st : StationE) (bad wire : List Nat) (reply : PeerReply),
    s.strand? n = some k → k.fetchQ = r :: rest → s.srcStn k = some st → st.kind = .hbm ∨ st.kind = .lpddr → s.hasCredit k 0 = true →
    0 < st.regionLen → r.shape.payload ≤ 262144 →
    let base := (if st.kind = .hbm then hbmBase st.target else lpBase st.target) + st.regionBase
    let at_ := fun (i : Nat) => base + (r.offset.toNat * 64 + i) % (st.regionLen * 65536)
    (∀ i < r.shape.payload, s.devTripped (at_ i) = false) →
    ∃ (u : State) (tile : Tile), exec (.fetchResponse n bad reply wire) s = .next (u.sendTile n { k with fetchQ := rest } 0 tile) ∧
      u.mem.bytes = s.mem.bytes ∧ u.strand? n = some { k with fetchQ := rest } ∧ (∀ i, i ≠ n.val → u.strand? i = s.strand? i) ∧
      tile.payload.length = r.shape.payload ∧ tile.offset = r.offset ∧ tile.work = r.work ∧
      (∀ i < r.shape.payload, tile.payload[i]? = (s.memRead (at_ i) 1)[0]?) ∧
      (bad = [] → (∀ i < r.shape.payload, s.wordPoison (at_ i / 8) = false) →
        (wire = [] ∨ k.entry.place ≠ .toPeer → tile.poison = []) ∧ u = s.setStrand n { k with fetchQ := rest })) ∧
  ∀ (s : State) (n : StrandId) (m : Fin 96) (k : StrandSt) (tile : Tile) (st : StationE) (reply : PeerReply) (bad : List Nat),
    s.strand? n = some k → k.flight.find? (fun x => x.srcMember == m.val) = some tile → s.dstStn k = some st → st.kind = .hbm ∨ st.kind = .lpddr →
    0 < tile.payload.length → tile.payload.length ≤ 262144 → tile.payload.length ≤ st.regionLen * 65536 → isDuplicate k tile = false →
    let base := (if st.kind = .hbm then hbmBase st.target else lpBase st.target) + st.regionBase
    let at_ := fun (i : Nat) => base + (tile.offset.toNat * 64 + i) % (st.regionLen * 65536)
    (∀ i < tile.payload.length, s.devTripped (at_ i) = false) →
    ∃ t, exec (.storeWrite n m reply bad) s = .next t ∧ (k.entry.place = .fromPeer → tile.work ∈ k.ended → t.mem = s.mem) ∧
      (¬ (k.entry.place = .fromPeer ∧ tile.work ∈ k.ended) → ∀ i < tile.payload.length, Memory.get? t.mem.bytes (at_ i) = tile.payload[i]?) ∧
      (∀ a, (∀ i < tile.payload.length, a ≠ at_ i) → Memory.get? t.mem.bytes a = Memory.get? s.mem.bytes a) ∧
      t = { s with strands := t.strands, mem := t.mem, fields := t.fields, clk := t.clk, out := t.out, cls := t.cls, mgmt := t.mgmt } ∧
      (∀ i, i ≠ n.val → t.strand? i = s.strand? i)

/-- A Loupe unit consumes the landed tile due when it is of its open item's input, and frees the tile's slot; poison or an uncorrectable error ends the item, FAULT_THERMAL where a tripped device gave the poison; past the member's LAST an EMPTY tile is passed over, its marks kept for an item still to open, and another one waits; a free unit opens the next item in admission order, which ends instead on a tripped region. A candidate with a NaN score is counted and dropped, one of -infinity is dropped, and another enters its query's list, which never holds more than K. Candidates whose corpus row lies past the shard are strays: each is counted and none enters a list. A unit closes its item once every source has delivered LAST, and not before; a result row has K entries of 8 bytes. Where the spec leaves a choice it takes the one of the model: log 80, 112, 113. -/
def Obligations.LoupeKeepsTheBestCandidates : Prop :=
  (∀ (s : State) (f : FieldId) (n : StrandId) (m : Fin 96) (ecc : Option EccFind) (x0 : StrandSt) (r : SlotRec) (st : StationE),
    let x := x0.rotated 0 (s.srcCount x0)
    s.strand? n = some x0 → x.nextTile 0 = some r → s.dstStn x = some st →
    (st.kind ≠ .loupe ∨ st.target ≠ f.val ∨ r.tile.srcMember ≠ m.val → exec (.loupeTileConsume f n m ecc) s = .next s) ∧
    (st.kind = .loupe → st.target = f.val → r.tile.srcMember = m.val →
      (∀ w, (s.loupe f).workTag = some w →
        let past := (s.loupe f).closed = true ∨ (n.val, r.tile.srcMember) ∈ (s.loupe f).lastSeen
        let u := s.setStrand n (x.consumed r (s.srcCount x))
        let v := match ecc with | some e => u.loupeError f e | none => u
        (¬ past → ecc = some .uncorrectable ∨ r.tile.poison ≠ [] → exec (.loupeTileConsume f n m ecc) s = .next
          (v.endItem w (if ecc ≠ some .uncorrectable ∧ r.tile.hot ≠ [] then 0x34 else 0x32) (0x7300 + f))) ∧
        (¬ past → ecc ≠ some .uncorrectable → r.tile.poison = [] → exec (.loupeTileConsume f n m ecc) s = .next (v.modLoupe f (fun l =>
          l.eat (v.loupeCfg l) (v.srcKind x == some .loupe) n (if x.entry.srcMode = .gather then r.tile.srcMember else 0) r.tile))) ∧
        (past → r.tile.empty = false → exec (.loupeTileConsume f n m ecc) s = .next s) ∧
        (past → r.tile.empty = true → exec (.loupeTileConsume f n m ecc) s = .next (u.modLoupe f (fun l => l.passEmpty n r.tile (s.stillToOpen (s.loupe f) r.tile.work))))) ∧
      ((s.loupe f).workTag = none →
        (s.nextLoupe (s.loupe f) = none → r.tile.empty = false → exec (.loupeTileConsume f n m ecc) s = .next s) ∧
        ∀ i, s.nextLoupe (s.loupe f) = some i → r.tile.empty = false ∨ r.tile.work = i.tag →
          ((s.region (120 + f)).tripped = true → r.tile.empty = false → exec (.loupeTileConsume f n m ecc) s = .next (s.endItem i.tag 0x34 (0x7200 + 120 + f))) ∧
          ((s.region (120 + f)).tripped = false → exec (.loupeTileConsume f n m ecc) s = exec (.loupeTileConsume f n m ecc) (s.openLoupe f) ∧
            ((s.openLoupe f).loupe f).workTag = some i.tag ∧ ((s.openLoupe f).loupe f).lists = [] ∧ s.openLoupe f = { s with lou := (s.openLoupe f).lou })))) ∧
  (∀ (l : LoupeSt) (cfg : LoupeCfg) (q : Nat) (c : W32 × W32),
    (ofFp32 c.1 = .nan → (l.take cfg q c).lists = l.lists ∧ (l.take cfg q c).nanCount = sat l.nanCount) ∧
    (ofFp32 c.1 = .inf true → l.take cfg q c = l) ∧
    ((tget l.lists q []).length ≤ cfg.k → (tget (l.take cfg q c).lists q []).length ≤ cfg.k) ∧
    ∀ p, p ≠ q → tget (l.take cfg q c).lists p [] = tget l.lists p []) ∧
  (∀ (l : LoupeSt) (cfg : LoupeCfg) (m : Nat) (t : Tile), cfg.shardRows ≤ tget l.ordinals m 0 / (cfg.queries / cfg.qcols) * cfg.tileRows →
    (l.eatScores cfg m t).lists = l.lists ∧ (l.eatScores cfg m t).candCount = l.candCount + BitVec.ofNat 64 (t.rows * t.cols) ∧
    (0 < t.rows * t.cols → l.strayCount.toNat < 2 ^ 32 - 1 → l.strayCount.toNat < (l.eatScores cfg m t).strayCount.toNat)) ∧
  (∀ (s : State) (f : FieldId) (ecc : Option EccFind) (w : W32), (s.loupe f).workTag = some w →
    ((s.loupe f).closed = true ∨ s.inputClosed (s.loupe f) = false → exec (.loupeClose f ecc) s = .next s) ∧
    ((s.loupe f).closed = false → s.inputClosed (s.loupe f) = true →
      let v := match ecc with | some e => s.loupeError f e | none => s
      let out := (s.loupe f).results (v.loupeCfg (s.loupe f)) w
      (ecc = some .uncorrectable → exec (.loupeClose f ecc) s = .next (v.endItem w 0x32 (0x7300 + f))) ∧
      (ecc ≠ some .uncorrectable → exec (.loupeClose f ecc) s =
        .next (State.pumpLoupe out.length f (v.modLoupe f (fun l => { l with closed := true, outQ := out, lists := [] })))))) ∧
  ∀ (k : Nat) (xs : List (W32 × W32)), xs.length ≤ k → (resultRow k xs).length = 8 * k

/-- A check compares residues modulo 7: it meets an error exactly when the error is no multiple of 7, or when the code 0b111 is met. A check that fails in the last vector instruction or drain of a run counts an event, once for each of its lanes or elements, marks the run suspect and queues one record in the core's field; where predicted and observed code agree, or no such check ran, nothing happens. One that fails in the array counts an event, stops issue, and holds the results of its column from the failing row on. Once every pass of the array awaits its decision, the oldest retires: a pass that may be re-run and re-runs clean resolves the event and spends the run's re-run, and one that may not, or whose re-run fails, leaves the run suspect. A field's oldest record goes to the sink once, while its manager and the port run. Where the spec leaves a choice it takes the one of the model: log 29, 30, 110, 111, 123, 127. -/
def Obligations.HallmarkEventsAreCountedAndDecided : Prop :=
  (∀ (x d : Int), ((codesOf x d false).1 = (codesOf x d false).2 ↔ d % 7 = 0) ∧ (codesOf x d true).1 ≠ (codesOf x d true).2) ∧
  (∀ (s : State) (c : CoreId) (h : HmFault), outsideArray h = true →
    ((s.core c).run = none → exec (.hallmarkEvent c h) s = .next s) ∧
    ∀ r, (s.core c).run = some r →
      let last := if h.drain then r.lastDrain else r.lastVec
      (last = none → exec (.hallmarkEvent c h) s = .next s) ∧
      ∀ v, last = some v →
        let i := if h.drain then h.row * v.cols + h.lane else h.lane
        let checks := (h.unit ∈ v.units ∨ (h.unit = 3 ∧ v.units ≠ [])) ∧ i < v.vals.length ∧ (h.drain = true → h.lane < v.cols) ∧ i ∉ v.failed ∧ (v.codes i h).1 ≠ (v.codes i h).2
        (¬ checks → exec (.hallmarkEvent c h) s = .next s) ∧
        (checks → ∃ t bs, exec (.hallmarkEvent c h) s = .next t ∧ t.gen = { s.gen with eventSeq := s.gen.eventSeq + 1, hallmarks := sat s.gen.hallmarks } ∧
          (t.core c).vecEvents = min ((s.core c).vecEvents + 1) 65535 ∧ (t.core c).run = some (r.failedAt h.drain v i) ∧ (r.failedAt h.drain v i).suspect = true ∧
          (∀ d, d ≠ c.val → t.core d = s.core d) ∧ bs.length = 64 ∧
          ((s.field (coreField c)).hmQueue.length < 256 → (t.field (coreField c)).hmQueue = (s.field (coreField c)).hmQueue ++ [bs]) ∧
          (256 ≤ (s.field (coreField c)).hmQueue.length → (t.field (coreField c)).hmQueue = (s.field (coreField c)).hmQueue ∧
            (t.field (coreField c)).hmLost = sat (s.field (coreField c)).hmLost) ∧
          t = { s with gen := t.gen, cores := t.cores, fields := t.fields })) ∧
  (∀ (s : State) (c : CoreId) (h : HmFault), outsideArray h = false → (s.core c).passes[h.pass]? = none ∨ (s.core c).logicalCol h.col = none →
    exec (.hallmarkEvent c h) s = .next s) ∧
  (∀ (s : State) (c : CoreId) (h : HmFault) (p : Pass) (j : Nat), outsideArray h = false → (s.core c).passes[h.pass]? = some p → (s.core c).logicalCol h.col = some j →
    let k := s.core c
    let codes := k.arrayCodes h.pass p j h
    let cell := p.mmo = true ∧ p.drain = false
    let checks := unitInPass h p = true ∧ j < k.cwidth ∧ (p.waits = false ∨ cell) ∧ (∀ e ∈ p.events, e.lcol.toNat ≠ j) ∧ codes.1 ≠ codes.2
    (¬ checks → exec (.hallmarkEvent c h) s = .next s) ∧
    (checks → s.coreBound c = true → (∃ r, k.run = some r ∧ r.work = p.work) →
      ∃ t p' e, exec (.hallmarkEvent c h) s = .next t ∧ t.gen = { s.gen with eventSeq := s.gen.eventSeq + 1, hallmarks := sat s.gen.hallmarks } ∧
        (t.core c).hstop = true ∧ (t.core c).passes[h.pass]? = some p' ∧ (t.core c).passes.length = k.passes.length ∧ p'.events = p.events ++ [e] ∧
        e.lcol = BitVec.ofNat 16 j ∧ e.pcol = BitVec.ofNat 16 h.col ∧ e.expected = BitVec.ofNat 8 codes.1 ∧ e.observed = BitVec.ofNat 8 codes.2 ∧
        (p'.colWrites j).map (·.held) = (p.colWrites j).zipIdx.map (fun x => x.1.held || decide (p.position h.row ≤ x.2)) ∧
        (t.core c).bank = k.bank ∧ (∀ d, d ≠ c.val → t.core d = s.core d) ∧ t.mem = s.mem ∧ t.jobs = s.jobs ∧ t.strands = s.strands)) ∧
  (∀ (s : State) (c : CoreId) (again : List HmFault),
    ((s.core c).run = none ∨ (s.core c).passes = [] ∨ (s.core c).passes.all (·.waits) = false → exec (.rerunDecision c again) s = .next s) ∧
    ∀ r p ps, (s.core c).run = some r → (s.core c).passes = p :: ps → (s.core c).passes.all (·.waits) = true →
      let fails := (s.core c).rerunFails 0 p (((p.events.head?).map (·.pcol.toNat)).getD 0) again
      ∃ (u : State) (r' : Run), exec (.rerunDecision c again) s = .next (State.pumpArray 9 c u) ∧ (u.core c).run = some r' ∧ (u.core c).passes.length = ps.length ∧
        (p.noRerun r.reserveSpent = none → fails = [] → r' = { r with reserveSpent := true } ∧ u.gen = { s.gen with resolved := sat s.gen.resolved }) ∧
        (p.noRerun r.reserveSpent = none → fails ≠ [] → r' = { r with reserveSpent := true, suspect := true } ∧ u.gen.resolved = s.gen.resolved) ∧
        (p.noRerun r.reserveSpent ≠ none → r' = { r with suspect := true } ∧ u.gen = s.gen) ∧
        (∀ d, d ≠ c.val → u.core d = s.core d) ∧ u.mem = s.mem ∧ u.jobs = s.jobs ∧ u.strands = s.strands) ∧
  ∀ (s : State) (f : FieldId), let k := s.field f
    (∀ bs rest, k.hmQueue = bs :: rest → k.hmSent = false → s.managerUp f = true → s.portUp = true →
      exec (.hallmarkForward f) s = .next ((s.tell s.mgmt.sinkEth (.record s.mgmt.sink { hallmark := true, bytes := bs })).setField f { k with hmSent := true })) ∧
    (k.hmQueue = [] ∨ k.hmSent = true ∨ s.managerUp f = false ∨ s.portUp = false → exec (.hallmarkForward f) s = .next s)

/-- A scrub of a bank in retention, of a fenced slice (the model's choice, log 96), of a region that is not ON, beyond the rows, or with no find changes nothing; a find counts, poisons where it cannot be corrected, and leaves memory elsewhere alone. Patrol scrub records and poisons an uncorrectable HBM3E word. A slice is repaired only when due and in no buffer, and fenced when a bank needs more than its 32 rows. A bank enters retention only from PENDING with no cause that holds it awake, and is RETAINED after that while its request stands; a late access wakes the whole field, counts and cancels retention, and re-arming waits for the runs in progress when WAKE was cleared. Where the spec leaves a choice it takes the one of the model: log 37, 96, 98, 127. -/
def Obligations.StoresAreScrubbedAndRetained : Prop :=
  (∀ (s : State) (c : CoreId) (f : FieldId) (row : Nat) (finds : List (Nat × EccFind)),
    let bank := sliceWordBank (64 * row)
    let open_ := row < 135168 ∧ (s.region (120 + f)).state = .on ∧ tget (s.field f).ret bank .awake ≠ .retained ∧ (s.field f).fenced.getLsbD (bank / 8) = false
    ((s.region c).state ≠ .on ∨ 25088 ≤ row ∨ finds = [] → exec (.scrubRead (.spad c) row finds) s = .next s) ∧
    (¬ open_ ∨ finds = [] → exec (.scrubRead (.slice f) row finds) s = .next s) ∧
    (∀ i, i < 4 → row < 25088 → (s.region c).state = .on → 4 * row + i ∉ (s.core c).spadPoison →
      (tget? (s.core c).spadCe ((4 * row + i) / 4 % 32) ≠ some (4 * row + i, true) →
        ∃ t, exec (.scrubRead (.spad c) row [(i, .correctable)]) s = .next t ∧ (t.field (coreField c)).spdCe = (s.field (coreField c)).spdCe + 1 ∧
          (t.core c).spad = (s.core c).spad ∧ (t.core c).spadPoison = (s.core c).spadPoison ∧ t.heirloom = s.heirloom ∧ t.mem = s.mem) ∧
      (s.coreBound c = true →
        ∃ t, exec (.scrubRead (.spad c) row [(i, .uncorrectable)]) s = .next t ∧ (t.field (coreField c)).spdUe = sat (s.field (coreField c)).spdUe ∧
          (t.core c).spad = (s.core c).spad ∧ (t.core c).spadPoison = (s.core c).spadPoison ++ [4 * row + i] ∧ t.mem = s.mem ∧
          ∀ d, d ≠ c.val → t.core d = s.core d)) ∧
    (∀ i, i < 64 → open_ → 64 * row + i ∉ (s.field f).slicePoison →
      ∃ t, exec (.scrubRead (.slice f) row [(i, .uncorrectable)]) s = .next t ∧ 64 * row + i ∈ (t.field f).slicePoison ∧
        (t.field f).slcUe = sat (s.field f).slcUe ∧ (t.field f).slice = (s.field f).slice ∧ t.cores = s.cores ∧ t.mem = s.mem)) ∧
  (∀ (s : State) (a : Nat), (isHbm a = true → s.devTripped a = false → s.wordPoison (a / 8) = false →
      ∃ t, exec (.patrolScrub a (some .uncorrectable)) s = .next t ∧ t.mem.bytes = s.mem.bytes ∧ t.wordPoison (a / 8) = true) ∧
    exec (.patrolScrub a none) s = .next s ∧ exec (.patrolScrub a (some .correctable)) s = .next s) ∧
  (∀ (s : State) (f : FieldId) (p : Fin 4) (n : W32),
    exec (.errorCheckAndScrub f p n) s = .next (s.record 0x02 (1 + f) (0x7300 + f) (le 1 f ++ le 1 p ++ le 4 n.toNat))) ∧
  (∀ (s : State) (f : FieldId) (sl : Fin 16) (rows : List (Nat × Bool)),
    let due := s.repairDue f sl = true ∧ s.sliceHeld f (sl * 0x400000) 0x400000 = false ∧ s.managerUp f = true
    let need := fun (b : Nat) => tget (s.field f).sliceRows (8 * sl + b) 0 + (rows.filter (fun x => decide (x.1 < 8192) && decide (x.1 / 1024 = b))).length
    (¬ due → exec (.sliceRepair f sl rows) s = .next s) ∧
    (due → rows = [] → (∀ b < 8, need b ≤ 32) → exec (.sliceRepair f sl rows) s = .next ((s.markRetired 3 (sliceIndex f sl)).publish)) ∧
    (due → ∃ u : State, ((∃ b < 8, 32 < need b) → exec (.sliceRepair f sl rows) s = .next (((u.fence f sl).markRetired 3 (sliceIndex f sl)).publish)) ∧
      ((∀ b < 8, need b ≤ 32) → exec (.sliceRepair f sl rows) s = .next ((u.markRetired 3 (sliceIndex f sl)).publish)) ∧
      u = { s with fields := u.fields, free := u.free })) ∧
  ∀ (s : State) (f : FieldId) (b : Fin 128), let k := s.field f
    (tget k.ret b .awake = .pending → s.heldAwake f b = false → exec (.retEntering f b) s = .next (s.setField f { k with ret := tput k.ret b .entering })) ∧
    (tget k.ret b .awake ≠ .pending ∨ s.heldAwake f b = true → exec (.retEntering f b) s = .next s) ∧
    (tget k.ret b .awake = .entering → k.retBit b = true → exec (.retRetained f b) s = .next (s.setField f { k with ret := tput k.ret b .retained })) ∧
    (tget k.ret b .awake = .entering → k.retBit b = false → ∃ t, exec (.retRetained f b) s = .next t ∧ tget (t.field f).ret b .awake = .awake ∧
      t = s.setField f { k with ret := (t.field f).ret }) ∧
    (tget k.ret b .awake ≠ .entering → exec (.retRetained f b) s = .next s) ∧
    ((b.val, RetState.retained) ∈ k.ret ∨ (b.val, RetState.entering) ∈ k.ret → ∃ t, exec (.lateAccess f b) s = .next t ∧ (t.field f).cancelled = true ∧
      (t.field f).wakeCount = sat k.wakeCount ∧ (t.field f).memStatus.getLsbD 4 = true ∧ (∀ e ∈ (t.field f).ret, e.2 ≠ .entering ∧ e.2 ≠ .retained) ∧
      (t.field f).slice = k.slice ∧ (∀ g, g ≠ f.val → t.field g = s.field g) ∧ t = { s with fields := t.fields }) ∧
    ((∀ e ∈ k.ret, e.1 = b.val → e.2 ≠ .entering ∧ e.2 ≠ .retained) → exec (.lateAccess f b) s = .next s) ∧
    (s.gen.state ≠ .reset → s.gen.state ≠ .recovery → s.cxl.d3 = false → k.memStatus.getLsbD 4 = true →
      ∃ t, exec (.wakeClear f) s = .next t ∧ (t.field f).memStatus.getLsbD 4 = false ∧ (t.field f).rearmWait = some (s.runsIn f) ∧
        (t.field f).cancelled = k.cancelled ∧ (∀ g, g ≠ f.val → t.field g = s.field g) ∧ t = { s with fields := t.fields }) ∧
    (∀ rs, k.rearmWait = some rs →
      ((∃ x ∈ rs, x ∈ s.runsIn f) → exec (.retentionRearm f) s = .next s) ∧
      ((∀ x ∈ rs, x ∉ s.runsIn f) → exec (.retentionRearm f) s = .next (s.setField f { k with cancelled := false, rearmWait := none })))

/-- The device master writes the oldest waiting Heirloom change to flash, then the replacement causes, and nothing while it does not run; the operating-minute counter counts outside RESET alone; a self-test acts only on a column, bank or slice that has a record, is free, with its region ON, and reproduces the fault, and makes its unit PERMANENT or leaves it so. Where the spec leaves a choice it takes the one of the model: log 84, 90, 127. -/
def Obligations.HeirloomIsWrittenAndTested : Prop :=
  (∀ s : State, (s.masterUp = false → exec .heirloomWrite s = .next s) ∧
    (s.masterUp = true →
      (∀ r rest, s.hwQueue = r :: rest → exec .heirloomWrite s = .next { s with flash.heirloom := flashHeir s.flash.heirloom r, hwQueue := rest }) ∧
      (∀ c rest, s.hwQueue = [] → s.replaceDue = c :: rest →
        exec .heirloomWrite s = .next { s with flash.replacement := s.flash.replacement ++ [c], replaceDue := rest }) ∧
      (s.hwQueue = [] → s.replaceDue = [] → exec .heirloomWrite s = .next s)) ∧
    (s.gen.state = .reset → exec .operatingMinute s = .next s) ∧
    (s.gen.state ≠ .reset → exec .operatingMinute s = .next { s with flash.minutes := sat s.flash.minutes })) ∧
  (∀ (rs : List HRec) (r : HRec), rs.length < 16384 ∨ (∃ x ∈ rs, x.kind = r.kind ∧ x.index = r.index) → r ∈ flashHeir rs r) ∧
  ∀ (s : State) (kind index : Nat),
    (∀ b, s.heir? kind index = none ∨ kind ∉ [1, 2, 3] ∨ s.unitFree kind index = false ∨ s.managerUp (unitField kind index) = false ∨ b = false →
      exec (.targetedSelfTest kind index b) s = .next s) ∧
    (kind = 1 ∨ kind = 2 → (s.region (physCore (index % 256))).state ≠ .on → s.unitFree kind index = false) ∧
    (∀ r, s.heir? kind index = some r → s.managerUp (unitField kind index) = true → s.unitFree kind index = true →
      (kind = 3 → ∃ t x, exec (.targetedSelfTest kind index true) s = .next t ∧ t.heir? kind index = some x ∧ x.state ≠ .watch ∧
        t = { s with heirloom := t.heirloom, hwQueue := t.hwQueue }) ∧
      (kind = 1 ∨ kind = 2 → exec (.targetedSelfTest kind index true) s = .next ((s.makePermanent kind index 2).settleCore (physCore (index % 256)))))

/-! ## Power, heat and clocks -/

/-- A converter's shutdown takes its bit from PWR_CONV_OK. A power fault occurs only for one of its causes, and then the device is in RESET, with what Heirloom waited to write in flash and, if no record could leave, the cause kept for the next bring-up. A phase of a powered region leaves service once; the region's first loss only publishes. A sensor found invalid counts no more. Every sample of a powered region meets its low-water record; a droop of more than 40 mV stretches the clock at most twice in 32 periods and moves the crossings it reaches by a half or a whole entry, one in the period of a stretch on the other side taking that one's slip back; a third is denied and counted. A breach is counted, and in an uncore region the field's slices are lost. A hold cycle brings each crossing that is holding one entry nearer to 0, and holding ends there. Where the spec leaves a choice it takes the one of the model: log 51, 52, 53, 54. -/
def Obligations.SupplyFaultsTakeTheirEffects : Prop :=
  (∀ (s : State) (v : Fin 24),
    (s.gen.state = .reset ∨ s.pwr.convOk.getLsbD v = false → exec (.converterShutdown v) s = .next s) ∧
    (s.gen.state ≠ .reset → s.pwr.convOk.getLsbD v = true →
      ∃ t, exec (.converterShutdown v) s = .next t ∧ t.pwr.convOk.getLsbD v = false ∧ (∀ j : Fin 24, j ≠ v → t.pwr.convOk.getLsbD j = s.pwr.convOk.getLsbD j) ∧
        t.pwr.status.getLsbD 0 = true ∧ t = { s with pwr := t.pwr, mgmt := t.mgmt, out := t.out })) ∧
  (∀ (s : State) (low : Bool),
    (s.gen.state = .reset ∨ s.pwr.faulted = true ∨ s.powerCause low = none → exec (.powerFault low) s = .next s) ∧
    (∀ c, s.gen.state ≠ .reset → s.pwr.faulted = false → s.powerCause low = some c →
      ∃ t, exec (.powerFault low) s = .next t ∧ t.gen.state = .reset ∧ t.part = s.part ∧ t.flash.heirloom = s.heirloom ∧ t.jobs = [] ∧ t.strands = [] ∧
        (s.sequencerUp = false ∨ s.portUp = false ∨ s.mgmt.records.queue ≠ [] → t.mgmt.powerFault = some c) ∧
        (c.1 = 1 → t.flash.convLost = ~~~ s.pwr.convOk))) ∧
  (∀ (s : State) (r : RegionId) (p : Fin 12),
    let powered := (s.region r).state = .on ∨ (s.region r).state = .ramping
    (¬ powered ∨ phaseCount r ≤ p.val ∨ p.val ∈ (s.region r).phasesOut → exec (.phaseLoss r p) s = .next s) ∧
    (powered → p.val < phaseCount r → (s.region r).phasesOut = [] → exec (.phaseLoss r p) s = .next ((s.retirePhase r p).publish)) ∧
    (powered → p.val < phaseCount r → p.val ∉ (s.region r).phasesOut →
      ∃ t, exec (.phaseLoss r p) s = .next t ∧ p.val ∈ (t.region r).phasesOut ∧ t.pwr.status.getLsbD 1 = true ∧ t.mem = s.mem)) ∧
  (∀ (s : State) (r : RegionId) (x : Fin 16),
    ((s.region r).live = false ∨ (s.region r).sensorValid.getLsbD x = false → exec (.sensorInvalid r x) s = .next s) ∧
    ((s.region r).live = true → (s.region r).sensorValid.getLsbD x = true →
      ∃ t, exec (.sensorInvalid r x) s = .next t ∧ (t.region r).sensorValid.getLsbD x = false ∧ t.pwr.status.getLsbD 3 = true ∧ t.mem = s.mem)) ∧
  (∀ (s : State) (r : RegionId) (below : Nat),
    let k := s.region r
    let p := s.periodNo
    let recent := k.stretched.filter (fun q => decide (p < q + 32))
    let h : Int := if 70 < below then 2 else 1
    let mv : BitVec 10 := BitVec.ofNat 10 (setpoint2 k.setpoint / 2 - below)
    (k.live = false → exec (.droopStretch r below) s = .next s) ∧
    (k.live = true → ∃ t, exec (.droopStretch r below) s = .next t ∧ t = { s with pwr := t.pwr, clk := t.clk, cores := t.cores, thm := t.thm, free := t.free } ∧
      (t.region r).vmin = mv ∧ (t.region r).lw.taken = true ∧ (t.region r).lw.mv.toNat ≤ mv.toNat ∧
      (below ≤ 40 ∨ p ∈ k.stretched ∨ k.deniedAt = some p → t.clk = s.clk ∧ t.cores = s.cores ∧ t.thm = s.thm) ∧
      (40 < below → p ∉ k.stretched → k.deniedAt ≠ some p →
        (2 ≤ recent.length → t.clk.denied = sat s.clk.denied ∧ t.clk.stretch = s.clk.stretch ∧ (t.region r).deniedAt = some p ∧ t.cores = s.cores) ∧
        (recent.length < 2 → t.clk.denied = s.clk.denied ∧ t.clk.stretch = s.clk.stretch + 1 ∧ (t.region r).stretched = recent ++ [p] ∧
          (r.val < 120 → (s.core r).aligned = true →
            (t.core r).slip = (s.core r).slip + (if s.halvesIn (120 + coreField r) p = 0 then h else (s.halvesIn (120 + coreField r) p : Int))) ∧
          (120 ≤ r.val → ∀ i < 10, let d := 10 * (r.val - 120) + i
            (s.core d).aligned = true → (t.core d).slip = (s.core d).slip - (if s.halvesIn d p = 0 then h else (s.halvesIn d p : Int))))))) ∧
  (∀ (s : State) (r : RegionId) (x : Fin 16) (mv : BitVec 10),
    let k := s.region r
    let breach := 2 * mv.toNat + 300 < setpoint2 k.setpoint ∨ (k.deniedAt = some s.periodNo ∧ 2 * mv.toNat + 100 < setpoint2 k.setpoint)
    (k.live = false ∨ k.sensorValid.getLsbD x = false ∨ ¬ breach → exec (.droopBreach r x mv) s = .next s) ∧
    (k.live = true → k.sensorValid.getLsbD x = true → breach →
      ∃ t, exec (.droopBreach r x mv) s = .next t ∧ t.clk.breaches = sat s.clk.breaches ∧ t.clk.status.getLsbD 6 = true ∧ t.mem = s.mem ∧
        (120 ≤ r.val → (t.field (r.val - 120)).slice = []))) ∧
  ∀ (s : State) (c : CoreId),
    let k := s.core c
    let a := k.aligned && k.holding
    let b := k.aligned && k.holdingArray
    ∃ v w : Int, exec (.slipHold c) s = .next { s.setCore c { k with
          slip := v, slipArray := w, holding := k.holding && !(a && decide (v = 0)), holdingArray := k.holdingArray && !(b && decide (w = 0)) } with
        clk.slipHold := s.clk.slipHold + (if a then 1 else 0) + (if b then 1 else 0) } ∧
      (a = false → v = k.slip) ∧ (a = true → v.natAbs = k.slip.natAbs - 2 ∧ 0 ≤ v * k.slip) ∧
      (b = false → w = k.slipArray) ∧ (b = true → w.natAbs = k.slipArray.natAbs - 2 ∧ 0 ≤ w * k.slipArray)

/-- A core region enters RETENTION 100 µs after its last condition and 10 ms after its last ramp's start, keeping its scratchpad alone of the core's stores; a waiting region ramps only without a COOLANT_OK stop, when no other of its field does and its field's cap allows or 200 µs have passed; its ramp is complete after 8 µs, and with both PLLs locked it is ON with an aligned core whose cycle count begins anew, a substitution ends, and what waited for the core is applied. A setpoint moves by one code at most in 10 µs, toward its target, a code above 140 leaves it as it is, and one for an uncore region but F0's after a COOLANT_OK stop too; LW_RESET clears every low-water record. Where the spec leaves a choice it takes the one of the model: log 7, 53, 103. -/
def Obligations.RegionsParkRampAndFollowSetpoints : Prop :=
  (∀ (s : State) (c : CoreId),
    let r := s.region c
    let due := ∃ u, r.parkSince = some u ∧ s.parkWanted c = true ∧ u.toNat + 100000 ≤ s.now ∧ ∀ x, r.rampStart = some x → x.toNat + 10000000 ≤ s.now
    (¬ due → exec (.retentionEntry c) s = .next s) ∧
    (due → ∃ t, exec (.retentionEntry c) s = .next t ∧ (t.region c).state = .retention ∧ (t.region c).darkCause = (if r.heat then 2 else 1) ∧
      (t.core c).spad = (s.core c).spad ∧ (t.core c).resident = (s.core c).resident ∧ (t.core c).bank = [] ∧ (t.core c).vregs = [] ∧ (t.core c).g = [] ∧
      (t.core c).run = none ∧ (t.core c).plane0 = {} ∧ (t.core c).plane1 = {} ∧ (∀ d, d ≠ c.val → t.core d = s.core d) ∧
      t = { s with cores := t.cores, pwr := t.pwr, clk := t.clk })) ∧
  (∀ (s : State) (c : CoreId),
    let r := s.region c
    let cap := (tget s.thm.capFieldEff (coreField c) 0).toNat
    let fits := cap = 0 ∨ (tget s.thm.fieldEst (coreField c) 0).toNat + 6 ≤ cap
    let waited := ∃ u, r.waitSince = some u ∧ u.toNat + 200000 ≤ s.now
    let may := s.thm.coolantStop = false ∧ r.state = .waiting ∧ s.fieldRamping (coreField c) = false ∧ s.waitsBefore c = false ∧ (fits ∨ waited)
    (¬ may → exec (.rampStart c) s = .next s) ∧
    (may → ∃ t, exec (.rampStart c) s = .next t ∧
      t.region c = { r with state := .ramping, rampDone := false, waitSince := none, rampStart := some s.stamp, rampCount := sat r.rampCount } ∧
      (¬ fits → t.pwr.status.getLsbD 4 = true) ∧ t = { s with pwr := t.pwr })) ∧
  (∀ (s : State) (c : CoreId),
    let r := s.region c
    ((∃ u, r.rampStart = some u ∧ s.now < u.toNat + 8000) ∨ r.state ≠ .ramping ∨ r.rampDone = true → exec (.rampComplete c) s = .next s) ∧
    (r.state = .ramping → r.rampDone = false → (∀ u, r.rampStart = some u → u.toNat + 8000 ≤ s.now) →
      ∃ t, exec (.rampComplete c) s = .next t ∧ t.region c = { r with rampDone := true } ∧ t = { s with pwr := t.pwr }) ∧
    (r.state ≠ .ramping ∨ r.rampDone = false → exec (.pllLock c) s = .next s) ∧
    (r.state = .ramping → r.rampDone = true →
      ∃ u : State, exec (.pllLock c) s = .next (((u.endSubst c).settleCore c).lookPark c) ∧ (u.region c).state = .on ∧ (u.region c).darkCause = 0 ∧
        u.core c = { s.core c with cycles := 0, aligned := true, slip := 0, slipArray := 0, holding := false, holdingArray := false } ∧
        (∀ d, d ≠ c.val → u.core d = s.core d ∧ u.region d = s.region d) ∧
        tget u.clk.lock (2 * c) false = true ∧ tget u.clk.lock (2 * c + 1) false = true ∧ u = { s with pwr := u.pwr, cores := u.cores, clk := u.clk })) ∧
  (∀ (s : State) (r : RegionId) (p q : W16) (target : Byte),
    let k := s.region r
    let stopped := s.thm.coolantStop = true ∧ 120 < r.val
    (s.gen.state = .reset ∨ s.sequencerUp = false → exec (.setpointUpdate r p q target) s = .next s) ∧
    (s.gen.state ≠ .reset → s.sequencerUp = true →
      ∃ t k', exec (.setpointUpdate r p q target) s = .next t ∧ t = s.setRegion r k' ∧ k'.proc0 = p ∧ k'.proc1 = q ∧
        (140 < target.toNat ∨ stopped → k'.target = k.target ∧ k'.setpoint = k.setpoint) ∧ (target.toNat ≤ 140 → ¬ stopped → k'.target = target) ∧
        (k'.setpoint.toNat ≤ k.setpoint.toNat + 1 ∧ k.setpoint.toNat ≤ k'.setpoint.toNat + 1) ∧
        (∀ u, k.setAt = some u → s.now < u.toNat + 10000 → k'.setpoint = k.setpoint) ∧
        (target.toNat ≤ 140 → ¬ stopped → k.setAt = none → k.setpoint.toNat < Nat.max k'.target.toNat (tget s.part.floors r 0).toNat → k'.setpoint = k.setpoint + 1) ∧
        (target.toNat ≤ 140 → ¬ stopped → k.setAt = none → Nat.max k'.target.toNat (tget s.part.floors r 0).toNat < k.setpoint.toNat → k'.setpoint = k.setpoint - 1) ∧
        k' = { k with proc0 := k'.proc0, proc1 := k'.proc1, target := k'.target, setpoint := k'.setpoint, setAt := k'.setAt })) ∧
  ∀ s : State,
    (s.gen.state = .reset ∨ s.gen.state = .recovery ∨ s.cxl.d3 = true → exec .lwReset s = .next s) ∧
    (s.gen.state ≠ .reset → s.gen.state ≠ .recovery → s.cxl.d3 = false →
      ∃ t, exec .lwReset s = .next t ∧ t.pwr.lwField = [] ∧ t.pwr.lwDev = {} ∧ (∀ r, t.region r = { s.region r with lw := {} }) ∧ t = { s with pwr := t.pwr })

/-- A lowered cap comes into force once the committed sum meets it and not before. At a tick of the hardware loop a core's loop fraction falls by one at most and its applied fraction is the larger of it and the core's floor, with what uniform mode adds; a core whose region is not ON is estimated at 0, one that a job binds at W_PEAK × 9/8 at most, scaled to no bubbles as well, and its activity is counted anew; TEMP and CURRENT are read. A trim moves by one at most in 1 ms, within 56 to 72. A run that measures above W_PEAK × 9/8 ends its item ABORTED with DETAIL 0x1003. At 95 °C firmware caps a field at 15/16 of its power, not below its fixed power, once every 100 ms, and darkens an unbound core; below 90 °C it raises the cap each 1 s, or removes it, and once the field has been below 85 °C for 1 s its dark regions return. The raise's first second counts from the last setting of the cap, the model's choice (log 129). Where the spec leaves a choice it takes the one of the model: log 55, 56, 102, 119, 122, 129. -/
def Obligations.CapsLoopsAndHeat : Prop :=
  (∀ (s : State) (sc : Scope),
    (s.capLower sc = false ∨ s.capMet sc = false → exec (.capLowerApply sc) s = .next s) ∧
    (s.capLower sc = true → s.capMet sc = true → ∃ t, exec (.capLowerApply sc) s = .next t ∧ t.capEff sc = s.capWant sc % 65536 ∧
      (∀ x, x ≠ sc → t.capEff x = s.capEff x) ∧ t = { s with thm := t.thm, alm := t.alm })) ∧
  (∀ (s : State) (temps : List Int) (currents : List Nat),
    (s.gen.state = .reset → exec (.hardwareLoopTick temps currents) s = .next s) ∧
    (s.gen.state ≠ .reset → ∃ t, exec (.hardwareLoopTick temps currents) s = .next t ∧ t = { s with pwr := t.pwr, thm := t.thm, cores := t.cores, lou := t.lou, fields := t.fields } ∧
      ∀ c < 120, let b := Nat.max (t.region c).loop (s.floorOf c)
        (s.region c).loop ≤ (t.region c).loop + 1 ∧ (t.region c).bubble = BitVec.ofNat 6 (b + s.uniformAdd c b) ∧
        ((s.region c).state ≠ .on → (t.region c).est = 0) ∧ (∀ w, s.corePeak c = some w → (t.region c).est.toNat ≤ w * 9 / 8 ∧ s.fullEstimate c ≤ w * 9 / 8) ∧
        (s.thm.capDevEff = 0 → s.thm.capFieldEff = [] → s.thm.capRegionEff = [] → (t.region c).loop = (s.region c).loop - 1) ∧
        (t.region c).temp = BitVec.ofInt 16 ((s.region c).hot (temps.getD c 0)) ∧ (t.region c).current = BitVec.ofNat 16 (currents.getD c 0) ∧
        t.core c = { s.core c with act := {} } ∧
        t.region c = { s.region c with est := (t.region c).est, loop := (t.region c).loop, bubble := (t.region c).bubble, floor := (t.region c).floor,
                                       temp := (t.region c).temp, current := (t.region c).current, coolSince := (t.region c).coolSince })) ∧
  (∀ (s : State) (r : RegionId) (i : W16),
    (s.gen.state = .reset → exec (.trimUpdate r i) s = .next s) ∧
    (s.gen.state ≠ .reset → ∃ x u, exec (.trimUpdate r i) s = .next (s.setRegion r { s.region r with current := i, trim := x, trimAt := u }) ∧
      ((∃ v, (s.region r).trimAt = some v ∧ s.stamp.toNat < v.toNat + 1000000) → x = (s.region r).trim) ∧
      (x.toNat ≤ (s.region r).trim.toNat + 1 ∧ (s.region r).trim.toNat ≤ x.toNat + 1) ∧
      (56 ≤ (s.region r).trim.toNat → (s.region r).trim.toNat ≤ 72 → 56 ≤ x.toNat ∧ x.toNat ≤ 72) ∧
      (120 ≤ r.val ∨ s.sequencerUp = false ∨ s.thm.cfg.getLsbD 0 = true → x = (s.region r).trim))) ∧
  (∀ (s : State) (c : CoreId) (w measured : Nat) (r : Run) (i : Item), (s.core c).run = some r → s.corePeak c = some w → s.item? r.work = some i → i.status = none →
    (8 * measured ≤ 9 * w → exec (.powerHalt c measured) s = .next s) ∧
    (9 * w < 8 * measured → ∃ t j, exec (.powerHalt c measured) s = .next t ∧ t.item? r.work = some j ∧ j.status = some (0x20, 0x1003) ∧
      t.thm = { s.thm with status := setFlag s.thm.status 6, halts := sat s.thm.halts } ∧ t.alm.overrunCount = sat s.alm.overrunCount)) ∧
  (∀ (s : State) (f : FieldId) (deg measured : Nat),
    let hot := s.fieldHot f deg
    let runs := s.gen.state ≠ .reset ∧ s.sequencerUp = true
    (¬ runs ∨ hot < 95 → exec (.heatThrottle f deg measured) s = .next s) ∧
    (runs → 95 ≤ hot → s.heatDue f 100000000 = false → exec (.heatThrottle f deg measured) s = .next (s.seeField f hot)) ∧
    (runs → 95 ≤ hot → s.heatDue f 100000000 = true →
      ∃ t, exec (.heatThrottle f deg measured) s = .next t ∧
        t.field f = { s.field f with coolSince := none, heatAt := some s.stamp, heatCap := BitVec.ofNat 16 (min (Nat.max (measured * 15 / 16) (s.fieldFixed f)) 65535) } ∧
        (∀ g, g ≠ f.val → t.field g = s.field g) ∧ t.thm.status.getLsbD 2 = true ∧ t = { s with fields := t.fields, thm := t.thm, alm := t.alm }) ∧
    (¬ runs ∨ 90 ≤ hot → exec (.heatRelease f deg) s = .next s) ∧
    (runs → hot < 90 →
      let h := (s.field f).heatCap
      let u := s.seeField f hot
      let back := decide (hot < 85) && s.cooledFor (s.field f).coolSince 1000000000 && !s.thm.coolantStop
      (h = 0 ∨ s.heatDue f 1000000000 = false → exec (.heatRelease f deg) s = .next (if back then u.releaseDark f else u)) ∧
      (h ≠ 0 → s.heatDue f 1000000000 = true → ∃ w, (w = 0 ∨ w = h.toNat + Nat.max 1 (h.toNat / 16)) ∧
        exec (.heatRelease f deg) s = .next (if back then (u.setHeat f w).releaseDark f else u.setHeat f w)))) ∧
  ∀ (s : State) (c : CoreId) (deg : Nat),
    let r := s.region c
    let may := s.sequencerUp = true ∧ (95 ≤ deg ∨ r.sensorFailed ≠ []) ∧ s.thm.coolantStop = false ∧ s.coreBound c = false
    let dark := r.state = .retention ∨ (r.state = .waiting ∧ r.waitSince = some s.stamp ∧ r.subst = none)
    (¬ may ∨ (r.state ≠ .on ∧ ¬ dark) → exec (.heatDark c deg) s = .next s) ∧
    (may → r.state = .on → ∃ t, exec (.heatDark c deg) s = .next t ∧ (t.region c).heat = true ∧ (t.region c).state = .on ∧ t.thm.status.getLsbD 3 = true ∧
      t = { s with pwr := t.pwr, thm := t.thm }) ∧
    (may → dark → exec (.heatDark c deg) s = .next { s.setRegion c { r with heat := true, state := .retention, darkCause := 2, waitSince := none } with
      thm.status := setFlag s.thm.status 3 })

/-- A trip needs two samples of 105 °C or more: the region is tripped and counted, and every item with a run in progress there ends. A trip's end clears it once the region has read below 95 °C for 10 ms, which one with a failed sensor never does, as that reads 125 °C. Memory devices trip above 95 °C and leave self-refresh after 10 ms below 85 °C. Loss of COOLANT_OK in a started device ends every item, stops the device, darkens its cores, stops the other fields' clocks, sets their setpoints on their way to the floor, puts the memories into self-refresh and takes its links OFF; its return alone restarts nothing of a device that does not wait for it. Where the spec leaves a choice it takes the one of the model: log 28, 120. -/
def Obligations.TripsAndCoolantStops : Prop :=
  (∀ (s : State) (r : RegionId) (a b : Nat),
    let x := (s.region r).hot a
    let y := (s.region r).hot b
    let may := s.gen.state ≠ .reset ∧ 420 ≤ x ∧ 420 ≤ y ∧ (s.region r).tripped = false
    (¬ may → exec (.trip r a b) s = .next s) ∧
    (may → ∃ t, exec (.trip r a b) s = .next t ∧ t.region r = { s.region r with tripped := true, temp := BitVec.ofInt 16 (max x y), coolSince := none } ∧
      t.thm.trips = sat s.thm.trips ∧ t.thm.status.getLsbD 4 = true ∧ t.mem = s.mem ∧
      ∀ i, s.item? i.tag = some i → i.status = none →
        (r.val < 120 → s.itemOn (fun c => c == r.val) (fun _ => false) i = true → ∃ j, t.item? i.tag = some j ∧ j.status.isSome = true) ∧
        (120 ≤ r.val → s.itemOn (fun c => coreField c == r.val - 120) (fun f => f == r.val - 120) i = true → ∃ j, t.item? i.tag = some j ∧ j.status.isSome = true)) ∧
    let cool := (s.region r).sensorFailed = [] ∧ ∃ u, (s.region r).coolSince = some u ∧ u.toNat + 10000000 ≤ s.stamp.toNat
    (cool → exec (.tripEnd r) s = .next (s.setRegion r { s.region r with tripped := false })) ∧
    (¬ cool → exec (.tripEnd r) s = .next s)) ∧
  (∀ (s : State) (m : MemDev) (q : Nat),
    (s.gen.state = .reset ∨ q ≤ 380 ∨ s.memTripped m = true → exec (.memTrip m q) s = .next s) ∧
    (s.gen.state ≠ .reset → 380 < q → s.memTripped m = false →
      ∃ t, exec (.memTrip m q) s = .next t ∧ t.memTripped m = true ∧ (∀ x, x ≠ m → t.memTripped x = s.memTripped x) ∧
        t.thm.memTrips = sat s.thm.memTrips ∧ t = { s with thm := t.thm }) ∧
    (s.gen.state = .reset ∨ s.memTripped m = false → exec (.memTripEnd m q) s = .next s) ∧
    (s.gen.state ≠ .reset → s.memTripped m = true →
      let cool := q < 340 ∧ ∃ u, tget? s.thm.memCool (devKey m) = some u ∧ u.toNat + 10000000 ≤ s.stamp.toNat
      ∃ t, exec (.memTripEnd m q) s = .next t ∧ t = { s with thm := t.thm } ∧ (∀ x, x ≠ m → t.memTripped x = s.memTripped x) ∧
        (cool → t.memTripped m = false) ∧ (¬ cool → t.memTripped m = true) ∧
        (340 ≤ q → tget? t.thm.memCool (devKey m) = none) ∧
        (q < 340 → ¬ cool → tget? t.thm.memCool (devKey m) = some ((tget? s.thm.memCool (devKey m)).getD s.stamp)))) ∧
  (∀ (s : State) (r : RegionId) (x : Fin 8),
    let many := if r.val < 120 then 4 else 8
    (s.gen.state = .reset ∨ many ≤ x.val ∨ x.val ∈ (s.region r).sensorFailed → exec (.thermalSensorFailed r x) s = .next s) ∧
    (s.gen.state ≠ .reset → x.val < many → x.val ∉ (s.region r).sensorFailed →
      ∃ t, exec (.thermalSensorFailed r x) s = .next t ∧ t.region r = { s.region r with sensorFailed := (s.region r).sensorFailed ++ [x.val], temp := BitVec.ofInt 16 (max 500 (signed 16 (s.region r).temp.toNat)), coolSince := none } ∧
        500 ≤ t.fieldReading (regionField r) ∧ tget t.thm.fieldTemp (regionField r) 0 = BitVec.ofNat 8 (t.fieldReading (regionField r) / 4).toNat ∧
        t = { s with pwr := t.pwr, thm := t.thm, fields := t.fields, mgmt := t.mgmt, out := t.out })) ∧
  ∀ s : State,
    (s.thm.coolantStop = true ∨ s.regulated = false → exec .coolantOkStop s = .next { s with thm.coolantOk := false }) ∧
    (s.thm.coolantStop = false → s.regulated = true →
      ∃ t, exec .coolantOkStop s = .next t ∧ t.thm.coolantStop = true ∧ t.thm.coolantOk = false ∧ t.gen.stopCoolant = true ∧ t.cxl.selfRefresh = true ∧
        (∀ c < 120, (t.region c).state ≠ .on ∧ (t.region c).state ≠ .ramping) ∧ (∀ l < 6, (t.link l).state = .off) ∧
        (∀ f < 12, 1 ≤ f → tget t.clk.lock (240 + f) false = false ∧ (t.region (120 + f)).setpoint = (s.region (120 + f)).setpoint ∧
          (t.region (120 + f)).target = tget s.part.floors (120 + f) 0) ∧ (s.gen.state = .ready → t.gen.state = .stopped) ∧ t.mem = s.mem ∧ t.jobs = s.jobs ∧
        ∀ i, s.item? i.tag = some i → i.status = none → ∃ j d, t.item? i.tag = some j ∧ j.status = some (0x33, d)) ∧
    (s.gen.state = .reset → exec .coolantAssert s = .next s) ∧
    (s.gen.state ≠ .reset → exec .coolantAssert s = .next ({ s with thm.coolantOk := true } : State).resume ∧
      (s.gen.bringup = none → exec .coolantAssert s = .next { s with thm.coolantOk := true }))

/-- Loss of reference puts the device into HOLDOVER, counts and stops admission; its return starts pull-in at once unless MANUAL_RELOCK holds it back, and RELOCK starts it from HOLDOVER with the reference valid, and is flagged otherwise. Pull-in's end locks; a core both of whose crossings have slipped within 3 entries keeps its slip, stretch slip counting as well, and one beyond is realigned within 2 µs, its queues emptied, and keeps its scratchpad, planes, bank and vector registers; admission resumes when the last is. A field's count, compared with the master's after its path delay, is slewed within 16 ns, else it steps forward or holds until the master reaches it; half a round trip is its path delay. A control beat is asked for again and counted; where its second copy fails too, a strand's message ends its items and rebinds the strand. Where the spec leaves a choice it takes the one of the model: log 77, 78, 103, 125. -/
def Obligations.ReferenceCalendarAndBeats : Prop :=
  (∀ s : State,
    (s.gen.state = .reset ∨ (s.clk.ref = .holdover ∧ s.clk.refValid = false) → exec .referenceLoss s = .next { s with pins.refBad := true }) ∧
    (s.gen.state ≠ .reset → ¬ (s.clk.ref = .holdover ∧ s.clk.refValid = false) →
      ∃ t, exec .referenceLoss s = .next t ∧ t.clk = { s.clk with ref := .holdover, refValid := false, refLoss := sat s.clk.refLoss, status := setFlag s.clk.status 2 } ∧
        t.alm = { s.alm with holdover := true } ∧ t.cores = s.cores ∧ t.jobs = s.jobs ∧ t.strands = s.strands ∧ t.mem = s.mem) ∧
    (s.gen.state ≠ .reset ∨ s.gen.bringup = none →
      (s.clk.ref = .holdover ∧ s.clk.refValid = false → exec .referenceValid s =
        .next { s with pins.refBad := false, clk.refValid := true, clk.ref := if s.clk.cfg.getLsbD 0 then .holdover else .pullIn }) ∧
      (¬ (s.clk.ref = .holdover ∧ s.clk.refValid = false) → exec .referenceValid s = .next { s with pins.refBad := false })) ∧
    (∀ b, s.gen.state = .reset → s.gen.bringup = some b → s.clk.ref ≠ .holdover →
      exec .referenceValid s = .next (State.leaveReset { s with pins.refBad := false } b)) ∧
    (s.gen.state ≠ .reset → s.gen.state ≠ .recovery → s.cxl.d3 = false →
      (s.clk.ref = .holdover → s.clk.refValid = true → exec .relock s = .next { s with clk.ref := .pullIn }) ∧
      (s.clk.ref ≠ .holdover ∨ s.clk.refValid = false → exec .relock s = .next { s with clk.status := setFlag s.clk.status 1 }))) ∧
  (∀ s : State,
    (s.clk.ref ≠ .pullIn → ∀ l, exec (.pullInEnd l) s = .next s) ∧
    (s.clk.ref = .pullIn → s.gen.bringup = none → ∀ shifts : List (CoreId × Int × Int),
      let shift := fun (c : Nat) => ((shifts.find? (fun x => x.1.val == c)).map (·.2)).getD (0, 0)
      let judged := fun (c : Nat) => (s.core c).aligned = true ∧ (s.core c).realigning = false
      let near := fun (c : Nat) => ((s.core c).slip + 2 * (shift c).1).natAbs ≤ 6 ∧ ((s.core c).slipArray + 2 * (shift c).2).natAbs ≤ 6
      let far := fun (c : Nat) => judged c ∧ ¬ near c
      ∃ t, exec (.pullInEnd shifts) s = .next t ∧ t.clk.ref = .locked ∧ t.mem = s.mem ∧ t.clk.realign = s.clk.realign ∧
        (∀ c < 120, (judged c → near c → (t.core c).slip = (s.core c).slip + 2 * (shift c).1 ∧ (t.core c).slipArray = (s.core c).slipArray + 2 * (shift c).2) ∧
          (far c → (t.core c).realigning = true ∧ (t.core c).passes = [] ∧ (t.core c).arrQ = [] ∧ (t.core c).dmaQ = []) ∧
          (t.core c).spad = (s.core c).spad ∧ (t.core c).plane0 = (s.core c).plane0 ∧ (t.core c).plane1 = (s.core c).plane1 ∧ (t.core c).bank = (s.core c).bank ∧
          (t.core c).vregs = (s.core c).vregs) ∧
        (s.clk.realigning = true ∨ (∃ c < 120, far c) → t.clk.realigning = true ∧ t.alm.holdover = s.alm.holdover ∧ ∃ n ≤ 2000, t.clk.realignEnd = t.stamp + BitVec.ofNat 64 n) ∧
        (s.clk.realigning = false → (∀ c < 120, ¬ far c) → t.clk.status.getLsbD 3 = true ∧ t.alm.holdover = false ∧ t.clk.realigning = false))) ∧
  (∀ s : State, let t := s.endRealign
    (∀ c, ((s.core c).realigning = true → (t.core c).aligned = true ∧ (t.core c).slip = 0 ∧ (t.core c).slipArray = 0 ∧ (t.core c).realigning = false ∧
        (t.core c).spad = (s.core c).spad ∧ (t.core c).bank = (s.core c).bank) ∧ ((s.core c).realigning = false → t.core c = s.core c)) ∧
    t.clk.realigning = false ∧ (s.clk.ref = .locked → t.alm.holdover = false ∧ t.clk.status.getLsbD 3 = true) ∧
    (s.clk.ref ≠ .locked → t.alm.holdover = s.alm.holdover)) ∧
  (∀ (s : State) (f : FieldId) (travel : Nat), s.gen.state ≠ .reset →
    let k := s.field f
    let d : Int := k.calDiff + travel - k.pathDelay
    let k0 : FieldSt := { k with calOff := max (-128) (min d 127) }
    let flagged := { s with clk.status := setFlag s.clk.status 7 }
    (k.slewPhase = 64 → exec (.calendarSync f travel) s = .next (s.setField f k0)) ∧
    (k.slewPhase ≠ 64 → d.natAbs ≤ 16 → exec (.calendarSync f travel) s = .next (s.setField f { k0 with slew := -d })) ∧
    (k.slewPhase ≠ 64 → d < -16 → exec (.calendarSync f travel) s = .next (flagged.setField f { k0 with calDiff := k.calDiff - d, slew := 0, slewPhase := 0 })) ∧
    (k.slewPhase ≠ 64 → 16 < d → exec (.calendarSync f travel) s = .next (flagged.setField f { k0 with slew := 0, slewPhase := 64 }))) ∧
  (∀ (s : State) (trips : List Nat), s.gen.state ≠ .reset →
    ∃ t, exec (.pathDelayMeasure trips) s = .next t ∧ t = { s with fields := t.fields } ∧
      ∀ f < 12, (∀ x, trips[f]? = some x → t.field f = { s.field f with pathDelay := x / 2 }) ∧ (trips[f]? = none → t.field f = s.field f)) ∧
  ∀ (s : State) (l : Fin 16) (dir : Bool) (det : FieldId) (cargo : BeatCargo), s.gen.state ≠ .reset →
    exec (.ctrlResend l dir det false cargo) s = .next { s with clk.ctrlResend := sat s.clk.ctrlResend } ∧
    ((∀ n ws, cargo ≠ .strandMsg n ws) → (∀ ws, cargo ≠ .eventSignal ws) →
      ∃ t, exec (.ctrlResend l dir det true cargo) s = .next t ∧
        t.clk = { s.clk with ctrlResend := sat s.clk.ctrlResend, status := setFlag s.clk.status 8 } ∧ t = { s with clk := t.clk, mgmt := t.mgmt, out := t.out }) ∧
    (∀ n ws, cargo = .strandMsg n ws → ∃ u : State, u.clk = { s.clk with ctrlResend := sat s.clk.ctrlResend, status := setFlag s.clk.status 8 } ∧
      exec (.ctrlResend l dir det true cargo) s = .next ((ws.foldl (fun (v : State) w => v.killItem w 0x32 (0x7300 + det)) u).rebindStrand n)) ∧
    (∀ ws, cargo = .eventSignal ws → ∃ u : State, u.clk = { s.clk with ctrlResend := sat s.clk.ctrlResend, status := setFlag s.clk.status 8 } ∧
      exec (.ctrlResend l dir det true cargo) s = .next (ws.foldl (fun (v : State) w => v.killItem w 0x32 (0x7300 + det)) u))

/-! ## Clasp -/

/-- A link that carries nothing ignores blocks, timeouts and loss. A block that fails its CRC or TYPE, or is out of order, is not taken: the next block sent carries NAK and the BSEQ expected, and only the first counts in CRC_FAIL, its bad lanes being charged. A block in order takes its BSEQ, its ACK drops acknowledged blocks from the replay buffer, and its NAK has the rest sent again; the DATA block that is a whole tile of a channel ending here puts it in flight on its strand, and one of a channel in transit is queued on the other hop. After 1 µs without progress of ACK every block of the replay buffer is sent again. A lane fault is counted and recorded for its lane. A link that meets a condition of R399 is declared down: it counts it, loses its stream and carries nothing. A link that is DOWN retrains, at once or 1 s after a retraining that failed, sending its neighbour record; trained over 150 ns it stays OFF; with its neighbour of before and every lane it is UP, with another HELD, and with no lane accepted it is DOWN again. Where the spec leaves a choice it takes the one of the model: log 12, 49, 50, 126. -/
def Obligations.BlocksAreAcceptedInOrderAndLinksRetrain : Prop :=
  (∀ (s : State) (l : LinkId) (bs : List Byte) (par : W32) (poison : List Nat),
    let k := s.link l
    let inOrder := BitVec.ofNat 16 (fld bs 2 2) = k.rxNext
    let type := fld bs 0 1 % 16
    let ack : W16 := BitVec.ofNat 16 (fld bs 4 2)
    let bad (n : Nat) : Prop := n ∈ k.lanes ∧ (fld bs 8 4).testBit n ≠ par.getLsbD n
    let errs (n : Nat) := (tget k.laneErr n []).filter (fun t => decide (s.now < t.toNat + 1000000000))
    let taken := ({ k with rxNext := k.rxNext + 1, rxAt := s.now, ackDue := k.ackDue || decide (type ≠ 0) } : LinkSt).takeAck ack s.now
    (k.serves = false → exec (.claspBlockReceive l bs par poison) s = .next s) ∧
    (k.serves = true → blockGood bs = true → ¬ inOrder ∨ type = 5 →
      exec (.claspBlockReceive l bs par poison) s = .next (s.setLink l { k with nakNext := true, ackDue := true })) ∧
    (k.serves = true → blockGood bs = false → k.lanes.Nodup → (∀ n, bad n → (errs n).length < 63) →
      ∃ x, exec (.claspBlockReceive l bs par poison) s =
        .next (s.setLink l { k with crcFail := k.crcFail + 1, nakNext := true, ackDue := true, laneErr := x }) ∧
        ∀ n, (bad n → tget x n [] = s.stamp :: errs n) ∧ (¬ bad n → tget x n [] = tget k.laneErr n [])) ∧
    (taken.rxNext = k.rxNext + 1 ∧
      ((ack - k.txAcked).toNat ≤ k.replay.length → taken.replay = k.replay.drop (ack - k.txAcked).toNat ∧ taken.txAcked = ack) ∧
      (k.replay.length < (ack - k.txAcked).toNat → taken.replay = k.replay ∧ taken.txAcked = k.txAcked)) ∧
    (k.serves = true → blockGood bs = true → inOrder → (type ≠ 1 ∧ type ≠ 2 ∧ type ≠ 5) ∨ (k.carries = false ∧ type ≠ 5) →
      ((fld bs 0 1).testBit 4 = false → exec (.claspBlockReceive l bs par poison) s = .next (s.setLink l taken)) ∧
      ((fld bs 0 1).testBit 4 = true → exec (.claspBlockReceive l bs par poison) s = .next ((s.setLink l taken).goBack l))) ∧
    (∀ ch c, k.carries = true → blockGood bs = true → inOrder → type = 1 → (fld bs 0 1).testBit 4 = false →
      k.inCh.find? (fun c => c.1 == fld bs 6 2 % 256) = some (ch, c) →
      let payload := cut bs 12 (min 240 (fld bs 1 1))
      (∀ x, c.other = none → (fld bs 6 2).testBit 8 = true → (fld bs 6 2).testBit 9 = true → s.strand? c.strand = some x →
        ∃ t, exec (.claspBlockReceive l bs par poison) s = .next t ∧ (t.link l).rxNext = k.rxNext + 1 ∧
          t.strand? c.strand = some { x with flight := x.flight ++ [{ tileOfBytes (payload.take 32) (payload.drop 32) with
            strand := c.strand, poison := (poison.filter (fun w => decide (4 ≤ w))).map (· - 4) }] } ∧
          t = { s with cls := t.cls, strands := t.strands }) ∧
      (∀ m out, c.other = some (m, out) → (s.link m).carries = true → ∃ u : State, u = { s with cls := u.cls, clk := u.clk } ∧ u.link l = taken ∧
        exec (.claspBlockReceive l bs par poison) s = .next (u.queueBlock m {
          type := 1, channel := out + (if (fld bs 6 2).testBit 8 then 256 else 0) + (if (fld bs 6 2).testBit 9 then 512 else 0), payload := payload, poison := poison })))) ∧
  (∀ (s : State) (l : LinkId),
    let k := s.link l
    let due := k.serves = true ∧ k.replay ≠ [] ∧ k.ackAt + 1000 ≤ s.now
    (¬ due → exec (.ackTimeout l) s = .next s) ∧
    (due → ∃ t, exec (.ackTimeout l) s = .next t ∧ t.out = (k.replay.map (fun b => Output.claspBlock l b.1 b.2)).reverse ++ s.out ∧
      t.link l = { k with episode := some (k.episode.getD s.now), episodes := if k.episode.isSome then k.episodes else sat k.episodes,
                          sends := k.sends.map (· + 1), ackAt := s.now } ∧
      (∀ m, m ≠ l.val → t.link m = s.link m) ∧ t = { s with cls := t.cls, out := t.out })) ∧
  (∀ (s : State) (l : LinkId) (n : Fin 32),
    (n.val ∉ (s.link l).lanes → exec (.laneFault l n) s = .next s) ∧
    (n.val ∈ (s.link l).lanes → ∃ u : State, exec (.laneFault l n) s = .next (u.retirePairs l) ∧ (u.link l).laneFaults = sat (s.link l).laneFaults ∧
      tget (u.link l).laneErr n [] = [] ∧ u.cls.status.getLsbD 2 = true ∧ (s.heirloom.length < 16384 → (u.heir? 4 (laneIndex l n)).isSome = true) ∧
      u = { s with cls := u.cls, heirloom := u.heirloom, hwQueue := u.hwQueue, hwCounts := u.hwCounts })) ∧
  (∀ (s : State) (l : LinkId) (excess : Bool),
    let k := s.link l
    let fails := if excess then k.retryExcess s.now else k.failed s.now
    (k.serves = false ∨ fails = false → exec (.linkDownDeclare l excess) s = .next s) ∧
    (k.serves = true → fails = true → ∃ t, exec (.linkDownDeclare l excess) s = .next t ∧ (t.link l).state = .down ∧ (t.link l).replay = [] ∧
      (t.link l).lanes = [] ∧ (t.link l).downs = sat k.downs ∧ t.cls.status.getLsbD 1 = true ∧ (excess = true → t.cls.status.getLsbD 3 = true) ∧
      t.mem = s.mem ∧ t.part = s.part) ∧
    (k.failed s.now = true ↔ (∃ n ∈ k.sends, 4 ≤ n) ∨ (∃ t, k.episode = some t ∧ t + 3000 ≤ s.now) ∨ k.rxAt + 3000 ≤ s.now)) ∧
  (∀ (s : State) (l : LinkId) (lanes : List (Fin 32)) (delay : Nat) (nbr : Option Neighbour) (band : Fin 4) (ff : Bool),
    let k := s.link l
    let waits := ∃ t, k.failedAt = some t ∧ s.now < t + 1000000000
    (s.linkOffCause l ≠ 0 ∨ (k.state ≠ .down ∧ k.state ≠ .training) ∨ (k.state = .down ∧ waits) → exec (.linkRetrain l lanes delay nbr band ff) s = .next s) ∧
    (k.state = .down → s.linkOffCause l = 0 → ¬ waits → s.pairsDue l = [] →
      exec (.linkRetrain l lanes delay nbr band ff) s = .next ((s.beginTraining l).linkChanged) ∧ ((s.beginTraining l).link l).state = .training ∧
      ∃ bs, (s.beginTraining l).out = .claspBlock l bs [] ::
        .trainId l { serial := s.part.serial, straps := s.gen.straps, link := l, cl := s.gen.cl, epoch := s.cls.epoch } :: s.out) ∧
    (k.state = .training → s.linkOffCause l = 0 →
      exec (.linkRetrain l lanes delay nbr band ff) s = .next (((s.trainSaved l (lanes.map (·.val)) delay nbr band ff).1.retirePairs l).linkChanged))) ∧
  (∀ (s : State) (l : LinkId) (delay band : Nat) (n : Neighbour) (ff : Bool),
    let k := s.link l
    let id := some (n.serial, n.link)
    let after (ls : List Nat) : State := (s.trainSaved l ls delay (some n) band ff).1
    ((after []).link l).state = .down ∧ ((after []).link l).failedAt = some s.now ∧
    (150 < delay → k.pairsOut.length ≤ 4 → ((after (List.range 32)).link l).state = .off ∧ ((after (List.range 32)).link l).offCause = 3) ∧
    (delay ≤ 150 → k.pairsOut = [] → k.lastUp = none ∨ k.lastUp = id → let u := after (List.range 32)
      (u.link l).state = .up ∧ (u.link l).lanes = List.range 32 ∧ (u.link l).nbr = some n ∧ (u.link l).lastUp = id ∧ (u.link l).txNext = 0 ∧ (u.link l).rxNext = 0 ∧
      (s.hasSaved band (36 + l) (n.serial, n.link) = false ∨ ff = true → u.hasSaved band (36 + l) (n.serial, n.link) = true)) ∧
    (delay ≤ 150 → k.pairsOut.length ≤ 4 → ∀ x, k.lastUp = some x → k.lastUp ≠ id → let u := after (List.range 32)
      (u.link l).state = .held ∧ (u.link l).lastUp = some x ∧ u.cls.status.getLsbD 4 = true)) ∧
  ∀ (s : State) (l : LinkId) (n : Neighbour),
    ((s.link l).state ≠ .training → exec (.trainId l n) s = .next s) ∧
    ((s.link l).state = .training → exec (.trainId l n) s = .next (s.setLink l { s.link l with nbr := some n }))

/-- The origin of an unbound cross-module strand of a committed job whose cores are in place reserves a channel on its route's first link and sends BIND, or records a refusal; a retry does the same, 10 ms after the last try. The destination binds when its entry agrees, its job is committed and its cores are in place, a channel is free and what the source's member count needs fits, and answers BOUND with the route's hops; otherwise it refuses. BOUND and a refusal pass back through a module in transit; BOUND gives the origin a credit for every slot, a refusal frees the reservation, and one because a link is not in service has the alternate route tried on the axis of that link. RELEASE frees a channel in transit, or unbinds the strand that ends here, whose items end ABORTED. LINK_DOWN passes on along its channel, or around its axis until it comes to the far side of the failed link; at the strand's end it ends its items FAULT_LINK, as a transport timeout does, and one for a route that the strand has left is ignored. RESYNC sets the SEQ expected of every member and is answered with the free slots. (The member counts that BIND and BOUND carry are the model's choice, log 92.) Where the spec leaves a choice it takes the one of the model: log 44, 47, 48, 92. -/
def Obligations.ChannelsBindReleaseAndResync : Prop :=
  (∀ (s : State) (n : StrandId) (m : BindMsg) (k : StrandSt) (j : JobSt) (p : Placement) (l : Nat) (way : List Nat),
    s.strand? n = some k → k.bound = false → k.reroute = false → k.entry.place = .toPeer → s.job? k.job = some j → j.phase = .committed →
    s.coresPlaced k = true → s.ownChannel n true = none → s.cls.place = some p → strandRoute p k.entry none = l :: way →
    let begun (t : State) := t.strand? n = some { k with tried := some s.now, bound := false, binding := true, altRoute := none } ∧
      t.out = .claspBind l { entry := k.entry, origin := p.coord, alt := none, members := s.srcCount k, again := false } :: s.out ∧
      (∃ w, t.link l = { (s.link l).reserveOut { strand := n, origin := p.coord, rate := k.entry.rate } with waiting := (s.link l).waiting ++ [w] } ∧ w.type = 3) ∧
      (∀ x, x ≠ l → t.link x = s.link x) ∧ (∀ x, x ≠ n.val → t.strand? x = s.strand? x) ∧ t = { s with strands := t.strands, cls := t.cls, out := t.out }
    let refused (t : State) := (∃ k', t.strand? n = some k' ∧ k'.bound = false) ∧ t.cls.bindFails = sat s.cls.bindFails ∧ t.cls.status.getLsbD 5 = true ∧
      (∀ x, t.link x = s.link x) ∧ t.jobs = s.jobs ∧ t.mem = s.mem
    (k.mayTry s.now = false → exec (.bindRetry n) s = .next s ∧ (m.entry.strand = n.val → exec (.clsBind none m) s = .next s)) ∧
    (k.mayTry s.now = true → s.channelFault l k.entry.rate = none → (∃ t, exec (.bindRetry n) s = .next t ∧ begun t) ∧
      (m.entry.strand = n.val → k.altRoute = none → ∃ t, exec (.clsBind none m) s = .next t ∧ begun t)) ∧
    (∀ why, k.mayTry s.now = true → s.channelFault l k.entry.rate = some why → why ≠ .notInService → (∃ t, exec (.bindRetry n) s = .next t ∧ refused t) ∧
      (m.entry.strand = n.val → k.altRoute = none → ∃ t, exec (.clsBind none m) s = .next t ∧ refused t))) ∧
  (∀ (s : State) (n : StrandId) (k : StrandSt), s.strand? n = some k →
    (k.bound = true ∨ (s.ownChannel n true).isSome = true → exec (.bindRetry n) s = .next s) ∧
    ∀ m : BindMsg, m.entry.strand = n.val → k.bound = true ∨ (s.ownChannel n true).isSome = true ∨ s.coresPlaced k = false → exec (.clsBind none m) s = .next s) ∧
  (∀ (s : State) (l : LinkId) (m : BindMsg) (p : Placement) (k : StrandSt), (s.link l).serves = true → s.cls.place = some p → m.entry.peer = p.coord →
    s.strand? m.entry.strand = some k →
    let n := m.entry.strand
    let hops := (claspRoute p m.origin p.coord m.alt).length
    let fault := s.membersFault { k with altRoute := m.alt } m.members
    let ready := entriesAgree k.entry m p.coord = true ∧ s.jobBinds k = true ∧ s.coresPlaced k = true
    let free := (freeChannel ((s.dropChannel n).link l).inCh).isSome
    let refused (why : BindReason) := ∃ t o, exec (.clsBind (some l) m) s = .next t ∧ t.out = .claspBound l (.refused n why (l / 2)) :: o ∧
      t.strands = s.strands ∧ (∀ x, (t.link x).outCh = (s.link x).outCh ∧ (t.link x).inCh = (s.link x).inCh) ∧ t.cls.bindFails = sat s.cls.bindFails
    (ready → free = true → fault = none → ∃ t x o, exec (.clsBind (some l) m) s = .next t ∧
      t.out = .claspBound l (.bound n hops (s.dstCount x)) :: o ∧
      t.strand? n = some x ∧ x.bound = true ∧ x.binding = false ∧ x.hops = hops ∧ x.entry = k.entry ∧ x.members = m.members ∧ x.altRoute = m.alt ∧
      (m.again = false → x.slots = [] ∧ x.expSeq = []) ∧ (m.again = true → x.slots = k.slots ∧ x.expSeq = k.expSeq) ∧
      (t.link l).owns n = true ∧ t.mem = s.mem) ∧
    (¬ ready → refused .disagreement) ∧ (ready → free = false → refused .noChannel) ∧
    (ready → free = true → ∀ why, fault = some why → refused why)) ∧
  (∀ (s : State) (l : LinkId) (m out : Nat) (n hops count axis : Nat) (why : BindReason), (s.link l).serves = true → (s.link l).transitOf n = some (m, out) →
    exec (.clsBound l (.bound n hops count)) s = .next (s.putOn m 3 (.claspBound m (.bound n hops count))) ∧
    ∃ u : State, exec (.clsBound l (.refused n why axis)) s = .next (u.putOn m 3 (.claspBound m (.refused n why axis))) ∧ (u.link l).transitOf n = none ∧
      (u.link m).transitOf n = none ∧ u = { s with cls := u.cls }) ∧
  (∀ (s : State) (l m : Nat) (o : Output), let k := s.link l
    (k.serves = false → s.putOn l m o = s) ∧
    (k.serves = true → ∃ w, s.putOn l m o = (s.setLink l { k with waiting := k.waiting ++ [w] }).put o ∧ w.type = m)) ∧
  (∀ (s : State) (l : LinkId) (n hops count axis : Nat) (k : StrandSt), (s.link l).serves = true → (s.link l).transitOf n = none → (s.link l).owns n = true →
    s.strand? n = some k → k.binding = true → k.entry.place = .toPeer →
    (s.jobBinds k = false → exec (.clsBound l (.bound n hops count)) s = .next (s.dropChannel n)) ∧
    (s.jobBinds k = true → k.reroute = false → ∃ t x, exec (.clsBound l (.bound n hops count)) s = .next t ∧ t.strand? n = some x ∧ x.bound = true ∧
      x.binding = false ∧ x.hops = hops ∧ x.members = count ∧ x.altRoute = k.altRoute ∧
      x.nextSeq = [] ∧ (∀ g < s.groups x, tget x.credits g 0 = k.entry.depth) ∧ t = { s with strands := t.strands, jobs := t.jobs }) ∧
    (s.jobBinds k = true → k.reroute = true → ∃ t x q, exec (.clsBound l (.bound n hops count)) s = .next t ∧ t.strand? n = some x ∧ x.bound = true ∧
      x.credits = [] ∧ x.unacked = [] ∧ (∀ m < s.srcCount x, tget? x.nextSeq m = some q) ∧
      t.out = .claspResync l n q :: s.out ∧ t.cls.resyncs = sat s.cls.resyncs) ∧
    (∀ why, why ≠ .notInService → ∃ t, exec (.clsBound l (.refused n why axis)) s = .next t ∧ t.link l = (s.link l).dropStrand n (fun c => c.other.isNone) ∧
      t.cls.bindFails = sat s.cls.bindFails ∧ t.cls.status.getLsbD 5 = true ∧ t = { s with strands := t.strands, cls := t.cls }) ∧
    (∀ p, s.cls.place = some p → k.altRoute = none → Placement.wraps p axis = true → ∃ u : State,
      exec (.clsBound l (.refused n .notInService axis)) s = .next ((u.setStrand n { k with altRoute := some axis }).beginBind n) ∧
      u.link l = (s.link l).dropStrand n (fun c => c.other.isNone) ∧ u.cls.bindFails = sat s.cls.bindFails ∧ u = { s with cls := u.cls })) ∧
  (∀ (s : State) (l : LinkId) (n : StrandId) (o : Coord) (x : Nat × Channel), ((s.link l).outCh ++ (s.link l).inCh).find? (fun c => c.2.strand == n.val && c.2.origin == o) = some x →
    (∀ m out, x.2.other = some (m, out) → ∃ u : State, exec (.clsRelease (some l) n o) s = .next (u.putOn m 3 (.claspRelease m n)) ∧
      (∀ c ∈ (u.link l).outCh ++ (u.link l).inCh, ¬ (c.2.strand = n.val ∧ c.2.other.isSome = true ∧ c.2.origin = o)) ∧ u = { s with cls := u.cls }) ∧
    (∀ k, x.2.other = none → s.strand? n = some k → ∃ t, exec (.clsRelease (some l) n o) s = .next t ∧ t.strand? n = some { k.empty with binding := true } ∧
      ∀ i, s.item? i.tag = some i → i.status = none → s.hasTiles n k i = true → ∃ j, t.item? i.tag = some j ∧ j.status = some (0x20, 0x1007))) ∧
  (∀ (s : State) (n : StrandId) (o : Coord),
    (∀ k, s.strand? n = some k → k.bound = true ∨ k.binding = true → exec (.clsRelease none n o) s = .next s) ∧
    ((∀ k, s.strand? n = some k → k.bound = false ∧ k.binding = false) → ∃ t, exec (.clsRelease none n o) s = .next t ∧ (∀ l, (t.link l).owns n = false) ∧ t = { s with cls := t.cls, out := t.out })) ∧
  (∀ (s : State) (l : LinkId) (m : DownMsg), (s.link l).serves = true →
    let far := oppLink l
    (m.round = false →
      (∀ h, (s.link l).downTransit m = some h → exec (.clsLinkDown l m) s = .next (s.putOn h 3 (.claspLinkDown h m))) ∧
      ((s.link l).holds m = false → exec (.clsLinkDown l m) s = .next s)) ∧
    (m.round = true →
      ((s.link l).holds m = true ∨ (s.link far).holds m = false → exec (.clsLinkDown l m) s = .next (s.putOn far 3 (.claspLinkDown far m))) ∧
      (∀ h, (s.link l).holds m = false → (s.link far).holds m = true → (s.link far).downTransit m = some h →
        exec (.clsLinkDown l m) s = .next (s.putOn h 3 (.claspLinkDown h { m with round := false }))))) ∧
  (∀ (s : State) (l : LinkId) (m : DownMsg) (n : StrandId) (k : StrandSt), s.strand? n = some k → k.bound = true → m.strand = n.val →
    let far := oppLink l
    let lost (at_ : Nat) (t : State) := (∃ x, t.strand? n = some x ∧ x.bound = false ∧ x.entry = k.entry) ∧ t.mem = s.mem ∧
      ∀ i, s.item? i.tag = some i → i.status = none → s.hasTiles n k i = true → ∃ j, t.item? i.tag = some j ∧ j.status = some (0x31, BitVec.ofNat 16 (0x7100 + at_))
    let here := (s.link l).serves = true ∧ m.round = false ∧ (s.link l).downTransit m = none ∧ (s.link l).holds m = true
    let round := (s.link l).serves = true ∧ m.round = true ∧ (s.link l).holds m = false ∧ (s.link far).holds m = true ∧ (s.link far).downTransit m = none
    (here → k.altRoute = m.alt → ∃ t, exec (.clsLinkDown l m) s = .next t ∧ lost l t) ∧
    (round → k.altRoute = m.alt → ∃ t, exec (.clsLinkDown l m) s = .next t ∧ lost far t) ∧
    (here ∨ round → k.altRoute ≠ m.alt → exec (.clsLinkDown l m) s = .next s) ∧
    (s.ownLinkOf n true = some l.val → (∃ u ∈ k.unacked, u.2.2.2 + 64000 + 20000 * k.hops ≤ s.now) → ∃ t, exec (.transportTimeout n) s = .next t ∧ lost l t ∧ t.cls.status.getLsbD 6 = true) ∧
    ((∀ u ∈ k.unacked, s.now < u.2.2.2 + 64000 + 20000 * k.hops) → exec (.transportTimeout n) s = .next s)) ∧
  ∀ (s : State) (l : LinkId) (n : StrandId) (q : W32),
    (∀ m out, (s.link l).transitOf n = some (m, out) → exec (.clsResync l n q) s = .next (s.putOn m 3 (.claspResync m n q))) ∧
    (∀ k, (s.link l).serves = true → s.strand? n = some k → (s.link l).transitOf n = none → (s.link l).owns n = true → k.entry.place = .fromPeer →
      let live := k.slots.filter (fun r => r.phase != 2)
      let free := fun (g : Nat) => k.entry.depth - ((live.filter (fun r => r.group == g)).map (fun r => r.tile.seq)).eraseDups.length
      let first := if k.entry.srcMode = .gather then 0 else k.entry.srcMember
      ∃ t x, exec (.clsResync l n q) s = .next t ∧ t.strand? n = some x ∧ x.slots = live ∧ x.flight = [] ∧ x.turn = [] ∧ x.baseSeq = q ∧
        (∀ m < s.srcCount k, tget? x.expSeq (first + m) = some q) ∧
        t.out = .claspAck l n [] ((List.range (s.groups k)).flatMap (fun g => List.replicate (free g) g)) :: s.out ∧
        t.cls.resyncs = sat s.cls.resyncs ∧ t.cls.status = setFlag s.cls.status 7 ∧ (∀ y, y ≠ n.val → t.strand? y = s.strand? y) ∧
        t = { s with strands := t.strands, cls := t.cls, out := t.out })

/-- A placement record is pending if it holds and is refused with BAD_FORM otherwise; while no committed job has a strand of another module and no Locket entry is PEER, it is applied with its epoch and the links that were HELD return to service. The time parent's TIME plus the path delay is what the master is steered toward; half a round trip with it is the path delay, and an exchange on another link makes that neighbour one that is sent TIME (the model's reading, log 116). Where the spec leaves a choice it takes the one of the model: log 49, 116. -/
def Obligations.PlacementIsAppliedWholeAndTimeFollowsItsParent : Prop :=
  (∀ (s : State) (h : VHdr) (p : Placement), Safety.Heard s h →
    (placementFault p = none → exec (.placement h p) s = .next (({ s with cls.pendingPlace := some p } : State).answer 0x20 h .ok)) ∧
    (∀ n, placementFault p = some n → ∃ t o, exec (.placement h p) s = .next t ∧ t.out = .vendor h.endpoint (vendorBytes 0x20 h.inst .badForm []) :: o ∧ t.cls = s.cls ∧
      t = { s with mgmt := t.mgmt, out := t.out })) ∧
  (∀ s : State,
    (s.cls.pendingPlace = none ∨ s.placeable = false → exec .placementApply s = .next s) ∧
    (∀ p, s.cls.pendingPlace = some p → s.placeable = true →
      ∃ t, exec .placementApply s = .next t ∧ t.cls.place = some p ∧ t.cls.epoch = p.epoch ∧ t.cls.pendingPlace = none ∧ (∀ l, (t.link l).state ≠ .held) ∧
        (∀ l, (t.link l).outCh = (s.link l).outCh ∧ (t.link l).inCh = (s.link l).inCh) ∧ ((∀ e ∈ s.cls.links, e.2.state ≠ .held) → t.cls.links = s.cls.links) ∧
        t = { s with cls := t.cls, mgmt.bcast := t.mgmt.bcast, gen.floorplanSeq := t.gen.floorplanSeq, gen.report := t.gen.report })) ∧
  ∀ (s : State) (w : W64) (l : LinkId) (n : Nat),
    (s.parentLink ≠ none → exec (.timeMsg w) s = .next { s with cls.timeErr := ((w.toNat : Int) + s.cls.timeDelay) * 16777216 - s.cal.toNat }) ∧
    (s.parentLink = none → ∃ t, exec (.timeMsg w) s = .next t ∧ t = { s with cls.status := t.cls.status, cls.timeErr := t.cls.timeErr }) ∧
    (s.parentLink = some l.val → exec (.timePathDelay l n) s = .next (({ s with cls.timeDelay := n / 2 } : State).putOn l 3 (.timeMsg l s.stamp))) ∧
    (s.parentLink ≠ some l.val → (s.link l).carries = true → ∃ t, exec (.timePathDelay l n) s = .next t ∧ t.out = .timeMsg l s.stamp :: s.out ∧
      t.link l = { s.link l with timeChild := true, waiting := (t.link l).waiting } ∧ (∀ m, m ≠ l.val → t.link m = s.link m) ∧ t.cls.timeDelay = s.cls.timeDelay ∧ t = { s with cls := t.cls, out := t.out }) ∧
    ((s.link l).carries = false → ∃ t, exec (.timePathDelay l n) s = .next t ∧ t = { s with cls.status := t.cls.status, cls.timeErr := t.cls.timeErr })

/-! ## Management, firmware, attestation and licences -/

/-- A vendor request is not answered while the port is down or where it is no vendor message, is answered UNSUPPORTED for a wrong IANA or an unknown COMMAND and BAD_FORM for a reserved bit, without effect; an answer has 9 bytes of header, and on I3C an in-band interrupt goes before it. SET_SINK sets the sink and sends a waiting record. HEIRLOOM_READ returns every record; FLOORPLAN_READ the report from the first on; KEEPSAKE_READ bytes of a slot, KEEPSAKE_CLEAR empties every slot, and marks what is still in a buffer as of a crash before it; BCAST_STATUS and CHAIN read what is held, CHAIN_READ the same chain by DOE; LIST is taken up where no other LICENCE is handled, and answers the eight slots. Where the spec leaves a choice it takes the one of the model: log 68, 69, 72, 131. -/
def Obligations.VendorRequestsAreHeardOrAnsweredByTheirHeader : Prop :=
  (∀ (c : Instr) (cmd : Byte) (h : VHdr) (s : State), Safety.vendorRequest c = some (cmd, h) →
    (s.portUp = false ∨ VHdr.isVendor h = false → exec c s = .next s) ∧
    (s.portUp = true → VHdr.isVendor h = true →
      (h.iana ≠ 0x0000D5A3 → exec c s = .next (s.answer cmd h .unsupported)) ∧
      (∀ x, h.iana = 0x0000D5A3 → h.unknown = some x → x ∉ vendorCommands → exec c s = .next (s.answer x h .unsupported)) ∧
      (h.iana = 0x0000D5A3 → h.unknown = none → h.flags ≠ 0 → exec c s = .next (s.answer cmd h .badForm)))) ∧
  (∀ (s : State) (cmd : Byte) (h : VHdr) (r : VResult) (data : List Byte), s.answer cmd h r data = { s with
    out := .vendor h.endpoint ([0x00, 0x00, 0xD5, 0xA3, cmd, 0x01] ++ le 2 h.inst.toNat ++
      [match r with | .ok => 0 | .unsupported => 1 | .badForm => 2 | .busy => 3 | .state => 4] ++ data) :: (if h.eth then s.out else .ibi :: s.out) }) ∧
  (∀ (s : State) (h : VHdr), Safety.Heard s h →
    let ok (cmd : Byte) (data : List Byte) : Result := .next (s.answer cmd h .ok data)
    let no (cmd : Byte) (r : VResult) : Result := .next (s.answer cmd h r)
    let chain := s.flash.chain.take 4096
    let sunk : State := ({ s with mgmt.sink := some h.endpoint, mgmt.sinkEth := h.eth } : State).answer 0x01 h .ok
    (s.mgmt.records.queue = [] ∨ s.mgmt.records.sent = true → exec (.setSink h) s = .next sunk) ∧
    (∀ r rest, s.mgmt.records.queue = r :: rest → s.mgmt.records.sent = false →
      exec (.setSink h) s = .next { sunk.tell h.eth (.record (some h.endpoint) r) with mgmt.records.sent := true }) ∧
    exec (.heirloomRead h) s = ok 0x10 (s.heirloom.flatMap HRec.bytes) ∧
    (∀ off len, (s.gen.floorplanSeq = 0 → exec (.floorplanRead h off len) s = no 0x11 .state) ∧
      (s.gen.floorplanSeq ≠ 0 → len = 0 ∨ 1008 < len ∨ 11296 < off + len → exec (.floorplanRead h off len) s = no 0x11 .badForm) ∧
      (s.gen.floorplanSeq ≠ 0 → 0 < len → len ≤ 1008 → off + len ≤ 11296 →
        exec (.floorplanRead h off len) s = ok 0x11 (le 4 s.gen.floorplanSeq.toNat ++ (s.gen.report.drop off).take len))) ∧
    (∀ (p : ProcId) (latest : Bool) off len, (262144 < off + len → exec (.keepsakeRead h p latest off len) s = no 0x12 .badForm) ∧
      (off + len ≤ 262144 → exec (.keepsakeRead h p latest off len) s =
        ok 0x12 (((tget s.flash.keepsake (2 * p + if latest then 1 else 0) []).drop off).take len))) ∧
    (∃ u : State, exec (.keepsakeClear h) s = .next (u.answer 0x13 h .ok) ∧ (∀ n, tget u.flash.keepsake n [] = []) ∧
      ((s.flash.keepsake.map (·.1)).Nodup → ∀ n, tget u.mgmt.ksGen n 0 = tget s.mgmt.ksGen n 0 + (if tget s.flash.keepsake n [] = [] then 0 else 1)) ∧
      (∀ p, u.proc p = { s.proc p with bufOld := (s.proc p).bufOld || (s.proc p).buffer.isSome }) ∧
      u = { s with flash.keepsake := u.flash.keepsake, mgmt := u.mgmt }) ∧
    (s.mgmt.bcast = none → exec (.bcastStatus h) s = ok 0x41 (le 8 0)) ∧
    (∀ b, s.mgmt.bcast = some b → ∃ left, exec (.bcastStatus h) s =
      ok 0x41 (le 4 b.session.toNat ++ le 1 (if b.ended then 2 else if b.activating then 1 else 0) ++ left) ∧ (b.root = false → left = le 3 0)) ∧
    (s.licensable = false → exec (.licenceList h) s = no 0x31 .state) ∧
    (s.licensable = true → s.sec.licensing.isSome = true → exec (.licenceList h) s = no 0x31 .busy) ∧
    (s.licensable = true → s.sec.licensing = none → ∃ due, exec (.licenceList h) s =
      .next { s with sec.licensing := some { hdr := h, file := none, due := due }, free := s.free + 1 }) ∧
    (∀ due, s.licensable = true → s.finishLicence { hdr := h, file := none, due := due } =
      ({ s with sec.licensing := none } : State).answer 0x31 h .ok ((List.range 8).flatMap (fun n => licenceEntry (tget? s.flash.licences n)))) ∧
    (∀ off len, (len = 0 ∨ 1024 < len → exec (.attestChain h off len) s = no 0x30 .badForm) ∧
      (0 < len → len ≤ 1024 → exec (.attestChain h off len) s = ok 0x30 (le 2 chain.length ++ (chain.drop off).take len)))) ∧
  ∀ (s : State) (off len : Nat), let chain := s.flash.chain.take 4096
    (s.portUp = false ∨ s.cxl.d3 = true ∨ len = 0 ∨ 1024 < len → exec (.chainRead off len) s = .next s) ∧
    (s.portUp = true → s.cxl.d3 = false → 0 < len → len ≤ 1024 →
      exec (.chainRead off len) s = .next (s.put (.doe (le 2 chain.length ++ (chain.drop off).take len))))

/-- A running processor that crashes counts it in flash, keeps a record in its buffer if that is free, and restarts, unless it is not the device master and this is its fourth crash within the hour: then it halts. A crash of the master loses the report that it signs and the LICENCE that it handles. FW_RESTART restarts any processor that has booted and clears its count. A restart ends in RUNNING the image in flash, and an activation goes on with the next processor. A buffer is written as LATEST, and as FIRST where none is and no KEEPSAKE_CLEAR came after the crash, and freed. The head of a record queue is sent again on request; once it is answered, the next goes out. Where the spec leaves a choice it takes the one of the model: log 70. -/
def Obligations.ProcessorsCrashAndRecordsReachTheirSink : Prop :=
  (∀ (s : State) (p : ProcId) (cause : Fin 7) (info : CrashInfo),
    (cause = 0 ∨ cause = 5 ∨ (s.proc p).state ≠ .running → exec (.processorCrash p cause info) s = .next s) ∧
    (cause ≠ 0 → cause ≠ 5 → (s.proc p).state = .running →
      let halt := p ≠ 0 ∧ 3 ≤ (s.crashesHour p).length
      ∃ t, exec (.processorCrash p cause info) s = .next t ∧ tget t.flash.crashSeq p 0 = tget s.flash.crashSeq p 0 + 1 ∧
        (halt → (t.proc p).state = .halted ∧ t.mgmt.status.getLsbD 1 = true) ∧ (¬ halt → (t.proc p).state = .restarting) ∧
        (t.proc p).crashes = sat (s.proc p).crashes ∧ (t.proc p).inside = info ∧ t.mgmt.status.getLsbD 0 = true ∧
        (∀ bs, (s.proc p).buffer = some bs → (t.proc p).buffer = some bs ∧ t.mgmt.ksDropped = sat s.mgmt.ksDropped) ∧
        ((s.proc p).buffer = none → (t.proc p).bufOld = false ∧ ∃ bs, (t.proc p).buffer = some bs ∧ fld bs 1 1 = p ∧ fld bs 2 1 = cause) ∧
        (∀ q, q ≠ p.val → t.proc q = s.proc q) ∧ (p = 0 → t.sec.signing = none ∧ t.sec.licensing = none) ∧ (p ≠ 0 → t.sec = s.sec) ∧
        t = { s with flash.crashSeq := t.flash.crashSeq, mgmt := t.mgmt, sec := t.sec, out := t.out })) ∧
  (∀ (s : State) (p : ProcId),
    ((s.proc p).state ≠ .restarting → exec (.processorRestart p) s = .next s) ∧
    ((s.proc p).state = .restarting → exec (.processorRestart p) s = .next (s.restarted p).activateOn ∧
      (s.gen.bringup = none → ((s.restarted p).proc p) = { s.proc p with state := .running, image := s.image (imageOf p) } ∧
        (∀ q, q ≠ p.val → (s.restarted p).proc q = s.proc q) ∧ (s.restarted p).mem = s.mem ∧ (p = 13 → s.restarted p = { s with mgmt := (s.restarted p).mgmt })))) ∧
  (∀ s : State, (s.mgmt.activation = none → s.activateOn = s) ∧
    ∀ a p rest, s.mgmt.activation = some a → a.left = p :: rest →
      (s.masterUp = true → (s.proc p).state = .running → s.activateOn = s.activateFrom a rest) ∧
      (s.masterUp = false ∨ (s.proc p).state ≠ .running → s.activateOn = s)) ∧
  (∀ (s : State) (h : VHdr) (p : ProcId) (info : CrashInfo), Safety.Heard s h →
    let u := s.answer 0x14 h .ok
    ((s.proc p).state = .running → ∃ t, exec (.fwRestart h p info) s = .next t ∧ t = u.crash p 5 info ∧ (t.proc p).state = .restarting ∧
      (t.proc p).recent = [] ∧ (∀ q, q ≠ p.val → t.proc q = s.proc q)) ∧
    ((s.proc p).state = .halted ∨ (s.proc p).state = .restarting →
      exec (.fwRestart h p info) s = .next (u.setProc p { s.proc p with state := .restarting, recent := [] })) ∧
    ((s.proc p).state = .boot → exec (.fwRestart h p info) s = .next u)) ∧
  (∀ (s : State) (p : ProcId),
    let slot (s : State) (n : Nat) := tget s.flash.keepsake n []
    let gen (s : State) (n : Nat) := tget s.mgmt.ksGen n 0
    let first := slot s (2 * p) = [] ∧ (s.proc p).bufOld = false
    (s.masterUp = false ∨ (s.proc p).buffer = none → exec (.keepsakeWrite p) s = .next s) ∧
    (∀ bs, s.masterUp = true → (s.proc p).buffer = some bs →
      ∃ t, exec (.keepsakeWrite p) s = .next t ∧ slot t (2 * p + 1) = keepBytes 1 bs ∧ gen t (2 * p + 1) = gen s (2 * p + 1) + 1 ∧
        (first → slot t (2 * p) = keepBytes 0 bs ∧ gen t (2 * p) = gen s (2 * p) + 1) ∧
        (¬ first → slot t (2 * p) = slot s (2 * p) ∧ gen t (2 * p) = gen s (2 * p)) ∧
        (∀ n, n / 2 ≠ p.val → slot t n = slot s n ∧ gen t n = gen s n) ∧
        t.proc p = { s.proc p with buffer := none, bufOld := false } ∧ t.mgmt.status.getLsbD 2 = true ∧
        t = { s with flash.keepsake := t.flash.keepsake, mgmt := t.mgmt })) ∧
  (∀ s : State, let say (u : State) (x : Rec64) : State := u.tell s.mgmt.sinkEth (.record s.mgmt.sink x)
    (s.mgmt.records.sent = false → exec (.recordResend none) s = .next s) ∧
    (∀ r rest, s.mgmt.records.queue = r :: rest → s.mgmt.records.sent = true → s.portUp = true → exec (.recordResend none) s = .next (say s r)) ∧
    (s.portUp = false ∨ s.mgmt.records.sent = false → exec (.recordAnswer none) s = .next s) ∧
    (∀ r rest, s.mgmt.records.queue = r :: rest → s.mgmt.records.sent = true → s.portUp = true →
      (s.mgmt.lostCount = s.mgmt.lostTold → rest = [] → exec (.recordAnswer none) s =
        .next { s with mgmt.records := { queue := [], sent := false }, mgmt.sentCount := s.mgmt.sentCount + 1 }) ∧
      (∀ q more, s.mgmt.lostCount = s.mgmt.lostTold → rest = q :: more → exec (.recordAnswer none) s =
        .next (say { s with mgmt.records := { queue := rest, sent := true }, mgmt.sentCount := s.mgmt.sentCount + 1 } q)) ∧
      (s.mgmt.lostCount ≠ s.mgmt.lostTold → rest.length < 1024 → ∃ t x, exec (.recordAnswer none) s = .next t ∧
        t.mgmt.lostTold = s.mgmt.lostCount ∧ t.mgmt.records.queue = rest ++ [x] ∧ fld x.bytes 12 1 = 0x10 ∧ t.mgmt.records.sent = true))) ∧
  ∀ (s : State) (f : FieldId), let said (bs : List Byte) := Output.record s.mgmt.sink { hallmark := true, bytes := bs } :: (if s.mgmt.sinkEth then s.out else .ibi :: s.out)
    ((s.field f).hmSent = false → exec (.recordResend (some f)) s = .next s ∧ exec (.recordAnswer (some f)) s = .next s) ∧
    (∀ bs rest, (s.field f).hmQueue = bs :: rest → (s.field f).hmSent = true → s.portUp = true → s.managerUp f = true →
      (∃ t, exec (.recordResend (some f)) s = .next t ∧ t.out = said bs ∧ (∀ g, t.field g = s.field g) ∧ t = { s with fields := t.fields, out := t.out }) ∧
      ((s.field f).hmLost = (s.field f).hmLostTold → ∃ t, exec (.recordAnswer (some f)) s = .next t ∧
        t.field f = { s.field f with hmQueue := rest, hmSent := !rest.isEmpty } ∧ (∀ g, g ≠ f.val → t.field g = s.field g) ∧
        t.mgmt.sentCount = s.mgmt.sentCount + 1 ∧ (∀ b more, rest = b :: more → t.out = said b) ∧
        t = { s with fields := t.fields, mgmt.sentCount := t.mgmt.sentCount, out := t.out }))

/-- A manifest that parses is used by this bring-up, or by the next once agreement has been left. RECOVERY_ENTER is accepted in STOPPED, BOOTING and TRAINING without a broadcast session or an update, but not where Viral stopped the device (log 115): no job, strand or memory content stays, flash does, and a halted processor stays halted. A firmware update asks for the bytes of its package, verifies them, is applied while no image in flash is whole (the model's choice, log 133), and is then activated or, in RECOVERY, restarts bring-up; an invalid package is discarded. An activation restarts the processors that are not halted, one after another, and ends with the minimum SVNs at those that run, never lower. PLDM sensors hold the values of the update, a state sensor that changed is told, and requests read them, the FRU record and the types. Where the spec leaves a choice it takes the one of the model: log 62, 63, 65, 71, 73, 82, 115, 131, 133. -/
def Obligations.ImagesManifestsAndSensorsAreTaken : Prop :=
  (∀ (s : State) (h : VHdr) (bs : List Byte), Safety.Heard s h →
    (parseManifest bs = none → exec (.manifest h bs) s = .next (s.answer 0x21 h .badForm)) ∧
    (∀ m, parseManifest bs = some m →
      (s.gen.state = .ready ∨ s.gen.state = .stopped → exec (.manifest h bs) s = .next (({ s with mgmt.nextManifest := some m } : State).answer 0x21 h .ok)) ∧
      (s.gen.state ≠ .ready → s.gen.state ≠ .stopped → exec (.manifest h bs) s = .next (({ s with mgmt.manifest := some m } : State).answer 0x21 h .ok)))) ∧
  (∀ (s : State) (h : VHdr), Safety.Heard s h →
    let held := s.inSession = true ∨ s.mgmt.update.isSome = true ∨ s.mgmt.activation.isSome = true
    let may := s.gen.stopViral = false ∧ (s.gen.state = .stopped ∨ s.gen.state = .booting ∨ s.gen.state = .training)
    (held → exec (.recoveryEnter h) s = .next (s.answer 0x50 h .busy)) ∧
    (¬ held → ¬ may → exec (.recoveryEnter h) s = .next (s.answer 0x50 h .state)) ∧
    (¬ held → may → ∃ t, exec (.recoveryEnter h) s = .next t ∧ t = (s.answer 0x50 h .ok).enterRecovery ∧ t.gen.state = .recovery ∧ t.jobs = [] ∧ t.strands = [] ∧
      t.alm.items = [] ∧ t.mem.bytes = [] ∧ t.flash = s.flash ∧ t.heirloom = s.heirloom ∧ t.part = s.part ∧ t.cxl.hdm = none ∧
      (∀ r, r ≠ 120 → (t.region r).state = .off) ∧ (∀ n, (t.ring n).state = .off) ∧
      (∀ p, (s.proc p).state = .halted → (t.proc p).state = .halted))) ∧
  (∀ (s : State) (pkg : FwPackage) (upTo : Fin 4) (eth : Bool),
    let no (o : PldmStep) : Result := .next (s.tell eth (.pldmUpdate o))
    (s.ifaceUp eth = false → exec (.pldmFirmwareUpdate pkg upTo eth) s = .next s) ∧
    (s.gen.state = .recovery → s.portUp = false ∧ s.ifaceUp eth = !eth) ∧
    (s.ifaceUp eth = true →
      (∀ u, s.mgmt.update = some u → u.pkg ≠ pkg → exec (.pldmFirmwareUpdate pkg upTo eth) s = no .busy) ∧
      (∀ u, s.mgmt.update = some u → u.pkg = pkg → exec (.pldmFirmwareUpdate pkg upTo eth) s = .next (s.updateTo eth upTo)) ∧
      (s.mgmt.update = none → s.inSession = true ∨ s.mgmt.activation.isSome = true → exec (.pldmFirmwareUpdate pkg upTo eth) s = no .busy) ∧
      (s.mgmt.update = none → s.inSession = false → s.mgmt.activation = none →
        (packageParts pkg = none → exec (.pldmFirmwareUpdate pkg upTo eth) s = no .refused) ∧
        (∀ imgs, packageParts pkg = some imgs → ∃ u : State, exec (.pldmFirmwareUpdate pkg upTo eth) s = .next (u.updateTo eth upTo) ∧
          u.mgmt.update = some { pkg := pkg } ∧ .pldmUpdate .accepted ∈ u.out ∧ (∀ o ∈ fwRequests imgs, o ∈ u.out) ∧
          u = { s with mgmt.update := u.mgmt.update, out := u.out })))) ∧
  (∀ (s : State) (eth : Bool) (u : UpdSt) (imgs : List (List Byte)), s.mgmt.update = some u → packageParts u.pkg = some imgs →
    (u.stage = 0 → s.updateNext eth =
      if s.packageValid imgs then ({ s with mgmt.staging := some u.pkg, mgmt.update := some { u with stage := 1 } } : State).tell eth (.pldmUpdate .verified)
      else ({ s with mgmt.staging := none, mgmt.update := none } : State).tell eth (.pldmUpdate .failed)) ∧
    (u.stage = 1 → (s.updateNext eth).mgmt.update = some { u with stage := 2 } ∧ ∀ i < 3, (s.updateNext eth).image i = []) ∧
    (2 ≤ u.stage → ∃ v : State, v.mgmt.update = none ∧ (∀ i < 3, v.image i = imgs.getD i []) ∧ .pldmUpdate .applied ∈ v.out ∧
      (s.gen.state ≠ .recovery → s.updateNext eth = v.activateImages {}) ∧
      (s.gen.state = .recovery → s.updateNext eth = v.bootImages (s.gen.bringup.getD {})))) ∧
  (∀ (s : State) (a : ActSt) (p : Nat) (ps : List Nat),
    let idle (q : Nat) := (s.proc q).state = .halted ∨ (s.proc q).state = .boot
    (¬ idle p → ((s.activateFrom a (p :: ps)).proc p).state = .restarting ∧ (s.activateFrom a (p :: ps)).mgmt.activation = some { a with left := p :: ps }) ∧
    (idle p → s.activateFrom a (p :: ps) = s.activateFrom a ps) ∧ s.activateFrom a [] = s.activated a ∧
    ∀ i < 3, tget (s.activated a).flash.svn i 0 = s.newSvn i ∧ tget s.flash.svn i 0 ≤ s.newSvn i ∧
      ∀ q < 14, imageOf q = i → (s.proc q).state = .running → imageSvn (s.proc q).image ≤ s.newSvn i) ∧
  ∀ (s : State) (temps : List Nat) (eth : Bool),
    (s.portUp = false → exec (.pldmSensorUpdate temps none) s = .next s) ∧
    (s.portUp = true → ∃ t, exec (.pldmSensorUpdate temps none) s = .next t ∧ t.mgmt.sensors = temps ∧
      (∀ i < 86, tget? t.mgmt.pldm i = (s.numericSensors temps)[i]?) ∧ (∀ i < 9, tget? t.mgmt.pldm (86 + i) = s.stateSensors[i]?) ∧
      (∀ i v w, s.stateSensors[i]? = some v → tget? s.mgmt.pldm (86 + i) = some w → w ≠ v → .pldm (86 + i) v ∈ t.out) ∧
      t = { s with mgmt.sensors := temps, mgmt.pldm := t.mgmt.pldm, out := t.out }) ∧
    (∀ g, s.ifaceUp eth = false → exec (.pldmSensorUpdate temps (some (eth, g))) s = .next s) ∧
    (s.ifaceUp eth = true →
      exec (.pldmSensorUpdate temps (some (eth, .types))) s = .next (s.tell eth (.pldmTypes (if s.gen.state = .recovery then [0, 5] else [0, 2, 4, 5]))) ∧
      (s.gen.state ≠ .recovery →
        (∀ n, exec (.pldmSensorUpdate temps (some (eth, .sensor n))) s = .next (s.tell eth (.pldm n (tget s.mgmt.pldm n 0)))) ∧
        exec (.pldmSensorUpdate temps (some (eth, .fru))) s = .next (s.tell eth (.fru s.part.serial s.part.variant s.part.stepping
          (bit s.gen.cl + 2 * bit s.gen.lp) (Config.orderingCode s.part.variant)))))

/-- A broadcast starts with a staged package, a placement and a box within its extents, outside a session and an update, and every block leaves on every link of the tree that is in service. A target marks a block it lacks, forwards it once it knows the box, and answers a roll call with what it lacks or its verdict (log 65); one that holds another session, or an update, answers BUSY. In a roll call every target is asked; a mismatch, a busy target or a third silence fails the session, and when all have matched they are told to activate. A target that has matched applies its package and activates it, and then answers DONE; when every target is done, or the time is out, the root ends the session. An abort discards it. Where the spec leaves a choice it takes the one of the model: log 65, 66, 67. -/
def Obligations.BroadcastsReachEveryTargetOrFail : Prop :=
  (∀ (s : State) (h : VHdr) (n : W32) (lo hi : Coord), Safety.Heard s h →
    (s.inSession = true ∨ s.updating = true → exec (.bcastStart h n lo hi) s = .next (s.answer 0x40 h .busy)) ∧
    (s.inSession = false → s.updating = false → s.mgmt.staging.bind packageParts = none ∨ s.cls.place = none →
      exec (.bcastStart h n lo hi) s = .next (s.answer 0x40 h .state)) ∧
    (∀ imgs p, s.inSession = false → s.updating = false → s.mgmt.staging.bind packageParts = some imgs → s.cls.place = some p →
      let box := Placement.holds p hi = true ∧ lo.x ≤ hi.x ∧ lo.y ≤ hi.y ∧ lo.z ≤ hi.z
      (¬ box → exec (.bcastStart h n lo hi) s = .next (s.answer 0x40 h .badForm)) ∧
      (box → ∃ t b, exec (.bcastStart h n lo hi) s = .next t ∧ t.mgmt.bcast = some b ∧ b.session = n ∧ b.root = true ∧ b.lo = lo ∧ b.hi = hi ∧
        b.total = (bcastBlocks imgs p.coord lo hi).length ∧ .vendor h.endpoint (vendorBytes 0x40 h.inst .ok []) ∈ t.out ∧
        (∀ l ∈ bcastLinks p p.coord lo hi, (s.link l).serves = true → ∀ i x, (bcastBlocks imgs p.coord lo hi)[i]? = some x →
          .bcastBlock l n i (bcastBytes n i b.total x) ∈ t.out) ∧ t = { s with mgmt.bcast := some b, cls := t.cls, out := t.out }))) ∧
  (∀ (s : State) (h : VHdr), Safety.Heard s h →
    (s.mgmt.bcast = none → exec (.bcastAbort h) s = .next (s.answer 0x42 h .state)) ∧
    (∀ b, s.mgmt.bcast = some b →
      (b.activating = true ∨ b.ended = true → exec (.bcastAbort h) s = .next (s.answer 0x42 h .state)) ∧
      (b.activating = false → b.ended = false → b.root = true → ∃ t, exec (.bcastAbort h) s = .next t ∧ t = (s.answer 0x42 h .ok).bcastFail b ∧ t.mgmt.bcast = none) ∧
      (b.activating = false → b.ended = false → b.root = false → exec (.bcastAbort h) s =
        .next (({ s with mgmt.bcast := none, mgmt.staging := none } : State).answer 0x42 h .ok)))) ∧
  (∀ (s : State) (b : BcastSt) (p : Placement) (c : Coord) (l : Nat) (way : List Nat) (code : Nat), s.cls.place = some p → c ∈ bcastTargets p.coord b.lo b.hi →
    claspRoute p p.coord c = l :: way → (s.link l).serves = true → .bcastMsg c code [b.session.toNat] ∈ (s.tellTargets b code).out) ∧
  (∀ (s : State) (n : W32) (i total : Nat) (bs : List Byte),
    (∀ crc, s.portUp = false ∨ s.cls.place = none ∨ bs.length ≠ 4096 ∨ crc ≠ crc32c bs ∨ total ≤ i ∨ s.updating = true →
      exec (.broadcastBlock n i total crc bs) s = .next s) ∧
    (∀ p, s.portUp = true → s.cls.place = some p → bs.length = 4096 → i < total → s.updating = false →
      (s.mgmt.bcast = none → i ≠ 0 → ∃ t, exec (.broadcastBlock n i total (crc32c bs) bs) s = .next t ∧
        t.mgmt.bcast = some { session := n, total := total, have_ := [i], data := [(i, bs)] } ∧ t = { s with mgmt.bcast := t.mgmt.bcast }) ∧
      (∀ b, s.mgmt.bcast = some b → b.session = n → b.root = false →
        (i ∈ b.have_ → exec (.broadcastBlock n i total (crc32c bs) bs) s = .next s) ∧
        (∀ h, i ≠ 0 → i ∉ b.have_ → tget? b.data 0 = some h → inBox (headerCoord h 1) (headerCoord h 2) p.coord = true → b.have_.length + 1 ≠ b.total →
          ∃ t x, exec (.broadcastBlock n i total (crc32c bs) bs) s = .next t ∧ t.mgmt.bcast = some x ∧ x.have_ = b.have_ ++ [i] ∧
            x.data = b.data ++ [(i, bs)] ∧ (∀ l ∈ bcastLinks p (headerCoord h 0) (headerCoord h 1) (headerCoord h 2), (s.link l).serves = true →
              .bcastBlock l n i (bcastBytes n i b.total bs) ∈ t.out) ∧
            t = { s with mgmt.bcast := some x, cls := t.cls, out := t.out })))) ∧
  (∀ (s : State) (answers : List (Coord × RollAnswer)),
    (s.portUp = false ∨ s.mgmt.bcast = none → exec (.rollCall none answers) s = .next s) ∧
    (∀ b, s.mgmt.bcast = some b → b.root = false ∨ b.activating = true ∨ b.ended = true → exec (.rollCall none answers) s = .next s) ∧
    (∀ n root, s.portUp = false → exec (.rollCall (some (n, root)) answers) s = .next s) ∧
    (∀ b n root, s.portUp = true → s.mgmt.bcast = some b → b.root = false → b.session = n → b.ended = false →
      let lacks := (List.range b.total).filter (fun i => !b.have_.contains i)
      (tget? b.data 0 = none → exec (.rollCall (some (n, root)) answers) s = .next s) ∧
      (∀ h, tget? b.data 0 = some h → exec (.rollCall (some (n, root)) answers) s = .next (s.unicast (headerCoord h 0) 5
        ([b.session.toNat, if lacks ≠ [] then 0 else if b.matched = [] then 2 else 1] ++ lacks)))) ∧
    (∀ n root, s.portUp = true → (∀ b, s.mgmt.bcast = some b → b.session ≠ n ∨ b.root = true ∨ b.ended = true) →
      (s.inSession = true ∨ s.updating = true → exec (.rollCall (some (n, root)) answers) s = .next (s.unicast root 5 [n.toNat, 3])) ∧
      (s.inSession = false → s.updating = false → exec (.rollCall (some (n, root)) answers) s = .next s)) ∧
    (∀ b, s.portUp = true → s.mgmt.bcast = some b → b.root = true → b.activating = false → b.ended = false → bcastTargets s.here b.lo b.hi ≠ [] →
      let ts := bcastTargets s.here b.lo b.hi
      let said (c : Coord) := (answers.find? (fun x => x.1 == c)).map (·.2)
      let silent (c : Coord) := said c = none ∨ said c = some .silent
      ∃ t, exec (.rollCall none answers) s = .next t ∧ (∀ o ∈ (s.tellTargets b 0).out, o ∈ t.out) ∧ t = { s with mgmt := t.mgmt, cls := t.cls, out := t.out } ∧
        ((∃ c ∈ ts, said c = some .mismatch ∨ said c = some .busy ∨
          (silent c ∧ 2 ≤ ((b.missed.find? (fun x => x.1 == c)).map (·.2)).getD 0)) → t.mgmt.bcast = none) ∧
        ((∀ c ∈ ts, said c = some .matched) → ∃ (x : BcastSt) (u : State), t = { u.tellTargets x 3 with mgmt.bcast := some x } ∧ x.activating = true ∧ x.rounds = b.rounds + 1 ∧
          x.session = b.session ∧ x.lo = b.lo ∧ x.hi = b.hi) ∧
        ((∀ c ∈ ts, said c = some (.missing [])) → b.matched = [] → ∃ x, t.mgmt.bcast = some x ∧ x.activating = false ∧ x.rounds = b.rounds + 1))) ∧
  (∀ (s : State) (n : W32),
    (s.portUp = false ∨ s.mgmt.bcast = none → exec (.activate n) s = .next s) ∧
    (∀ b, s.mgmt.bcast = some b → b.root = true ∨ b.session ≠ n ∨ b.matched = [] → exec (.activate n) s = .next s) ∧
    (∀ b imgs, s.portUp = true → s.mgmt.bcast = some b → b.root = false → b.session = n → b.matched ≠ [] → s.mgmt.staging.bind packageParts = some imgs →
      ∃ u : State, exec (.activate n) s = .next (u.activateImages { session := some n, root := some (headerCoord (tget b.data 0 []) 0) }) ∧ u.mgmt.bcast = none ∧
        ∀ i < 3, u.image i = imgs.getD i [])) ∧
  (∀ (s : State) (a : ActSt) (n : W32) (root : Coord), a.session = some n → a.root = some root → ∃ u : State, s.activated a = u.unicast root 4 [n.toNat] ∧ u.cls = s.cls ∧ u.mgmt.activation = none ∧ u.out = s.out) ∧
  ∀ (s : State) (c : Coord),
    (s.portUp = false ∨ s.mgmt.bcast = none → exec (.bcastDone c) s = .next s ∧ exec .activateTimeout s = .next s) ∧
    (∀ b, s.portUp = true → s.mgmt.bcast = some b →
      let ends (x : BcastSt) (outcome : Nat) : State := ({ s with mgmt.bcast := some { x with ended := true } } : State).activateStaged { session := some b.session, outcome := outcome }
      (b.root = false ∨ b.activating = false → exec (.bcastDone c) s = .next s ∧ exec .activateTimeout s = .next s) ∧
      (c ∈ b.done ∨ c ∉ bcastTargets s.here b.lo b.hi → exec (.bcastDone c) s = .next s) ∧
      (b.root = true → b.activating = true → b.ended = true → exec .activateTimeout s = .next s ∧
        (c ∉ b.done → c ∈ bcastTargets s.here b.lo b.hi → exec (.bcastDone c) s = .next { s with mgmt.bcast := some { b with done := b.done ++ [c] } })) ∧
      (b.root = true → b.activating = true → b.ended = false → exec .activateTimeout s = .next (ends b 2) ∧
        (c ∉ b.done → c ∈ bcastTargets s.here b.lo b.hi →
          ((∃ d ∈ bcastTargets s.here b.lo b.hi, d ≠ c ∧ d ∉ b.done) → exec (.bcastDone c) s = .next { s with mgmt.bcast := some { b with done := b.done ++ [c] } }) ∧
          ((∀ d ∈ bcastTargets s.here b.lo b.hi, d ≠ c → d ∈ b.done) → exec (.bcastDone c) s = .next (ends { b with done := b.done ++ [c] } 0)))))

/-- A report is taken up one at a time, is due within 50 ms, and is answered with the state it attests, the nonce and 96 bytes of signature by the identity key. A licence file with a fault of form, serial or signature is refused and counted, as is one that comes while another is handled; a good one is stored and takes effect later, when a licensed link trains and a licensed Loupe unit is powered, with a report for each. A session starts with its key exchange, its keys being those that HKDF derives, counts both ways, and ends at a message out of order or one that does not open. Addresses and endpoint ids are taken while the interfaces are served. Where the spec leaves a choice it takes the one of the model: log 13, 74, 75, 76, 83, 131, 134. -/
def Obligations.AttestationLicencesSessionsAndAddresses : Prop :=
  (∀ (s : State) (h : VHdr) (other : Option Byte) (nonce : List Byte), Safety.Heard s h →
    let bad := nonce.length ≠ 32 ∨ ∃ op, other = some op ∧ op ≠ 0 ∧ op ≠ 1
    (bad → exec (.attestReport h other nonce) s = .next (s.answer 0x30 h .badForm)) ∧
    (¬ bad → s.sec.signing.isSome = true → exec (.attestReport h other nonce) s = .next (s.answer 0x30 h .busy)) ∧
    (¬ bad → s.sec.signing = none → ∃ n ≤ 50000000, exec (.attestReport h other nonce) s =
      .next { s with sec.signing := some { hdr := h, nonce := nonce, due := s.stamp + BitVec.ofNat 64 n }, free := s.free + 1 })) ∧
  (∀ (s : State) (k : SignSt), s.portUp = true → k.nonce.length = 32 →
    ∃ body sig, s.finishReport k = ({ s with sec.signing := none, free := s.free + 1 } : State).answer 0x30 k.hdr .ok (body ++ sig) ∧
      body.length = 256 ∧ sig.length = 96 ∧ fld body 3 1 = s.gen.state.code ∧ fld body 8 8 = s.part.serial.toNat ∧ fld body 0x10 8 = s.now ∧
      (body.drop 0x20).take 32 = k.nonce ∧ sig = ecdsaSign (scalar s.part.identity) (scalar (Config.signScalar s.free)) (sha384 body)) ∧
  (∀ (s : State) (h : VHdr) (bs : List Byte), Safety.Heard s h →
    let counted : State := { s with sec.licRefused := sat s.sec.licRefused }
    (s.licensable = false → exec (.licenceInstall h bs) s = .next (counted.answer 0x31 h .state)) ∧
    (s.licensable = true → s.sec.licensing.isSome = true → exec (.licenceInstall h bs) s = .next (counted.answer 0x31 h .busy)) ∧
    (s.licensable = true → s.sec.licensing = none → ∃ due, exec (.licenceInstall h bs) s =
      .next { s with sec.licensing := some { hdr := h, file := some bs, due := due }, free := s.free + 1 })) ∧
  (∀ (s : State) (k : LicSt) (bs : List Byte), s.portUp = true → k.file = some bs → s.licensable = true →
    let u : State := { s with sec.licensing := none }
    let refused (data : List Byte) (r : VResult) : State := ({ u with sec.licRefused := sat s.sec.licRefused } : State).answer 0x31 k.hdr r data
    (licenceForm bs = false → s.finishLicence k = refused [] .badForm) ∧
    (licenceForm bs = true →
      (fld bs 8 8 ≠ s.part.serial.toNat → s.finishLicence k = refused [1] .ok) ∧
      (fld bs 8 8 = s.part.serial.toNat → ∃ (n : Nat) (v : State),
        let room := s.licenceSlot (BitVec.ofNat 32 (fld bs 4 4))
        let held := s.flash.licences.any (fun e => e.2.valid && e.2.id == BitVec.ofNat 32 (fld bs 4 4)) = true ∨ fld bs 1 1 &&& s.features = fld bs 1 1
        s.finishLicence k = (if s.licenceSigned bs = false then refused [2] .ok else if held then refused [3] .ok
          else if room = none then refused [4] .ok else v.answer 0x31 k.hdr .ok [0]) ∧
        (∀ m, room = some m → n = m) ∧
        tget? v.flash.licences n = some { id := BitVec.ofNat 32 (fld bs 4 4), features := fld bs 1 1, valid := true, file := bs } ∧
        (∀ m, m ≠ n → tget? v.flash.licences m = tget? s.flash.licences m) ∧
        v = { u with flash.licences := v.flash.licences, sec.slotsValid := v.sec.slotsValid }))) ∧
  (∀ s : State,
    let cl := s.licensed.testBit 0 && !s.gen.cl
    let lp := s.licensed.testBit 1 && !s.gen.lp
    let may := s.licensable = true ∧ s.masterUp = true ∧ (cl || lp) = true
    (¬ may → ∀ a b, exec (.licenceEffect a b) s = .next s) ∧
    (may → ∃ t, exec (.licenceEffect [] []) s = .next t ∧ t.gen.cl = (s.gen.cl || cl) ∧ t.gen.lp = (s.gen.lp || lp) ∧ t.sec.status.getLsbD 0 = true ∧
      (lp = true → ∀ f < 12, (t.loupe f).powered = true) ∧ (lp = false → t.lou = s.lou) ∧
      (cl = true → t.gen.floorplanSeq = sat (sat (sat (sat (sat s.gen.floorplanSeq)))) ∧
        ∀ l, 2 ≤ l → l < 6 → s.cls.linkEn.getLsbD l = true → (s.link l).outService = false → s.thm.coolantStop = false →
          (t.link l).state = .training ∧ (t.link l).offCause = 0 ∧ .trainId l { s.ownRecord l with cl := true } ∈ t.out) ∧
      (cl = false → t.cls = s.cls ∧ t.out = s.out ∧ t.gen.floorplanSeq = sat s.gen.floorplanSeq) ∧
      t = { s with gen := t.gen, sec.status := t.sec.status, lou := t.lou, cls := t.cls, out := t.out, free := t.free })) ∧
  (∀ (s : State) (key nonce : List Byte),
    let up := s.portUp = true ∧ s.cxl.d3 = false
    (¬ up ∨ keyPoint key = none ∨ nonce.length ≠ 32 → exec (.sessionStart key nonce) s = .next s) ∧
    (up → keyPoint key ≠ none → nonce.length = 32 → ∃ t own mine sig k, exec (.sessionStart key nonce) s = .next t ∧
      t.out = .doe (publicKey own ++ mine ++ sig) :: s.out ∧ mine.length = 32 ∧ sig.length = 96 ∧ t.sec.session = some k ∧ k.rxSeq = 0 ∧ k.txSeq = 0 ∧
      (let okm := hkdf96 (ecdhX own key) (nonce ++ mine)
       k.h2dKey = okm.take 32 ∧ k.d2hKey = (okm.drop 32).take 32 ∧ k.h2dIv = (okm.drop 64).take 12 ∧ k.d2hIv = (okm.drop 76).take 12) ∧
      t.sec.sessions = sat s.sec.sessions ∧
      t = { s with free := s.free + 1, sec.session := some k, sec.sessions := t.sec.sessions, out := t.out }) ∧
    (∀ m, (up → exec (.ideKmOutside m) s = .next { s with sec.status := setFlag s.sec.status 3 }) ∧ (¬ up → exec (.ideKmOutside m) s = .next s)) ∧
    (∀ n c t, ¬ up ∨ s.sec.session = none → exec (.sessionData n c t) s = .next s) ∧
    (∀ k n c tag, up → s.sec.session = some k →
      (n ≠ k.rxSeq ∨ gcmOpen k.h2dKey (sessionIv k.h2dIv n) c tag = none →
        exec (.sessionData n c tag) s = .next { s with sec.session := none, sec.status := setFlag s.sec.status 2 }) ∧
      (∀ msg, n = k.rxSeq → gcmOpen k.h2dKey (sessionIv k.h2dIv n) c tag = some msg →
        ∃ t bs, exec (.sessionData n c tag) s = .next t ∧ t.out = .doe (le 8 k.txSeq ++ bs) :: s.out ∧
          t.sec.session = some { k with rxSeq := k.rxSeq + 1, txSeq := k.txSeq + 1 } ∧ t.sec.kmIn = s.sec.kmIn ++ [msg] ∧
          (t.sec.ideIo, t.sec.ideCm) = Config.ideKm msg s.sec.ideIo s.sec.ideCm ∧ t = { s with sec := t.sec, out := t.out }))) ∧
  ∀ (s : State) (a : W32) (b : Byte),
    (∀ eth, s.ifaceUp eth = false → exec (.setEndpointId eth b) s = .next s) ∧
    (s.ifaceUp true = true → exec (.setEndpointId true b) s = .next { s with mgmt.eidEth := b } ∧
      exec (.dhcpLease a) s = .next { s with mgmt.ipv4 := some a, mgmt.sgmiiUp := true } ∧
      (s.mgmt.ipv4 = none → a >>> 16 = 0xA9FE → exec (.linkLocalFallback a) s = .next { s with mgmt.ipv4 := some a, mgmt.sgmiiUp := true }) ∧
      (s.mgmt.ipv4 ≠ none ∨ a >>> 16 ≠ 0xA9FE → exec (.linkLocalFallback a) s = .next s)) ∧
    (s.ifaceUp false = true → exec (.setEndpointId false b) s = .next { s with mgmt.eidI3c := b } ∧
      exec (.entdaa b) s = .next { s.put (.provisionalId (Config.provisionalId s.part.serial)) with mgmt.i3cAddr := b }) ∧
    (s.ifaceUp true = false → exec (.dhcpLease a) s = .next s ∧ exec (.linkLocalFallback a) s = .next s) ∧
    (s.ifaceUp false = false → exec (.entdaa b) s = .next s)

/-! ## Registers, the Assay, stops and resets -/

/-- A write that is not an aligned word, or comes in RESET or D3hot, has no effect, nor has a masked write with MASK 0; in RECOVERY a write sets LOCKED_WRITE or BAD_CMD where it is one of a configuration register or an Assay command, and nothing else. A processor writes no configuration register. A configuration register changes in the bits its MASK selects only while the Assay is OPEN and the device READY or STOPPED, else LOCKED_WRITE is set; LKT_CFG and ALM_BETA refuse it while a job is committed. A written 1 under MASK clears a flag of a status register. A read answers the word at its offset, or 0 for another size or alignment: LO latches the upper word in the port's shadow and HI returns that. A BAR2 access is one of a doorbell; configuration space answers in D3hot too, with free contents that a write of it renews. OPEN and COMMIT take their effect by the Assay's state; a sweep reads each register as it reaches it and, once it has read them all, judges a COMMIT made before it began, arms or reopens, and stops an armed device whose configuration differs. Where the spec leaves a choice it takes the one of the model: log 10, 11, 19, 20, 21, 22, 23, 121, 124, 130. -/
def Obligations.RegistersAndTheAssayFollowTheirRules : Prop :=
  (∀ (s : State) (o : Fin 16777216) (size : Nat) (v : W32), size ≠ 4 ∨ o.val % 4 ≠ 0 →
    ∀ p, exec (.registerWrite p .bar0 o size v) s = .next s) ∧
  (∀ (s : State) (o : Fin 16777216) (size : Nat) (v : W32),
    (s.reachable = false → exec (.registerWrite .host .bar0 o size v) s = .next s) ∧
    (s.reachable = true → s.gen.state = .recovery → size = 4 → o.val % 4 = 0 →
      let command := o.val = 0x50000 ∧ ((v.getLsbD 0 && v.getLsbD 16) || (v.getLsbD 1 && v.getLsbD 17)) = true
      (∀ m, configMask o = some m → 65536 ≤ v.toNat → exec (.registerWrite .host .bar0 o size v) s = .next { s with asy.status := setFlag s.asy.status 1 }) ∧
      (command → exec (.registerWrite .host .bar0 o size v) s = .next { s with asy.status := setFlag s.asy.status 2 }) ∧
      (configMask o = none → ¬ command → exec (.registerWrite .host .bar0 o size v) s = .next s)) ∧
    exec (.registerWrite .firmware .config o size v) s = .next s ∧
    (s.gen.state = .reset ∨ s.cxl.down = true → exec (.registerWrite .host .config o size v) s = .next s) ∧
    (s.gen.state ≠ .reset → s.cxl.down = false → exec (.registerWrite .host .config o size v) s = .next { s with cxl.compRev := s.cxl.compRev + 1 }) ∧
    (s.gen.state = .reset ∨ s.gen.state = .recovery ∨ s.cxl.d3 = true → exec (.registerWrite .firmware .bar0 o size v) s = .next s) ∧
    (∀ m, configMask o = some m → exec (.registerWrite .firmware .bar0 o size v) s = .next s ∧
      (v.toNat < 65536 → exec (.registerWrite .host .bar0 o size v) s = .next s)) ∧
    (s.gen.state ≠ .reset → s.gen.state ≠ .recovery → s.cxl.d3 = false → s.cxl.down = false → configMask o = none → (blockOf o).isSome = true →
      exec (.registerWrite .firmware .bar0 o size v) s = exec (.registerWrite .host .bar0 o size v) s) ∧
    exec (.registerWrite .firmware .bar2 o size v) s = .next s ∧ exec (.registerWrite .firmware .msixControl o size v) s = .next s ∧
    (∀ p, exec (.registerWrite p .identity o size v) s = .next s) ∧
    (∀ (n : RingId) (x : Fin 8), o.val = 8 * n + x → exec (.registerWrite .host .bar2 o size v) s = exec (.doorbell n size x (v.setWidth 64)) s) ∧
    (65536 ≤ o.val → exec (.registerWrite .host .bar2 o size v) s = .next s) ∧
    (s.gen.state ≠ .reset → s.cxl.down = false → s.rng.pba = [] → exec (.registerWrite .host .msixControl o size v) s =
      .next { s with rng.msixOn := v.getLsbD 15, rng.msixMask := v.getLsbD 14 })) ∧
  (∀ (s : State) (v : W32), s.writable = true →
    let write (o : Fin 16777216) := exec (.registerWrite .host .bar0 o 4 v) s
    let put (old : W16) (impl : Nat) : W16 := BitVec.ofNat 16 ((old.toNat &&& (65535 - (v.toNat / 65536 &&& impl))) ||| (v.toNat % 65536 &&& (v.toNat / 65536 &&& impl)))
    let clear (old : W16) : W16 := old &&& ~~~ (v.extractLsb' 0 16 &&& v.extractLsb' 16 16)
    let open_ := s.asy.state = .opened ∧ (s.gen.state = .ready ∨ s.gen.state = .stopped)
    (65536 ≤ v.toNat → ¬ open_ → ∀ o m, configMask o.val = some m → write o = .next { s with asy.status := setFlag s.asy.status 1 }) ∧
    (65536 ≤ v.toNat → open_ →
      write 0x10 = .next { s with gen.eventVector := put s.gen.eventVector 0x87FF } ∧
      (s.anyCommitted = true → write 0x70000 = .next { s with lkt.status := setFlag s.lkt.status 0 } ∧
        write 0x60000 = .next { s with alm.status := setFlag s.alm.status 0 }) ∧
      (s.anyCommitted = false → s.lkt.entries = [] → s.lkt.hbmPool = [] → s.lkt.lpPool = [] → write 0x70000 = .next { s with lkt.cfg := put s.lkt.cfg 0xFFF7 }) ∧
      (s.anyCommitted = false → (put s.alm.betaDev 0x3F).toNat ≤ 32 → write 0x60000 = .next { s with alm.betaDev := put s.alm.betaDev 0x3F }) ∧
      (32 < (put s.alm.betaDev 0x3F).toNat → write 0x60000 = .next { s with alm.status := setFlag s.alm.status 0 })) ∧
    write 0x14 = .next { s with gen.eventStatus := clear s.gen.eventStatus } ∧ write 0x2000C = .next { s with clk.status := clear s.clk.status } ∧
    write 0x30020 = .next { s with pwr.status := clear s.pwr.status } ∧ write 0x40040 = .next { s with thm.status := clear s.thm.status } ∧
    write 0x50010 = .next { s with asy.status := clear s.asy.status } ∧ write 0x60040 = .next { s with alm.status := clear s.alm.status } ∧
    write 0x70014 = .next { s with lkt.status := clear s.lkt.status } ∧ write 0x80004 = .next { s with fst.status := clear s.fst.status } ∧
    write 0xA0004 = .next { s with cxl.status := clear s.cxl.status } ∧ write 0xC0050 = .next { s with mgmt.status := clear s.mgmt.status } ∧
    write 0xD0004 = .next { s with sec.status := clear s.sec.status }) ∧
  (∀ (s : State) (p : Port) (o : Fin 16777216) (size : Nat),
    let port := match p with | .host => s.gen.state ≠ .reset ∧ s.cxl.down = false ∧ s.cxl.d3 = false | .firmware => s.gen.state ≠ .reset ∧ s.cxl.d3 = false
    let read := exec (.rllRead p .bar0 o size) s
    (¬ port → read = .next s) ∧
    (port → size ≠ 4 ∨ o.val % 4 ≠ 0 → read = .next (s.put (.regRead p o 0))) ∧
    (port → size = 4 → o.val % 4 = 0 → o.val < 0xF00000 ∨ 0xF10000 ≤ o.val →
      (∀ v, s.reg o = .word v → read = .next (s.put (.regRead p o (BitVec.ofNat 32 v)))) ∧
      (∀ v, s.reg o = .lo v → ∃ t, read = .next t ∧ t.out = .regRead p o (BitVec.ofNat 32 v) :: s.out ∧
        tget? (t.shadows p) o = some (BitVec.ofNat 32 (v / 2 ^ 32)) ∧ (∀ q, q ≠ p → t.shadows q = s.shadows q) ∧
        t = { s with regsShadow := t.regsShadow, out := t.out }) ∧
      (∀ x, s.reg o = .hi x → read = .next (s.put (.regRead p o (tget (s.shadows p) x 0))))) ∧
    (port → size = 4 → o.val % 4 = 0 → 0xF00000 ≤ o.val → o.val < 0xF10000 → s.gen.state ≠ .recovery →
      read = .next (s.put (.regRead p o (Config.cxlComponent s.cxl.compRev o))))) ∧
  (∀ (s : State) (o : Fin 16777216) (size : Nat),
    let up := s.gen.state ≠ .reset ∧ s.cxl.down = false
    (∀ sp, sp ≠ .bar0 → exec (.rllRead .firmware sp o size) s = .next s) ∧
    (¬ up → ∀ sp, exec (.rllRead .host sp o size) s = .next s) ∧
    (up → exec (.rllRead .host .identity o size) s = .next (s.put (.identity s.identity)) ∧
      exec (.rllRead .host .msixControl o size) s = .next (s.put (.msixControl s.rng.msixOn s.rng.msixMask)) ∧
      exec (.rllRead .host .config o size) s = .next (s.put (.configRead o size (Config.configSpace s.cxl.compRev o))) ∧
      (s.cxl.d3 = true → exec (.rllRead .host .bar2 o size) s = .next s) ∧
      (s.cxl.d3 = false → ∀ n : RingId,
        let k := s.ring n
        let lo := k.sqHead.toNat + 65536 * k.cqTail.toNat
        let hi := k.tileTail.toNat + 65536 * k.state.code
        (o.val = 8 * n → size = 8 → exec (.rllRead .host .bar2 o size) s = .next (s.put (.bar2Read o size (BitVec.ofNat 64 (lo + 2 ^ 32 * hi))))) ∧
        (o.val = 8 * n → size = 4 → exec (.rllRead .host .bar2 o size) s = .next (s.put (.bar2Read o size (BitVec.ofNat 64 lo)))) ∧
        (o.val = 8 * n + 4 → size = 4 → exec (.rllRead .host .bar2 o size) s = .next (s.put (.bar2Read o size (BitVec.ofNat 64 hi))))) ∧
      (s.cxl.d3 = false → 65536 ≤ o.val → exec (.rllRead .host .bar2 o size) s = .next (s.put (.bar2Read o size 0))))) ∧
  (∀ s : State,
    let serves := s.gen.state = .ready ∨ s.gen.state = .stopped
    let bad : Result := .next { s with asy.status := setFlag s.asy.status 2 }
    (s.reachable = false → exec .asyOpen s = .next s ∧ exec .asyCommit s = .next s) ∧
    (s.writable = false → ∀ v, exec (.asyRefWrite v) s = .next s) ∧
    (s.reachable = true →
      (¬ serves → exec .asyOpen s = bad ∧ exec .asyCommit s = bad) ∧
      (serves → (s.asy.state = .opened → exec .asyOpen s = .next s ∧ exec .asyCommit s = .next { s with asy.state := .committing, asy.waitSweep := true }) ∧
        (s.asy.state = .committing → exec .asyOpen s = .next { s with asy.state := .opened } ∧ exec .asyCommit s = .next s) ∧
        (s.asy.state = .armed ∨ s.asy.state = .fault → exec .asyCommit s = bad ∧ ∃ t, exec .asyOpen s = .next t ∧ t.asy = { s.asy with state := .opened } ∧
          t.gen.stopAssay = true ∧ t.gen.state = .stopped ∧ t.jobs = s.jobs ∧ t.cores = s.cores ∧ t.mem = s.mem))) ∧
    (s.writable = true →
      ∀ v, (s.asy.state = .opened → exec (.asyRefWrite v) s = .next { s with asy.ref := v }) ∧
        (s.asy.state ≠ .opened → exec (.asyRefWrite v) s = .next { s with asy.status := setFlag s.asy.status 1 }))) ∧
  ∀ (s : State) (upTo : Nat) (flips : List (Nat × Fin 16)),
    let j := flips.foldl State.flip s
    let k : State := { j with asy.seen := j.asy.seen ++ ((configRegs.take upTo).drop j.asy.seen.length).map (fun e => j.regValue e.1) }
    let sweep := exec (.assaySweep upTo flips) s
    let crc := crc32c ((configRegs.zip k.asy.seen).flatMap (fun x => le 4 x.1.1 ++ le 4 x.2))
    let a := { k.asy with crc := crc, blockCrc := k.asy.sweepBlocks, words := BitVec.ofNat 32 configRegs.length, seen := [] }
    let runs := s.gen.state ≠ .reset ∧ s.gen.state ≠ .recovery
    (¬ runs → sweep = .next s) ∧
    (runs → k.asy.seen.length ≠ configRegs.length → sweep = .next k) ∧
    (runs → k.asy.seen.length = configRegs.length →
      (k.asy.state = .opened ∨ k.asy.state = .fault → sweep = .next { k with asy := a }) ∧
      (k.asy.state = .committing → k.asy.waitSweep = true → sweep = .next { k with asy := { a with waitSweep := false } }) ∧
      (k.asy.state = .committing → k.asy.waitSweep = false → crc ≠ k.asy.ref →
        sweep = .next { k with asy := { a with state := .opened, status := setFlag k.asy.status 0, faultCrc := crc } }) ∧
      (k.asy.state = .committing → k.asy.waitSweep = false → crc = k.asy.ref → ∃ t, sweep = .next t ∧
        t.asy = { a with state := .armed, snapCrc := k.asy.sweepBlocks, status := setFlag k.asy.status 3, lastRef := k.asy.ref } ∧ t.gen.stopAssay = false ∧
        (s.gen.state = .stopped → s.gen.stopCoolant = false → s.gen.stopHost = false → s.gen.stopViral = false → t.gen.state = .ready)) ∧
      (k.asy.state = .armed → crc = k.asy.ref → sweep = .next { k with asy := a }) ∧
      (k.asy.state = .armed → crc ≠ k.asy.ref → ∃ t, sweep = .next t ∧ t.asy.state = .fault ∧ t.asy.status.getLsbD 0 = true ∧
        t.asy.faultCrc = crc ∧ t.asy.faultTime = s.stamp ∧ t.asy.faultCount = sat s.asy.faultCount ∧ t.gen.stopAssay = true ∧
        (s.gen.state = .ready → t.gen.state = .stopped)))

/-- HOST_STOP sets or removes its stop cause; Viral stops the device and aborts every incomplete item. PERST_N, a loss of the CXL link and the loss of the input leave RESET: no job, strand, ring, item or memory content stays, the part and module flash do; PERST_N and the link's loss first write what Heirloom waits to write and give back the converters and sensors that protection shut out, the input's loss does neither, and an IDE failure is told first. A bring-up begins in RESET alone, and waits there while PERST_N is asserted, the input is out of range or REFCLK has not been valid. With processors that neither crash nor are halted: an image that fails ends it in RECOVERY; without COOLANT_OK it waits before step 3; with COOLANT_OK it waits for the reference before step 5 or for a power fault to pass; a hub or Filigree failure leaves it in BOOTING, a memory that does not train in TRAINING; else it comes to AGREEMENT and on. An agreement that the device master judges again passes to READY or STOPPED with its manifest stored, or stays with its failures reported. Where the spec leaves a choice it takes the one of the model: log 51, 52, 59, 60, 63, 104, 132. -/
def Obligations.StopsResetsAndBringUp : Prop :=
  (∀ (s : State) (on : Bool),
    (s.writable = false → exec (.hostStop on) s = .next s) ∧
    (s.writable = true → ∃ t, exec (.hostStop on) s = .next t ∧ t.gen.stopHost = on ∧
      (s.gen.state = .ready ∨ s.gen.state = .stopped → t.gen.state =
        if s.gen.stopAssay ∨ s.gen.stopCoolant ∨ on ∨ s.gen.stopViral then .stopped else .ready) ∧
      (s.gen.state ≠ .ready → s.gen.state ≠ .stopped → t = { s with gen.stopHost := on }) ∧ t = { s with gen := t.gen, rng := t.rng, out := t.out })) ∧
  (∀ s : State,
    (s.gen.state = .reset → exec .viral s = .next s) ∧
    (s.gen.state ≠ .reset → ∃ t, exec .viral s = .next t ∧ t.gen.stopViral = true ∧ t.cxl.status.getLsbD 3 = true ∧
      (s.gen.state = .ready ∨ s.gen.state = .stopped → t.gen.state = .stopped) ∧ t.mem = s.mem ∧ t.jobs = s.jobs ∧
      ∀ i, s.item? i.tag = some i → i.status = none → ∃ j, t.item? i.tag = some j ∧ j.status = some (0x20, 0x1006))) ∧
  (∀ s : State,
    let gone (t : State) := t.gen.state = .reset ∧ t.jobs = [] ∧ t.strands = [] ∧ t.cores = [] ∧ t.fields = [] ∧ t.lkt.entries = [] ∧ t.fst.slots = [] ∧
      t.rng.rings = [] ∧ t.alm.items = [] ∧ t.mem.bytes = [] ∧ t.asy.state = .opened ∧ t.part = s.part ∧ t.pending = s.pending ∧
      t.cal = State.reset.cal ∧ t.cls.lendEpoch ≠ s.cls.lendEpoch ∧ t.thm.capDev = BitVec.ofNat 16 (moduleCap s.part.variant)
    (∃ t, exec .perstAssert s = .next t ∧ gone t ∧ t.flash = { s.flash with heirloom := s.heirloom, replacement := s.flash.replacement ++ s.replaceDue } ∧
      t.pwr.convOk = ~~~ s.flash.convLost ∧ t.mgmt.manifest = s.mgmt.nextManifest ∧ t.pins = { s.pins with perstLow := true, straps := none } ∧ t.out = s.out) ∧
    (∃ t, exec .inputLockout s = .next t ∧ gone t ∧ t.flash = s.flash ∧ t.pwr.convOk = s.pwr.convOk &&& ~~~ s.flash.convLost ∧ t.pins = s.pins ∧ t.out = s.out) ∧
    (s.gen.state = .reset ∨ s.cxl.down = true → ∀ f, exec (.cxlLinkDown f) s = .next s) ∧
    (s.gen.state ≠ .reset → s.cxl.down = false → ∀ f, ∃ t, exec (.cxlLinkDown f) s = .next t ∧ gone t ∧ t.flash.heirloom = s.heirloom ∧ t.pwr.convOk = ~~~ s.flash.convLost ∧ t.mgmt.manifest = s.mgmt.nextManifest ∧ t.pins = s.pins ∧
      t.out = (if f && (s.sec.ideIo || s.sec.ideCm) then .aer :: s.out else s.out))) ∧
  (∀ (s : State) (b : BringIn),
    let held := (s.pins.perstLow = true ∧ b.released = false) ∨ b.inRange = false
    let invalid := s.pins.refBad = true ∨ b.refValid = false
    let quiet := s.thm.coolantStop = false ∧ s.pwr.faulted = false ∧ b.crashes = [] ∧ ∀ p < 14, (s.proc p).state = .boot
    (s.gen.state ≠ .reset → exec (.bringupStart b) s = .next s) ∧
    (s.gen.state = .reset → held → exec (.bringupStart b) s = .next { s with pins.refBad := s.pins.refBad || !b.refValid }) ∧
    (s.gen.state = .reset → ¬ held → invalid →
      exec (.bringupStart b) s = .next { s with pins.refBad := true, pins.perstLow := false, gen.bringup := some b }) ∧
    (s.gen.state = .reset → ¬ held → ¬ invalid → quiet →
      (s.imagesPass b = false → ∃ t, exec (.bringupStart b) s = .next t ∧ t.gen.state = .recovery ∧ t.jobs = [] ∧ t.mem.bytes = [] ∧ t.flash = s.flash ∧ t.part = s.part) ∧
      (s.imagesPass b = true → b.coolant = false → ∃ t, exec (.bringupStart b) s = .next t ∧ t.gen.state = .booting ∧
        t.gen.bringStep = 3 ∧ t.gen.bringup = some b ∧ t.gen.straps = s.pins.straps.getD b.straps ∧ t.pins.straps = some t.gen.straps ∧
        t.cxl.width = (if b.cxlNegotiated ∧ (b.cxlWidth = 8 ∨ b.cxlWidth = 16) then BitVec.ofNat 8 b.cxlWidth else 0) ∧
        (t.cxl.down = false ↔ b.cxlNegotiated = true ∧ (b.cxlWidth = 8 ∨ b.cxlWidth = 16)) ∧
        (t.proc 0).state = .running ∧ (t.region 120).state = .on ∧ t.jobs = s.jobs ∧ t.mem = s.mem) ∧
      (s.imagesPass b = true → b.coolant = true → s.clk.ref ≠ .locked → ∃ t, exec (.bringupStart b) s = .next t ∧
        t.gen.state = .booting ∧ (t.gen.bringStep = 5 ∨ (t.gen.bringStep = 3 ∧ t.pwr.faulted = true)) ∧ (t.proc 13).state = .running ∧
        t.jobs = s.jobs ∧ t.mem = s.mem) ∧
      (s.imagesPass b = true → b.coolant = true → s.clk.ref = .locked → ∃ t, exec (.bringupStart b) s = .next t ∧
        ((t.gen.state = .booting ∧ t.gen.bringStep = 3 ∧ t.pwr.faulted = true) ∨
          ((b.hubFail = true → t.gen.state = .booting ∧ t.gen.bringStep = 0) ∧
            (b.hubFail = false → b.filFail = [] → (∃ i < 36, i ∈ b.trainFail ∧ i ∈ b.fastFail) → t.gen.state = .training ∧ t.gen.bringStep = 0) ∧
            (b.hubFail = false → b.filFail = [] → b.trainFail = [] →
              t.gen.bringStep = 0 ∧ (t.gen.state = .agreement ∨ t.gen.state = .stopped ∨ t.gen.state = .ready))))))) ∧
  ∀ s : State,
    (s.gen.state ≠ .agreement ∨ s.thm.coolantStop = true ∨ (s.proc 0).state ≠ .running → exec .agreementRecheck s = .next s) ∧
    (s.gen.state = .agreement → s.thm.coolantStop = false → (s.proc 0).state = .running →
      let bad := match s.manifest with | some m => s.disagreements m | none => 0
      (bad = 0 → ∃ t, exec .agreementRecheck s = .next t ∧ t.gen.agree = 0x80 ∧ t.flash = { s.flash with manifest := s.manifest } ∧
        t.gen.floorplanSeq = sat s.gen.floorplanSeq ∧ t.gen.stopAssay = decide (s.asy.state ≠ .armed) ∧
        t.gen.state = (if s.asy.state ≠ .armed ∨ s.gen.stopCoolant ∨ s.gen.stopHost ∨ s.gen.stopViral then .stopped else .ready)) ∧
      (bad ≠ 0 → ∃ t, exec .agreementRecheck s = .next t ∧ t.gen.state = .agreement ∧ t.gen.agree = BitVec.ofNat 8 bad ∧
        t.gen.floorplanSeq = sat s.gen.floorplanSeq ∧ t = { s with gen := t.gen }))

/-! ## The whole machine -/

/-- The byte stores of the machine after reset are in canonical form, and no command waits. Where the spec leaves a choice it takes the one of the model: log 1, 4. -/
def Obligations.ResetIsTidy : Prop := Safety.Tidy State.reset ∧ State.reset.pending = [] ∧ State.reset.gen.state = .reset

/-- Every step keeps every byte store in its canonical form: the scratchpads, the slices and module memory list their addresses strictly rising, and scratchpads and slices list no zero byte, so that equal contents are equal data. Where the spec leaves a choice it takes the one of the model: log 4. -/
def Obligations.EveryStepKeepsTheStoresTidy : Prop := ∀ s t : State, Safety.Tidy s → step s = .next t → Safety.Tidy t

/-- Whatever the command, a step leaves the part what it is: variant, stepping, serial, fused voltage floors, identity key and ROM version; and no step ever takes back a blown fuse of a minimum SVN, a RESET, a RECOVERY and a firmware update among them. -/
def Obligations.EveryStepKeepsThePartAndItsFuses : Prop := ∀ s t : State, step s = .next t → Safety.SamePart s t ∧ Safety.FusesKept s t
end

