-- ==== Sys2Proof/Laws/State.lean ====
section
/-! SUPPORT. Field by field, what the named updates of the state leave alone and what they write: each lemma is true
by unfolding, so that no later proof unfolds a record update. -/

namespace Sys2Proof.Machine

/-! ## Tables -/

/-- What a listed entry reads as, and what every other number reads as. -/
theorem tget?_tput {α : Type} (t : Tab α) (k j : Nat) (v : α) :
    tget? (tput t k v) j = if j = k then some v else tget? t j := by
  induction t with
  | nil =>
    by_cases h : j = k
    · simp [tput, tget?, h]
    · simp [tput, tget?, h, Ne.symm h]
  | cons e t ih =>
    simp only [tput]
    by_cases h1 : k < e.1
    · rw [if_pos h1]
      by_cases h : j = k
      · simp [tget?, h]
      · simp [tget?, h, List.find?_cons, Ne.symm h]
    · rw [if_neg h1]
      by_cases h2 : k = e.1
      · rw [if_pos h2]
        by_cases h : j = k
        · simp [tget?, h]
        · have : ¬ e.1 = j := fun h' => h (by omega)
          have : ¬ k = j := fun h' => h h'.symm
          simp_all [tget?]
      · rw [if_neg h2]
        by_cases h3 : e.1 = j
        · have : ¬ j = k := by omega
          simp [tget?, h3, this]
        · simpa [tget?, List.find?_cons, h3] using ih

@[simp] theorem tget?_tput_same {α : Type} (t : Tab α) (k : Nat) (v : α) : tget? (tput t k v) k = some v := by
  simp [tget?_tput]

theorem tget?_tput_other {α : Type} (t : Tab α) (k j : Nat) (v : α) (h : j ≠ k) :
    tget? (tput t k v) j = tget? t j := by simp [tget?_tput, h]

theorem tget_tput {α : Type} (t : Tab α) (k j : Nat) (v d : α) :
    tget (tput t k v) j d = if j = k then v else tget t j d := by
  by_cases h : j = k <;> simp [tget, tget?_tput, h]

@[simp] theorem tget_tput_same {α : Type} (t : Tab α) (k : Nat) (v d : α) : tget (tput t k v) k d = v := by
  simp [tget]

theorem tget_tput_other {α : Type} (t : Tab α) (k j : Nat) (v d : α) (h : j ≠ k) :
    tget (tput t k v) j d = tget t j d := by simp [tget_tput, h]

@[simp] theorem tget?_nil {α : Type} (j : Nat) : tget? ([] : Tab α) j = none := rfl
@[simp] theorem tget_nil {α : Type} (j : Nat) (d : α) : tget ([] : Tab α) j d = d := rfl

theorem tget?_tdel {α : Type} (t : Tab α) (k j : Nat) :
    tget? (tdel t k) j = if j = k then none else tget? t j := by
  induction t with
  | nil => simp [tdel]
  | cons e t ih =>
    simp only [tdel, List.filter_cons] at ih ⊢
    by_cases h : e.1 = k
    · simp only [h, bne_self_eq_false, Bool.false_eq_true, ↓reduceIte, ih]
      by_cases h' : j = k
      · simp [h']
      · have : ¬ e.1 = j := by omega
        simp [tget?, this, h']
    · have hb : (e.1 != k) = true := by simpa using h
      rw [if_pos hb]
      by_cases h3 : e.1 = j
      · have : ¬ j = k := by omega
        simp [tget?, h3, this]
      · simpa [tget?, List.find?_cons, h3] using ih

theorem tget?_tmap {α β : Type} (t : Tab α) (f : Nat → α → β) (j : Nat) : tget? (tmap t f) j = (tget? t j).map (f j) := by
  induction t with
  | nil => rfl
  | cons e t ih =>
    unfold tget? tmap at ih ⊢
    by_cases h : e.1 = j
    · simp [h]
    · rw [List.map_cons, List.find?_cons_of_neg (by simpa using h), List.find?_cons_of_neg (by simpa using h), ih]

/-! ## Units -/

@[simp] theorem core_setCore (s : State) (n m : Nat) (v : CoreSt) : (s.setCore n v).core m = if m = n then v else s.core m := by
  simp [State.core, State.setCore, tget_tput]
@[simp] theorem core_modCore (s : State) (n m : Nat) (f : CoreSt → CoreSt) : (s.modCore n f).core m = if m = n then f (s.core n) else s.core m := by
  simp [State.modCore]

@[simp] theorem field_setField (s : State) (n m : Nat) (v : FieldSt) : (s.setField n v).field m = if m = n then v else s.field m := by
  simp [State.field, State.setField, tget_tput]
@[simp] theorem field_modField (s : State) (n m : Nat) (f : FieldSt → FieldSt) : (s.modField n f).field m = if m = n then f (s.field n) else s.field m := by
  simp [State.modField]

@[simp] theorem loupe_setLoupe (s : State) (n m : Nat) (v : LoupeSt) : (s.setLoupe n v).loupe m = if m = n then v else s.loupe m := by
  simp [State.loupe, State.setLoupe, tget_tput]
@[simp] theorem loupe_modLoupe (s : State) (n m : Nat) (f : LoupeSt → LoupeSt) : (s.modLoupe n f).loupe m = if m = n then f (s.loupe n) else s.loupe m := by
  simp [State.modLoupe]

@[simp] theorem ring_setRing (s : State) (n m : Nat) (v : RingSt) : (s.setRing n v).ring m = if m = n then v else s.ring m := by
  simp [State.ring, State.setRing, tget_tput]
@[simp] theorem ring_modRing (s : State) (n m : Nat) (f : RingSt → RingSt) : (s.modRing n f).ring m = if m = n then f (s.ring n) else s.ring m := by
  simp [State.modRing]

@[simp] theorem region_setRegion (s : State) (n m : Nat) (v : RegionSt) : (s.setRegion n v).region m = if m = n then v else s.region m := by
  simp [State.region, State.setRegion, tget_tput]
@[simp] theorem region_modRegion (s : State) (n m : Nat) (f : RegionSt → RegionSt) : (s.modRegion n f).region m = if m = n then f (s.region n) else s.region m := by
  simp [State.modRegion]

@[simp] theorem link_setLink (s : State) (n m : Nat) (v : LinkSt) : (s.setLink n v).link m = if m = n then v else s.link m := by
  simp [State.link, State.setLink, tget_tput]
@[simp] theorem link_modLink (s : State) (n m : Nat) (f : LinkSt → LinkSt) : (s.modLink n f).link m = if m = n then f (s.link n) else s.link m := by
  simp [State.modLink]

@[simp] theorem proc_setProc (s : State) (n m : Nat) (v : ProcSt) : (s.setProc n v).proc m = if m = n then v else s.proc m := by
  simp [State.proc, State.setProc, tget_tput]
@[simp] theorem proc_modProc (s : State) (n m : Nat) (f : ProcSt → ProcSt) : (s.modProc n f).proc m = if m = n then f (s.proc n) else s.proc m := by
  simp [State.modProc]

@[simp] theorem slot_setSlot (s : State) (n m : Nat) (v : SlotSt) : (s.setSlot n v).slot m = if m = n then v else s.slot m := by
  simp [State.slot, State.setSlot, tget_tput]
@[simp] theorem slot_modSlot (s : State) (n m : Nat) (f : SlotSt → SlotSt) : (s.modSlot n f).slot m = if m = n then f (s.slot n) else s.slot m := by
  simp [State.modSlot]

@[simp] theorem entry_setEntry (s : State) (n m : Nat) (v : LktEntry) : (s.setEntry n v).entry m = if m = n then v else s.entry m := by
  simp [State.entry, State.setEntry, tget_tput]

@[simp] theorem job?_setJob (s : State) (n m : Nat) (v : JobSt) : (s.setJob n v).job? m = if m = n then some v else s.job? m := by
  simp [State.job?, State.setJob, tget?_tput]

@[simp] theorem strand?_setStrand (s : State) (n m : Nat) (v : StrandSt) : (s.setStrand n v).strand? m = if m = n then some v else s.strand? m := by
  simp [State.strand?, State.setStrand, tget?_tput]

/-! ## What an update of one unit leaves alone -/

@[simp] theorem setCore_part (s : State) (n : Nat) (v : CoreSt) : (s.setCore n v).part = s.part := rfl
@[simp] theorem setCore_flash (s : State) (n : Nat) (v : CoreSt) : (s.setCore n v).flash = s.flash := rfl
@[simp] theorem setCore_pins (s : State) (n : Nat) (v : CoreSt) : (s.setCore n v).pins = s.pins := rfl
@[simp] theorem setCore_cal (s : State) (n : Nat) (v : CoreSt) : (s.setCore n v).cal = s.cal := rfl
@[simp] theorem setCore_gen (s : State) (n : Nat) (v : CoreSt) : (s.setCore n v).gen = s.gen := rfl
@[simp] theorem setCore_regsShadow (s : State) (n : Nat) (v : CoreSt) : (s.setCore n v).regsShadow = s.regsShadow := rfl
@[simp] theorem setCore_asy (s : State) (n : Nat) (v : CoreSt) : (s.setCore n v).asy = s.asy := rfl
@[simp] theorem setCore_clk (s : State) (n : Nat) (v : CoreSt) : (s.setCore n v).clk = s.clk := rfl
@[simp] theorem setCore_pwr (s : State) (n : Nat) (v : CoreSt) : (s.setCore n v).pwr = s.pwr := rfl
@[simp] theorem setCore_thm (s : State) (n : Nat) (v : CoreSt) : (s.setCore n v).thm = s.thm := rfl
@[simp] theorem setCore_alm (s : State) (n : Nat) (v : CoreSt) : (s.setCore n v).alm = s.alm := rfl
@[simp] theorem setCore_lkt (s : State) (n : Nat) (v : CoreSt) : (s.setCore n v).lkt = s.lkt := rfl
@[simp] theorem setCore_fst (s : State) (n : Nat) (v : CoreSt) : (s.setCore n v).fst = s.fst := rfl
@[simp] theorem setCore_lou (s : State) (n : Nat) (v : CoreSt) : (s.setCore n v).lou = s.lou := rfl
@[simp] theorem setCore_cxl (s : State) (n : Nat) (v : CoreSt) : (s.setCore n v).cxl = s.cxl := rfl
@[simp] theorem setCore_rng (s : State) (n : Nat) (v : CoreSt) : (s.setCore n v).rng = s.rng := rfl
@[simp] theorem setCore_cls (s : State) (n : Nat) (v : CoreSt) : (s.setCore n v).cls = s.cls := rfl
@[simp] theorem setCore_mgmt (s : State) (n : Nat) (v : CoreSt) : (s.setCore n v).mgmt = s.mgmt := rfl
@[simp] theorem setCore_sec (s : State) (n : Nat) (v : CoreSt) : (s.setCore n v).sec = s.sec := rfl
@[simp] theorem setCore_fields (s : State) (n : Nat) (v : CoreSt) : (s.setCore n v).fields = s.fields := rfl
@[simp] theorem setCore_jobs (s : State) (n : Nat) (v : CoreSt) : (s.setCore n v).jobs = s.jobs := rfl
@[simp] theorem setCore_strands (s : State) (n : Nat) (v : CoreSt) : (s.setCore n v).strands = s.strands := rfl
@[simp] theorem setCore_mem (s : State) (n : Nat) (v : CoreSt) : (s.setCore n v).mem = s.mem := rfl
@[simp] theorem setCore_heirloom (s : State) (n : Nat) (v : CoreSt) : (s.setCore n v).heirloom = s.heirloom := rfl
@[simp] theorem setCore_hwCounts (s : State) (n : Nat) (v : CoreSt) : (s.setCore n v).hwCounts = s.hwCounts := rfl
@[simp] theorem setCore_opTime (s : State) (n : Nat) (v : CoreSt) : (s.setCore n v).opTime = s.opTime := rfl
@[simp] theorem setCore_hwQueue (s : State) (n : Nat) (v : CoreSt) : (s.setCore n v).hwQueue = s.hwQueue := rfl
@[simp] theorem setCore_replaceDue (s : State) (n : Nat) (v : CoreSt) : (s.setCore n v).replaceDue = s.replaceDue := rfl
@[simp] theorem setCore_out (s : State) (n : Nat) (v : CoreSt) : (s.setCore n v).out = s.out := rfl
@[simp] theorem setCore_free (s : State) (n : Nat) (v : CoreSt) : (s.setCore n v).free = s.free := rfl
@[simp] theorem setCore_pending (s : State) (n : Nat) (v : CoreSt) : (s.setCore n v).pending = s.pending := rfl

@[simp] theorem setField_part (s : State) (n : Nat) (v : FieldSt) : (s.setField n v).part = s.part := rfl
@[simp] theorem setField_flash (s : State) (n : Nat) (v : FieldSt) : (s.setField n v).flash = s.flash := rfl
@[simp] theorem setField_pins (s : State) (n : Nat) (v : FieldSt) : (s.setField n v).pins = s.pins := rfl
@[simp] theorem setField_cal (s : State) (n : Nat) (v : FieldSt) : (s.setField n v).cal = s.cal := rfl
@[simp] theorem setField_gen (s : State) (n : Nat) (v : FieldSt) : (s.setField n v).gen = s.gen := rfl
@[simp] theorem setField_regsShadow (s : State) (n : Nat) (v : FieldSt) : (s.setField n v).regsShadow = s.regsShadow := rfl
@[simp] theorem setField_asy (s : State) (n : Nat) (v : FieldSt) : (s.setField n v).asy = s.asy := rfl
@[simp] theorem setField_clk (s : State) (n : Nat) (v : FieldSt) : (s.setField n v).clk = s.clk := rfl
@[simp] theorem setField_pwr (s : State) (n : Nat) (v : FieldSt) : (s.setField n v).pwr = s.pwr := rfl
@[simp] theorem setField_thm (s : State) (n : Nat) (v : FieldSt) : (s.setField n v).thm = s.thm := rfl
@[simp] theorem setField_alm (s : State) (n : Nat) (v : FieldSt) : (s.setField n v).alm = s.alm := rfl
@[simp] theorem setField_lkt (s : State) (n : Nat) (v : FieldSt) : (s.setField n v).lkt = s.lkt := rfl
@[simp] theorem setField_fst (s : State) (n : Nat) (v : FieldSt) : (s.setField n v).fst = s.fst := rfl
@[simp] theorem setField_lou (s : State) (n : Nat) (v : FieldSt) : (s.setField n v).lou = s.lou := rfl
@[simp] theorem setField_cxl (s : State) (n : Nat) (v : FieldSt) : (s.setField n v).cxl = s.cxl := rfl
@[simp] theorem setField_rng (s : State) (n : Nat) (v : FieldSt) : (s.setField n v).rng = s.rng := rfl
@[simp] theorem setField_cls (s : State) (n : Nat) (v : FieldSt) : (s.setField n v).cls = s.cls := rfl
@[simp] theorem setField_mgmt (s : State) (n : Nat) (v : FieldSt) : (s.setField n v).mgmt = s.mgmt := rfl
@[simp] theorem setField_sec (s : State) (n : Nat) (v : FieldSt) : (s.setField n v).sec = s.sec := rfl
@[simp] theorem setField_cores (s : State) (n : Nat) (v : FieldSt) : (s.setField n v).cores = s.cores := rfl
@[simp] theorem setField_jobs (s : State) (n : Nat) (v : FieldSt) : (s.setField n v).jobs = s.jobs := rfl
@[simp] theorem setField_strands (s : State) (n : Nat) (v : FieldSt) : (s.setField n v).strands = s.strands := rfl
@[simp] theorem setField_mem (s : State) (n : Nat) (v : FieldSt) : (s.setField n v).mem = s.mem := rfl
@[simp] theorem setField_heirloom (s : State) (n : Nat) (v : FieldSt) : (s.setField n v).heirloom = s.heirloom := rfl
@[simp] theorem setField_hwCounts (s : State) (n : Nat) (v : FieldSt) : (s.setField n v).hwCounts = s.hwCounts := rfl
@[simp] theorem setField_opTime (s : State) (n : Nat) (v : FieldSt) : (s.setField n v).opTime = s.opTime := rfl
@[simp] theorem setField_hwQueue (s : State) (n : Nat) (v : FieldSt) : (s.setField n v).hwQueue = s.hwQueue := rfl
@[simp] theorem setField_replaceDue (s : State) (n : Nat) (v : FieldSt) : (s.setField n v).replaceDue = s.replaceDue := rfl
@[simp] theorem setField_out (s : State) (n : Nat) (v : FieldSt) : (s.setField n v).out = s.out := rfl
@[simp] theorem setField_free (s : State) (n : Nat) (v : FieldSt) : (s.setField n v).free = s.free := rfl
@[simp] theorem setField_pending (s : State) (n : Nat) (v : FieldSt) : (s.setField n v).pending = s.pending := rfl

@[simp] theorem setLoupe_part (s : State) (n : Nat) (v : LoupeSt) : (s.setLoupe n v).part = s.part := rfl
@[simp] theorem setLoupe_flash (s : State) (n : Nat) (v : LoupeSt) : (s.setLoupe n v).flash = s.flash := rfl
@[simp] theorem setLoupe_pins (s : State) (n : Nat) (v : LoupeSt) : (s.setLoupe n v).pins = s.pins := rfl
@[simp] theorem setLoupe_cal (s : State) (n : Nat) (v : LoupeSt) : (s.setLoupe n v).cal = s.cal := rfl
@[simp] theorem setLoupe_gen (s : State) (n : Nat) (v : LoupeSt) : (s.setLoupe n v).gen = s.gen := rfl
@[simp] theorem setLoupe_regsShadow (s : State) (n : Nat) (v : LoupeSt) : (s.setLoupe n v).regsShadow = s.regsShadow := rfl
@[simp] theorem setLoupe_asy (s : State) (n : Nat) (v : LoupeSt) : (s.setLoupe n v).asy = s.asy := rfl
@[simp] theorem setLoupe_clk (s : State) (n : Nat) (v : LoupeSt) : (s.setLoupe n v).clk = s.clk := rfl
@[simp] theorem setLoupe_pwr (s : State) (n : Nat) (v : LoupeSt) : (s.setLoupe n v).pwr = s.pwr := rfl
@[simp] theorem setLoupe_thm (s : State) (n : Nat) (v : LoupeSt) : (s.setLoupe n v).thm = s.thm := rfl
@[simp] theorem setLoupe_alm (s : State) (n : Nat) (v : LoupeSt) : (s.setLoupe n v).alm = s.alm := rfl
@[simp] theorem setLoupe_lkt (s : State) (n : Nat) (v : LoupeSt) : (s.setLoupe n v).lkt = s.lkt := rfl
@[simp] theorem setLoupe_fst (s : State) (n : Nat) (v : LoupeSt) : (s.setLoupe n v).fst = s.fst := rfl
@[simp] theorem setLoupe_cxl (s : State) (n : Nat) (v : LoupeSt) : (s.setLoupe n v).cxl = s.cxl := rfl
@[simp] theorem setLoupe_rng (s : State) (n : Nat) (v : LoupeSt) : (s.setLoupe n v).rng = s.rng := rfl
@[simp] theorem setLoupe_cls (s : State) (n : Nat) (v : LoupeSt) : (s.setLoupe n v).cls = s.cls := rfl
@[simp] theorem setLoupe_mgmt (s : State) (n : Nat) (v : LoupeSt) : (s.setLoupe n v).mgmt = s.mgmt := rfl
@[simp] theorem setLoupe_sec (s : State) (n : Nat) (v : LoupeSt) : (s.setLoupe n v).sec = s.sec := rfl
@[simp] theorem setLoupe_cores (s : State) (n : Nat) (v : LoupeSt) : (s.setLoupe n v).cores = s.cores := rfl
@[simp] theorem setLoupe_fields (s : State) (n : Nat) (v : LoupeSt) : (s.setLoupe n v).fields = s.fields := rfl
@[simp] theorem setLoupe_jobs (s : State) (n : Nat) (v : LoupeSt) : (s.setLoupe n v).jobs = s.jobs := rfl
@[simp] theorem setLoupe_strands (s : State) (n : Nat) (v : LoupeSt) : (s.setLoupe n v).strands = s.strands := rfl
@[simp] theorem setLoupe_mem (s : State) (n : Nat) (v : LoupeSt) : (s.setLoupe n v).mem = s.mem := rfl
@[simp] theorem setLoupe_heirloom (s : State) (n : Nat) (v : LoupeSt) : (s.setLoupe n v).heirloom = s.heirloom := rfl
@[simp] theorem setLoupe_hwCounts (s : State) (n : Nat) (v : LoupeSt) : (s.setLoupe n v).hwCounts = s.hwCounts := rfl
@[simp] theorem setLoupe_opTime (s : State) (n : Nat) (v : LoupeSt) : (s.setLoupe n v).opTime = s.opTime := rfl
@[simp] theorem setLoupe_hwQueue (s : State) (n : Nat) (v : LoupeSt) : (s.setLoupe n v).hwQueue = s.hwQueue := rfl
@[simp] theorem setLoupe_replaceDue (s : State) (n : Nat) (v : LoupeSt) : (s.setLoupe n v).replaceDue = s.replaceDue := rfl
@[simp] theorem setLoupe_out (s : State) (n : Nat) (v : LoupeSt) : (s.setLoupe n v).out = s.out := rfl
@[simp] theorem setLoupe_free (s : State) (n : Nat) (v : LoupeSt) : (s.setLoupe n v).free = s.free := rfl
@[simp] theorem setLoupe_pending (s : State) (n : Nat) (v : LoupeSt) : (s.setLoupe n v).pending = s.pending := rfl

@[simp] theorem setRing_part (s : State) (n : Nat) (v : RingSt) : (s.setRing n v).part = s.part := rfl
@[simp] theorem setRing_flash (s : State) (n : Nat) (v : RingSt) : (s.setRing n v).flash = s.flash := rfl
@[simp] theorem setRing_pins (s : State) (n : Nat) (v : RingSt) : (s.setRing n v).pins = s.pins := rfl
@[simp] theorem setRing_cal (s : State) (n : Nat) (v : RingSt) : (s.setRing n v).cal = s.cal := rfl
@[simp] theorem setRing_gen (s : State) (n : Nat) (v : RingSt) : (s.setRing n v).gen = s.gen := rfl
@[simp] theorem setRing_regsShadow (s : State) (n : Nat) (v : RingSt) : (s.setRing n v).regsShadow = s.regsShadow := rfl
@[simp] theorem setRing_asy (s : State) (n : Nat) (v : RingSt) : (s.setRing n v).asy = s.asy := rfl
@[simp] theorem setRing_clk (s : State) (n : Nat) (v : RingSt) : (s.setRing n v).clk = s.clk := rfl
@[simp] theorem setRing_pwr (s : State) (n : Nat) (v : RingSt) : (s.setRing n v).pwr = s.pwr := rfl
@[simp] theorem setRing_thm (s : State) (n : Nat) (v : RingSt) : (s.setRing n v).thm = s.thm := rfl
@[simp] theorem setRing_alm (s : State) (n : Nat) (v : RingSt) : (s.setRing n v).alm = s.alm := rfl
@[simp] theorem setRing_lkt (s : State) (n : Nat) (v : RingSt) : (s.setRing n v).lkt = s.lkt := rfl
@[simp] theorem setRing_fst (s : State) (n : Nat) (v : RingSt) : (s.setRing n v).fst = s.fst := rfl
@[simp] theorem setRing_lou (s : State) (n : Nat) (v : RingSt) : (s.setRing n v).lou = s.lou := rfl
@[simp] theorem setRing_cxl (s : State) (n : Nat) (v : RingSt) : (s.setRing n v).cxl = s.cxl := rfl
@[simp] theorem setRing_cls (s : State) (n : Nat) (v : RingSt) : (s.setRing n v).cls = s.cls := rfl
@[simp] theorem setRing_mgmt (s : State) (n : Nat) (v : RingSt) : (s.setRing n v).mgmt = s.mgmt := rfl
@[simp] theorem setRing_sec (s : State) (n : Nat) (v : RingSt) : (s.setRing n v).sec = s.sec := rfl
@[simp] theorem setRing_cores (s : State) (n : Nat) (v : RingSt) : (s.setRing n v).cores = s.cores := rfl
@[simp] theorem setRing_fields (s : State) (n : Nat) (v : RingSt) : (s.setRing n v).fields = s.fields := rfl
@[simp] theorem setRing_jobs (s : State) (n : Nat) (v : RingSt) : (s.setRing n v).jobs = s.jobs := rfl
@[simp] theorem setRing_strands (s : State) (n : Nat) (v : RingSt) : (s.setRing n v).strands = s.strands := rfl
@[simp] theorem setRing_mem (s : State) (n : Nat) (v : RingSt) : (s.setRing n v).mem = s.mem := rfl
@[simp] theorem setRing_heirloom (s : State) (n : Nat) (v : RingSt) : (s.setRing n v).heirloom = s.heirloom := rfl
@[simp] theorem setRing_hwCounts (s : State) (n : Nat) (v : RingSt) : (s.setRing n v).hwCounts = s.hwCounts := rfl
@[simp] theorem setRing_opTime (s : State) (n : Nat) (v : RingSt) : (s.setRing n v).opTime = s.opTime := rfl
@[simp] theorem setRing_hwQueue (s : State) (n : Nat) (v : RingSt) : (s.setRing n v).hwQueue = s.hwQueue := rfl
@[simp] theorem setRing_replaceDue (s : State) (n : Nat) (v : RingSt) : (s.setRing n v).replaceDue = s.replaceDue := rfl
@[simp] theorem setRing_out (s : State) (n : Nat) (v : RingSt) : (s.setRing n v).out = s.out := rfl
@[simp] theorem setRing_free (s : State) (n : Nat) (v : RingSt) : (s.setRing n v).free = s.free := rfl
@[simp] theorem setRing_pending (s : State) (n : Nat) (v : RingSt) : (s.setRing n v).pending = s.pending := rfl
@[simp] theorem setRing_rng_rr (s : State) (n : Nat) (v : RingSt) : (s.setRing n v).rng.rr = s.rng.rr := rfl
@[simp] theorem setRing_rng_msix (s : State) (n : Nat) (v : RingSt) : (s.setRing n v).rng.msix = s.rng.msix := rfl
@[simp] theorem setRing_rng_pba (s : State) (n : Nat) (v : RingSt) : (s.setRing n v).rng.pba = s.rng.pba := rfl
@[simp] theorem setRing_rng_coalesce (s : State) (n : Nat) (v : RingSt) : (s.setRing n v).rng.coalesce = s.rng.coalesce := rfl
@[simp] theorem setRing_rng_msixOn (s : State) (n : Nat) (v : RingSt) : (s.setRing n v).rng.msixOn = s.rng.msixOn := rfl
@[simp] theorem setRing_rng_msixMask (s : State) (n : Nat) (v : RingSt) : (s.setRing n v).rng.msixMask = s.rng.msixMask := rfl
@[simp] theorem setRing_rng_haltDue (s : State) (n : Nat) (v : RingSt) : (s.setRing n v).rng.haltDue = s.rng.haltDue := rfl

@[simp] theorem setRegion_part (s : State) (n : Nat) (v : RegionSt) : (s.setRegion n v).part = s.part := rfl
@[simp] theorem setRegion_flash (s : State) (n : Nat) (v : RegionSt) : (s.setRegion n v).flash = s.flash := rfl
@[simp] theorem setRegion_pins (s : State) (n : Nat) (v : RegionSt) : (s.setRegion n v).pins = s.pins := rfl
@[simp] theorem setRegion_cal (s : State) (n : Nat) (v : RegionSt) : (s.setRegion n v).cal = s.cal := rfl
@[simp] theorem setRegion_gen (s : State) (n : Nat) (v : RegionSt) : (s.setRegion n v).gen = s.gen := rfl
@[simp] theorem setRegion_regsShadow (s : State) (n : Nat) (v : RegionSt) : (s.setRegion n v).regsShadow = s.regsShadow := rfl
@[simp] theorem setRegion_asy (s : State) (n : Nat) (v : RegionSt) : (s.setRegion n v).asy = s.asy := rfl
@[simp] theorem setRegion_clk (s : State) (n : Nat) (v : RegionSt) : (s.setRegion n v).clk = s.clk := rfl
@[simp] theorem setRegion_thm (s : State) (n : Nat) (v : RegionSt) : (s.setRegion n v).thm = s.thm := rfl
@[simp] theorem setRegion_alm (s : State) (n : Nat) (v : RegionSt) : (s.setRegion n v).alm = s.alm := rfl
@[simp] theorem setRegion_lkt (s : State) (n : Nat) (v : RegionSt) : (s.setRegion n v).lkt = s.lkt := rfl
@[simp] theorem setRegion_fst (s : State) (n : Nat) (v : RegionSt) : (s.setRegion n v).fst = s.fst := rfl
@[simp] theorem setRegion_lou (s : State) (n : Nat) (v : RegionSt) : (s.setRegion n v).lou = s.lou := rfl
@[simp] theorem setRegion_cxl (s : State) (n : Nat) (v : RegionSt) : (s.setRegion n v).cxl = s.cxl := rfl
@[simp] theorem setRegion_rng (s : State) (n : Nat) (v : RegionSt) : (s.setRegion n v).rng = s.rng := rfl
@[simp] theorem setRegion_cls (s : State) (n : Nat) (v : RegionSt) : (s.setRegion n v).cls = s.cls := rfl
@[simp] theorem setRegion_mgmt (s : State) (n : Nat) (v : RegionSt) : (s.setRegion n v).mgmt = s.mgmt := rfl
@[simp] theorem setRegion_sec (s : State) (n : Nat) (v : RegionSt) : (s.setRegion n v).sec = s.sec := rfl
@[simp] theorem setRegion_cores (s : State) (n : Nat) (v : RegionSt) : (s.setRegion n v).cores = s.cores := rfl
@[simp] theorem setRegion_fields (s : State) (n : Nat) (v : RegionSt) : (s.setRegion n v).fields = s.fields := rfl
@[simp] theorem setRegion_jobs (s : State) (n : Nat) (v : RegionSt) : (s.setRegion n v).jobs = s.jobs := rfl
@[simp] theorem setRegion_strands (s : State) (n : Nat) (v : RegionSt) : (s.setRegion n v).strands = s.strands := rfl
@[simp] theorem setRegion_mem (s : State) (n : Nat) (v : RegionSt) : (s.setRegion n v).mem = s.mem := rfl
@[simp] theorem setRegion_heirloom (s : State) (n : Nat) (v : RegionSt) : (s.setRegion n v).heirloom = s.heirloom := rfl
@[simp] theorem setRegion_hwCounts (s : State) (n : Nat) (v : RegionSt) : (s.setRegion n v).hwCounts = s.hwCounts := rfl
@[simp] theorem setRegion_opTime (s : State) (n : Nat) (v : RegionSt) : (s.setRegion n v).opTime = s.opTime := rfl
@[simp] theorem setRegion_hwQueue (s : State) (n : Nat) (v : RegionSt) : (s.setRegion n v).hwQueue = s.hwQueue := rfl
@[simp] theorem setRegion_replaceDue (s : State) (n : Nat) (v : RegionSt) : (s.setRegion n v).replaceDue = s.replaceDue := rfl
@[simp] theorem setRegion_out (s : State) (n : Nat) (v : RegionSt) : (s.setRegion n v).out = s.out := rfl
@[simp] theorem setRegion_free (s : State) (n : Nat) (v : RegionSt) : (s.setRegion n v).free = s.free := rfl
@[simp] theorem setRegion_pending (s : State) (n : Nat) (v : RegionSt) : (s.setRegion n v).pending = s.pending := rfl
@[simp] theorem setRegion_pwr_park (s : State) (n : Nat) (v : RegionSt) : (s.setRegion n v).pwr.park = s.pwr.park := rfl
@[simp] theorem setRegion_pwr_status (s : State) (n : Nat) (v : RegionSt) : (s.setRegion n v).pwr.status = s.pwr.status := rfl
@[simp] theorem setRegion_pwr_convOk (s : State) (n : Nat) (v : RegionSt) : (s.setRegion n v).pwr.convOk = s.pwr.convOk := rfl
@[simp] theorem setRegion_pwr_lwField (s : State) (n : Nat) (v : RegionSt) : (s.setRegion n v).pwr.lwField = s.pwr.lwField := rfl
@[simp] theorem setRegion_pwr_lwDev (s : State) (n : Nat) (v : RegionSt) : (s.setRegion n v).pwr.lwDev = s.pwr.lwDev := rfl
@[simp] theorem setRegion_pwr_faulted (s : State) (n : Nat) (v : RegionSt) : (s.setRegion n v).pwr.faulted = s.pwr.faulted := rfl

@[simp] theorem setLink_part (s : State) (n : Nat) (v : LinkSt) : (s.setLink n v).part = s.part := rfl
@[simp] theorem setLink_flash (s : State) (n : Nat) (v : LinkSt) : (s.setLink n v).flash = s.flash := rfl
@[simp] theorem setLink_pins (s : State) (n : Nat) (v : LinkSt) : (s.setLink n v).pins = s.pins := rfl
@[simp] theorem setLink_cal (s : State) (n : Nat) (v : LinkSt) : (s.setLink n v).cal = s.cal := rfl
@[simp] theorem setLink_gen (s : State) (n : Nat) (v : LinkSt) : (s.setLink n v).gen = s.gen := rfl
@[simp] theorem setLink_regsShadow (s : State) (n : Nat) (v : LinkSt) : (s.setLink n v).regsShadow = s.regsShadow := rfl
@[simp] theorem setLink_asy (s : State) (n : Nat) (v : LinkSt) : (s.setLink n v).asy = s.asy := rfl
@[simp] theorem setLink_clk (s : State) (n : Nat) (v : LinkSt) : (s.setLink n v).clk = s.clk := rfl
@[simp] theorem setLink_pwr (s : State) (n : Nat) (v : LinkSt) : (s.setLink n v).pwr = s.pwr := rfl
@[simp] theorem setLink_thm (s : State) (n : Nat) (v : LinkSt) : (s.setLink n v).thm = s.thm := rfl
@[simp] theorem setLink_alm (s : State) (n : Nat) (v : LinkSt) : (s.setLink n v).alm = s.alm := rfl
@[simp] theorem setLink_lkt (s : State) (n : Nat) (v : LinkSt) : (s.setLink n v).lkt = s.lkt := rfl
@[simp] theorem setLink_fst (s : State) (n : Nat) (v : LinkSt) : (s.setLink n v).fst = s.fst := rfl
@[simp] theorem setLink_lou (s : State) (n : Nat) (v : LinkSt) : (s.setLink n v).lou = s.lou := rfl
@[simp] theorem setLink_cxl (s : State) (n : Nat) (v : LinkSt) : (s.setLink n v).cxl = s.cxl := rfl
@[simp] theorem setLink_rng (s : State) (n : Nat) (v : LinkSt) : (s.setLink n v).rng = s.rng := rfl
@[simp] theorem setLink_mgmt (s : State) (n : Nat) (v : LinkSt) : (s.setLink n v).mgmt = s.mgmt := rfl
@[simp] theorem setLink_sec (s : State) (n : Nat) (v : LinkSt) : (s.setLink n v).sec = s.sec := rfl
@[simp] theorem setLink_cores (s : State) (n : Nat) (v : LinkSt) : (s.setLink n v).cores = s.cores := rfl
@[simp] theorem setLink_fields (s : State) (n : Nat) (v : LinkSt) : (s.setLink n v).fields = s.fields := rfl
@[simp] theorem setLink_jobs (s : State) (n : Nat) (v : LinkSt) : (s.setLink n v).jobs = s.jobs := rfl
@[simp] theorem setLink_strands (s : State) (n : Nat) (v : LinkSt) : (s.setLink n v).strands = s.strands := rfl
@[simp] theorem setLink_mem (s : State) (n : Nat) (v : LinkSt) : (s.setLink n v).mem = s.mem := rfl
@[simp] theorem setLink_heirloom (s : State) (n : Nat) (v : LinkSt) : (s.setLink n v).heirloom = s.heirloom := rfl
@[simp] theorem setLink_hwCounts (s : State) (n : Nat) (v : LinkSt) : (s.setLink n v).hwCounts = s.hwCounts := rfl
@[simp] theorem setLink_opTime (s : State) (n : Nat) (v : LinkSt) : (s.setLink n v).opTime = s.opTime := rfl
@[simp] theorem setLink_hwQueue (s : State) (n : Nat) (v : LinkSt) : (s.setLink n v).hwQueue = s.hwQueue := rfl
@[simp] theorem setLink_replaceDue (s : State) (n : Nat) (v : LinkSt) : (s.setLink n v).replaceDue = s.replaceDue := rfl
@[simp] theorem setLink_out (s : State) (n : Nat) (v : LinkSt) : (s.setLink n v).out = s.out := rfl
@[simp] theorem setLink_free (s : State) (n : Nat) (v : LinkSt) : (s.setLink n v).free = s.free := rfl
@[simp] theorem setLink_pending (s : State) (n : Nat) (v : LinkSt) : (s.setLink n v).pending = s.pending := rfl
@[simp] theorem setLink_cls_cfg (s : State) (n : Nat) (v : LinkSt) : (s.setLink n v).cls.cfg = s.cls.cfg := rfl
@[simp] theorem setLink_cls_linkEn (s : State) (n : Nat) (v : LinkSt) : (s.setLink n v).cls.linkEn = s.cls.linkEn := rfl
@[simp] theorem setLink_cls_status (s : State) (n : Nat) (v : LinkSt) : (s.setLink n v).cls.status = s.cls.status := rfl
@[simp] theorem setLink_cls_place (s : State) (n : Nat) (v : LinkSt) : (s.setLink n v).cls.place = s.cls.place := rfl
@[simp] theorem setLink_cls_pendingPlace (s : State) (n : Nat) (v : LinkSt) : (s.setLink n v).cls.pendingPlace = s.cls.pendingPlace := rfl
@[simp] theorem setLink_cls_epoch (s : State) (n : Nat) (v : LinkSt) : (s.setLink n v).cls.epoch = s.cls.epoch := rfl
@[simp] theorem setLink_cls_lendEpoch (s : State) (n : Nat) (v : LinkSt) : (s.setLink n v).cls.lendEpoch = s.cls.lendEpoch := rfl
@[simp] theorem setLink_cls_bindFails (s : State) (n : Nat) (v : LinkSt) : (s.setLink n v).cls.bindFails = s.cls.bindFails := rfl
@[simp] theorem setLink_cls_resyncs (s : State) (n : Nat) (v : LinkSt) : (s.setLink n v).cls.resyncs = s.cls.resyncs := rfl
@[simp] theorem setLink_cls_timeDelay (s : State) (n : Nat) (v : LinkSt) : (s.setLink n v).cls.timeDelay = s.cls.timeDelay := rfl
@[simp] theorem setLink_cls_timeErr (s : State) (n : Nat) (v : LinkSt) : (s.setLink n v).cls.timeErr = s.cls.timeErr := rfl

@[simp] theorem setProc_part (s : State) (n : Nat) (v : ProcSt) : (s.setProc n v).part = s.part := rfl
@[simp] theorem setProc_flash (s : State) (n : Nat) (v : ProcSt) : (s.setProc n v).flash = s.flash := rfl
@[simp] theorem setProc_pins (s : State) (n : Nat) (v : ProcSt) : (s.setProc n v).pins = s.pins := rfl
@[simp] theorem setProc_cal (s : State) (n : Nat) (v : ProcSt) : (s.setProc n v).cal = s.cal := rfl
@[simp] theorem setProc_gen (s : State) (n : Nat) (v : ProcSt) : (s.setProc n v).gen = s.gen := rfl
@[simp] theorem setProc_regsShadow (s : State) (n : Nat) (v : ProcSt) : (s.setProc n v).regsShadow = s.regsShadow := rfl
@[simp] theorem setProc_asy (s : State) (n : Nat) (v : ProcSt) : (s.setProc n v).asy = s.asy := rfl
@[simp] theorem setProc_clk (s : State) (n : Nat) (v : ProcSt) : (s.setProc n v).clk = s.clk := rfl
@[simp] theorem setProc_pwr (s : State) (n : Nat) (v : ProcSt) : (s.setProc n v).pwr = s.pwr := rfl
@[simp] theorem setProc_thm (s : State) (n : Nat) (v : ProcSt) : (s.setProc n v).thm = s.thm := rfl
@[simp] theorem setProc_alm (s : State) (n : Nat) (v : ProcSt) : (s.setProc n v).alm = s.alm := rfl
@[simp] theorem setProc_lkt (s : State) (n : Nat) (v : ProcSt) : (s.setProc n v).lkt = s.lkt := rfl
@[simp] theorem setProc_fst (s : State) (n : Nat) (v : ProcSt) : (s.setProc n v).fst = s.fst := rfl
@[simp] theorem setProc_lou (s : State) (n : Nat) (v : ProcSt) : (s.setProc n v).lou = s.lou := rfl
@[simp] theorem setProc_cxl (s : State) (n : Nat) (v : ProcSt) : (s.setProc n v).cxl = s.cxl := rfl
@[simp] theorem setProc_rng (s : State) (n : Nat) (v : ProcSt) : (s.setProc n v).rng = s.rng := rfl
@[simp] theorem setProc_cls (s : State) (n : Nat) (v : ProcSt) : (s.setProc n v).cls = s.cls := rfl
@[simp] theorem setProc_sec (s : State) (n : Nat) (v : ProcSt) : (s.setProc n v).sec = s.sec := rfl
@[simp] theorem setProc_cores (s : State) (n : Nat) (v : ProcSt) : (s.setProc n v).cores = s.cores := rfl
@[simp] theorem setProc_fields (s : State) (n : Nat) (v : ProcSt) : (s.setProc n v).fields = s.fields := rfl
@[simp] theorem setProc_jobs (s : State) (n : Nat) (v : ProcSt) : (s.setProc n v).jobs = s.jobs := rfl
@[simp] theorem setProc_strands (s : State) (n : Nat) (v : ProcSt) : (s.setProc n v).strands = s.strands := rfl
@[simp] theorem setProc_mem (s : State) (n : Nat) (v : ProcSt) : (s.setProc n v).mem = s.mem := rfl
@[simp] theorem setProc_heirloom (s : State) (n : Nat) (v : ProcSt) : (s.setProc n v).heirloom = s.heirloom := rfl
@[simp] theorem setProc_hwCounts (s : State) (n : Nat) (v : ProcSt) : (s.setProc n v).hwCounts = s.hwCounts := rfl
@[simp] theorem setProc_opTime (s : State) (n : Nat) (v : ProcSt) : (s.setProc n v).opTime = s.opTime := rfl
@[simp] theorem setProc_hwQueue (s : State) (n : Nat) (v : ProcSt) : (s.setProc n v).hwQueue = s.hwQueue := rfl
@[simp] theorem setProc_replaceDue (s : State) (n : Nat) (v : ProcSt) : (s.setProc n v).replaceDue = s.replaceDue := rfl
@[simp] theorem setProc_out (s : State) (n : Nat) (v : ProcSt) : (s.setProc n v).out = s.out := rfl
@[simp] theorem setProc_free (s : State) (n : Nat) (v : ProcSt) : (s.setProc n v).free = s.free := rfl
@[simp] theorem setProc_pending (s : State) (n : Nat) (v : ProcSt) : (s.setProc n v).pending = s.pending := rfl
@[simp] theorem setProc_mgmt_status (s : State) (n : Nat) (v : ProcSt) : (s.setProc n v).mgmt.status = s.mgmt.status := rfl
@[simp] theorem setProc_mgmt_i3cAddr (s : State) (n : Nat) (v : ProcSt) : (s.setProc n v).mgmt.i3cAddr = s.mgmt.i3cAddr := rfl
@[simp] theorem setProc_mgmt_eidI3c (s : State) (n : Nat) (v : ProcSt) : (s.setProc n v).mgmt.eidI3c = s.mgmt.eidI3c := rfl
@[simp] theorem setProc_mgmt_eidEth (s : State) (n : Nat) (v : ProcSt) : (s.setProc n v).mgmt.eidEth = s.mgmt.eidEth := rfl
@[simp] theorem setProc_mgmt_sgmiiUp (s : State) (n : Nat) (v : ProcSt) : (s.setProc n v).mgmt.sgmiiUp = s.mgmt.sgmiiUp := rfl
@[simp] theorem setProc_mgmt_ipv4 (s : State) (n : Nat) (v : ProcSt) : (s.setProc n v).mgmt.ipv4 = s.mgmt.ipv4 := rfl
@[simp] theorem setProc_mgmt_sink (s : State) (n : Nat) (v : ProcSt) : (s.setProc n v).mgmt.sink = s.mgmt.sink := rfl
@[simp] theorem setProc_mgmt_sinkEth (s : State) (n : Nat) (v : ProcSt) : (s.setProc n v).mgmt.sinkEth = s.mgmt.sinkEth := rfl
@[simp] theorem setProc_mgmt_records (s : State) (n : Nat) (v : ProcSt) : (s.setProc n v).mgmt.records = s.mgmt.records := rfl
@[simp] theorem setProc_mgmt_recordSeq (s : State) (n : Nat) (v : ProcSt) : (s.setProc n v).mgmt.recordSeq = s.mgmt.recordSeq := rfl
@[simp] theorem setProc_mgmt_lostCount (s : State) (n : Nat) (v : ProcSt) : (s.setProc n v).mgmt.lostCount = s.mgmt.lostCount := rfl
@[simp] theorem setProc_mgmt_lostTold (s : State) (n : Nat) (v : ProcSt) : (s.setProc n v).mgmt.lostTold = s.mgmt.lostTold := rfl
@[simp] theorem setProc_mgmt_sentCount (s : State) (n : Nat) (v : ProcSt) : (s.setProc n v).mgmt.sentCount = s.mgmt.sentCount := rfl
@[simp] theorem setProc_mgmt_ksDropped (s : State) (n : Nat) (v : ProcSt) : (s.setProc n v).mgmt.ksDropped = s.mgmt.ksDropped := rfl
@[simp] theorem setProc_mgmt_ksSel (s : State) (n : Nat) (v : ProcSt) : (s.setProc n v).mgmt.ksSel = s.mgmt.ksSel := rfl
@[simp] theorem setProc_mgmt_ksGen (s : State) (n : Nat) (v : ProcSt) : (s.setProc n v).mgmt.ksGen = s.mgmt.ksGen := rfl
@[simp] theorem setProc_mgmt_manifest (s : State) (n : Nat) (v : ProcSt) : (s.setProc n v).mgmt.manifest = s.mgmt.manifest := rfl
@[simp] theorem setProc_mgmt_nextManifest (s : State) (n : Nat) (v : ProcSt) : (s.setProc n v).mgmt.nextManifest = s.mgmt.nextManifest := rfl
@[simp] theorem setProc_mgmt_staging (s : State) (n : Nat) (v : ProcSt) : (s.setProc n v).mgmt.staging = s.mgmt.staging := rfl
@[simp] theorem setProc_mgmt_update (s : State) (n : Nat) (v : ProcSt) : (s.setProc n v).mgmt.update = s.mgmt.update := rfl
@[simp] theorem setProc_mgmt_activation (s : State) (n : Nat) (v : ProcSt) : (s.setProc n v).mgmt.activation = s.mgmt.activation := rfl
@[simp] theorem setProc_mgmt_powerFault (s : State) (n : Nat) (v : ProcSt) : (s.setProc n v).mgmt.powerFault = s.mgmt.powerFault := rfl
@[simp] theorem setProc_mgmt_bcast (s : State) (n : Nat) (v : ProcSt) : (s.setProc n v).mgmt.bcast = s.mgmt.bcast := rfl
@[simp] theorem setProc_mgmt_pldm (s : State) (n : Nat) (v : ProcSt) : (s.setProc n v).mgmt.pldm = s.mgmt.pldm := rfl
@[simp] theorem setProc_mgmt_sensors (s : State) (n : Nat) (v : ProcSt) : (s.setProc n v).mgmt.sensors = s.mgmt.sensors := rfl

@[simp] theorem setSlot_part (s : State) (n : Nat) (v : SlotSt) : (s.setSlot n v).part = s.part := rfl
@[simp] theorem setSlot_flash (s : State) (n : Nat) (v : SlotSt) : (s.setSlot n v).flash = s.flash := rfl
@[simp] theorem setSlot_pins (s : State) (n : Nat) (v : SlotSt) : (s.setSlot n v).pins = s.pins := rfl
@[simp] theorem setSlot_cal (s : State) (n : Nat) (v : SlotSt) : (s.setSlot n v).cal = s.cal := rfl
@[simp] theorem setSlot_gen (s : State) (n : Nat) (v : SlotSt) : (s.setSlot n v).gen = s.gen := rfl
@[simp] theorem setSlot_regsShadow (s : State) (n : Nat) (v : SlotSt) : (s.setSlot n v).regsShadow = s.regsShadow := rfl
@[simp] theorem setSlot_asy (s : State) (n : Nat) (v : SlotSt) : (s.setSlot n v).asy = s.asy := rfl
@[simp] theorem setSlot_clk (s : State) (n : Nat) (v : SlotSt) : (s.setSlot n v).clk = s.clk := rfl
@[simp] theorem setSlot_pwr (s : State) (n : Nat) (v : SlotSt) : (s.setSlot n v).pwr = s.pwr := rfl
@[simp] theorem setSlot_thm (s : State) (n : Nat) (v : SlotSt) : (s.setSlot n v).thm = s.thm := rfl
@[simp] theorem setSlot_alm (s : State) (n : Nat) (v : SlotSt) : (s.setSlot n v).alm = s.alm := rfl
@[simp] theorem setSlot_lkt (s : State) (n : Nat) (v : SlotSt) : (s.setSlot n v).lkt = s.lkt := rfl
@[simp] theorem setSlot_lou (s : State) (n : Nat) (v : SlotSt) : (s.setSlot n v).lou = s.lou := rfl
@[simp] theorem setSlot_cxl (s : State) (n : Nat) (v : SlotSt) : (s.setSlot n v).cxl = s.cxl := rfl
@[simp] theorem setSlot_rng (s : State) (n : Nat) (v : SlotSt) : (s.setSlot n v).rng = s.rng := rfl
@[simp] theorem setSlot_cls (s : State) (n : Nat) (v : SlotSt) : (s.setSlot n v).cls = s.cls := rfl
@[simp] theorem setSlot_mgmt (s : State) (n : Nat) (v : SlotSt) : (s.setSlot n v).mgmt = s.mgmt := rfl
@[simp] theorem setSlot_sec (s : State) (n : Nat) (v : SlotSt) : (s.setSlot n v).sec = s.sec := rfl
@[simp] theorem setSlot_cores (s : State) (n : Nat) (v : SlotSt) : (s.setSlot n v).cores = s.cores := rfl
@[simp] theorem setSlot_fields (s : State) (n : Nat) (v : SlotSt) : (s.setSlot n v).fields = s.fields := rfl
@[simp] theorem setSlot_jobs (s : State) (n : Nat) (v : SlotSt) : (s.setSlot n v).jobs = s.jobs := rfl
@[simp] theorem setSlot_strands (s : State) (n : Nat) (v : SlotSt) : (s.setSlot n v).strands = s.strands := rfl
@[simp] theorem setSlot_mem (s : State) (n : Nat) (v : SlotSt) : (s.setSlot n v).mem = s.mem := rfl
@[simp] theorem setSlot_heirloom (s : State) (n : Nat) (v : SlotSt) : (s.setSlot n v).heirloom = s.heirloom := rfl
@[simp] theorem setSlot_hwCounts (s : State) (n : Nat) (v : SlotSt) : (s.setSlot n v).hwCounts = s.hwCounts := rfl
@[simp] theorem setSlot_opTime (s : State) (n : Nat) (v : SlotSt) : (s.setSlot n v).opTime = s.opTime := rfl
@[simp] theorem setSlot_hwQueue (s : State) (n : Nat) (v : SlotSt) : (s.setSlot n v).hwQueue = s.hwQueue := rfl
@[simp] theorem setSlot_replaceDue (s : State) (n : Nat) (v : SlotSt) : (s.setSlot n v).replaceDue = s.replaceDue := rfl
@[simp] theorem setSlot_out (s : State) (n : Nat) (v : SlotSt) : (s.setSlot n v).out = s.out := rfl
@[simp] theorem setSlot_free (s : State) (n : Nat) (v : SlotSt) : (s.setSlot n v).free = s.free := rfl
@[simp] theorem setSlot_pending (s : State) (n : Nat) (v : SlotSt) : (s.setSlot n v).pending = s.pending := rfl
@[simp] theorem setSlot_fst_cfg (s : State) (n : Nat) (v : SlotSt) : (s.setSlot n v).fst.cfg = s.fst.cfg := rfl
@[simp] theorem setSlot_fst_status (s : State) (n : Nat) (v : SlotSt) : (s.setSlot n v).fst.status = s.fst.status := rfl
@[simp] theorem setSlot_fst_stepCount (s : State) (n : Nat) (v : SlotSt) : (s.setSlot n v).fst.stepCount = s.fst.stepCount := rfl
@[simp] theorem setSlot_fst_stepFaults (s : State) (n : Nat) (v : SlotSt) : (s.setSlot n v).fst.stepFaults = s.fst.stepFaults := rfl
@[simp] theorem setSlot_fst_stepRefused (s : State) (n : Nat) (v : SlotSt) : (s.setSlot n v).fst.stepRefused = s.fst.stepRefused := rfl
@[simp] theorem setSlot_fst_streams (s : State) (n : Nat) (v : SlotSt) : (s.setSlot n v).fst.streams = s.fst.streams := rfl
@[simp] theorem setSlot_fst_stepTiles (s : State) (n : Nat) (v : SlotSt) : (s.setSlot n v).fst.stepTiles = s.fst.stepTiles := rfl

@[simp] theorem setEntry_part (s : State) (n : Nat) (v : LktEntry) : (s.setEntry n v).part = s.part := rfl
@[simp] theorem setEntry_flash (s : State) (n : Nat) (v : LktEntry) : (s.setEntry n v).flash = s.flash := rfl
@[simp] theorem setEntry_pins (s : State) (n : Nat) (v : LktEntry) : (s.setEntry n v).pins = s.pins := rfl
@[simp] theorem setEntry_cal (s : State) (n : Nat) (v : LktEntry) : (s.setEntry n v).cal = s.cal := rfl
@[simp] theorem setEntry_gen (s : State) (n : Nat) (v : LktEntry) : (s.setEntry n v).gen = s.gen := rfl
@[simp] theorem setEntry_regsShadow (s : State) (n : Nat) (v : LktEntry) : (s.setEntry n v).regsShadow = s.regsShadow := rfl
@[simp] theorem setEntry_asy (s : State) (n : Nat) (v : LktEntry) : (s.setEntry n v).asy = s.asy := rfl
@[simp] theorem setEntry_clk (s : State) (n : Nat) (v : LktEntry) : (s.setEntry n v).clk = s.clk := rfl
@[simp] theorem setEntry_pwr (s : State) (n : Nat) (v : LktEntry) : (s.setEntry n v).pwr = s.pwr := rfl
@[simp] theorem setEntry_thm (s : State) (n : Nat) (v : LktEntry) : (s.setEntry n v).thm = s.thm := rfl
@[simp] theorem setEntry_alm (s : State) (n : Nat) (v : LktEntry) : (s.setEntry n v).alm = s.alm := rfl
@[simp] theorem setEntry_fst (s : State) (n : Nat) (v : LktEntry) : (s.setEntry n v).fst = s.fst := rfl
@[simp] theorem setEntry_lou (s : State) (n : Nat) (v : LktEntry) : (s.setEntry n v).lou = s.lou := rfl
@[simp] theorem setEntry_cxl (s : State) (n : Nat) (v : LktEntry) : (s.setEntry n v).cxl = s.cxl := rfl
@[simp] theorem setEntry_rng (s : State) (n : Nat) (v : LktEntry) : (s.setEntry n v).rng = s.rng := rfl
@[simp] theorem setEntry_cls (s : State) (n : Nat) (v : LktEntry) : (s.setEntry n v).cls = s.cls := rfl
@[simp] theorem setEntry_mgmt (s : State) (n : Nat) (v : LktEntry) : (s.setEntry n v).mgmt = s.mgmt := rfl
@[simp] theorem setEntry_sec (s : State) (n : Nat) (v : LktEntry) : (s.setEntry n v).sec = s.sec := rfl
@[simp] theorem setEntry_cores (s : State) (n : Nat) (v : LktEntry) : (s.setEntry n v).cores = s.cores := rfl
@[simp] theorem setEntry_fields (s : State) (n : Nat) (v : LktEntry) : (s.setEntry n v).fields = s.fields := rfl
@[simp] theorem setEntry_jobs (s : State) (n : Nat) (v : LktEntry) : (s.setEntry n v).jobs = s.jobs := rfl
@[simp] theorem setEntry_strands (s : State) (n : Nat) (v : LktEntry) : (s.setEntry n v).strands = s.strands := rfl
@[simp] theorem setEntry_mem (s : State) (n : Nat) (v : LktEntry) : (s.setEntry n v).mem = s.mem := rfl
@[simp] theorem setEntry_heirloom (s : State) (n : Nat) (v : LktEntry) : (s.setEntry n v).heirloom = s.heirloom := rfl
@[simp] theorem setEntry_hwCounts (s : State) (n : Nat) (v : LktEntry) : (s.setEntry n v).hwCounts = s.hwCounts := rfl
@[simp] theorem setEntry_opTime (s : State) (n : Nat) (v : LktEntry) : (s.setEntry n v).opTime = s.opTime := rfl
@[simp] theorem setEntry_hwQueue (s : State) (n : Nat) (v : LktEntry) : (s.setEntry n v).hwQueue = s.hwQueue := rfl
@[simp] theorem setEntry_replaceDue (s : State) (n : Nat) (v : LktEntry) : (s.setEntry n v).replaceDue = s.replaceDue := rfl
@[simp] theorem setEntry_out (s : State) (n : Nat) (v : LktEntry) : (s.setEntry n v).out = s.out := rfl
@[simp] theorem setEntry_free (s : State) (n : Nat) (v : LktEntry) : (s.setEntry n v).free = s.free := rfl
@[simp] theorem setEntry_pending (s : State) (n : Nat) (v : LktEntry) : (s.setEntry n v).pending = s.pending := rfl
@[simp] theorem setEntry_lkt_cfg (s : State) (n : Nat) (v : LktEntry) : (s.setEntry n v).lkt.cfg = s.lkt.cfg := rfl
@[simp] theorem setEntry_lkt_demoteAge (s : State) (n : Nat) (v : LktEntry) : (s.setEntry n v).lkt.demoteAge = s.lkt.demoteAge := rfl
@[simp] theorem setEntry_lkt_hbmLow (s : State) (n : Nat) (v : LktEntry) : (s.setEntry n v).lkt.hbmLow = s.lkt.hbmLow := rfl
@[simp] theorem setEntry_lkt_hbmHigh (s : State) (n : Nat) (v : LktEntry) : (s.setEntry n v).lkt.hbmHigh = s.lkt.hbmHigh := rfl
@[simp] theorem setEntry_lkt_lend (s : State) (n : Nat) (v : LktEntry) : (s.setEntry n v).lkt.lend = s.lkt.lend := rfl
@[simp] theorem setEntry_lkt_status (s : State) (n : Nat) (v : LktEntry) : (s.setEntry n v).lkt.status = s.lkt.status := rfl
@[simp] theorem setEntry_lkt_promoteCount (s : State) (n : Nat) (v : LktEntry) : (s.setEntry n v).lkt.promoteCount = s.lkt.promoteCount := rfl
@[simp] theorem setEntry_lkt_demoteCount (s : State) (n : Nat) (v : LktEntry) : (s.setEntry n v).lkt.demoteCount = s.lkt.demoteCount := rfl
@[simp] theorem setEntry_lkt_poisonCount (s : State) (n : Nat) (v : LktEntry) : (s.setEntry n v).lkt.poisonCount = s.lkt.poisonCount := rfl
@[simp] theorem setEntry_lkt_unmappedCount (s : State) (n : Nat) (v : LktEntry) : (s.setEntry n v).lkt.unmappedCount = s.lkt.unmappedCount := rfl
@[simp] theorem setEntry_lkt_hbmPool (s : State) (n : Nat) (v : LktEntry) : (s.setEntry n v).lkt.hbmPool = s.lkt.hbmPool := rfl
@[simp] theorem setEntry_lkt_lpPool (s : State) (n : Nat) (v : LktEntry) : (s.setEntry n v).lkt.lpPool = s.lkt.lpPool := rfl
@[simp] theorem setEntry_lkt_copies (s : State) (n : Nat) (v : LktEntry) : (s.setEntry n v).lkt.copies = s.lkt.copies := rfl
@[simp] theorem setEntry_lkt_demoting (s : State) (n : Nat) (v : LktEntry) : (s.setEntry n v).lkt.demoting = s.lkt.demoting := rfl
@[simp] theorem setEntry_lkt_peerMaps (s : State) (n : Nat) (v : LktEntry) : (s.setEntry n v).lkt.peerMaps = s.lkt.peerMaps := rfl

@[simp] theorem setJob_part (s : State) (n : Nat) (v : JobSt) : (s.setJob n v).part = s.part := rfl
@[simp] theorem setJob_flash (s : State) (n : Nat) (v : JobSt) : (s.setJob n v).flash = s.flash := rfl
@[simp] theorem setJob_pins (s : State) (n : Nat) (v : JobSt) : (s.setJob n v).pins = s.pins := rfl
@[simp] theorem setJob_cal (s : State) (n : Nat) (v : JobSt) : (s.setJob n v).cal = s.cal := rfl
@[simp] theorem setJob_gen (s : State) (n : Nat) (v : JobSt) : (s.setJob n v).gen = s.gen := rfl
@[simp] theorem setJob_regsShadow (s : State) (n : Nat) (v : JobSt) : (s.setJob n v).regsShadow = s.regsShadow := rfl
@[simp] theorem setJob_asy (s : State) (n : Nat) (v : JobSt) : (s.setJob n v).asy = s.asy := rfl
@[simp] theorem setJob_clk (s : State) (n : Nat) (v : JobSt) : (s.setJob n v).clk = s.clk := rfl
@[simp] theorem setJob_pwr (s : State) (n : Nat) (v : JobSt) : (s.setJob n v).pwr = s.pwr := rfl
@[simp] theorem setJob_thm (s : State) (n : Nat) (v : JobSt) : (s.setJob n v).thm = s.thm := rfl
@[simp] theorem setJob_alm (s : State) (n : Nat) (v : JobSt) : (s.setJob n v).alm = s.alm := rfl
@[simp] theorem setJob_lkt (s : State) (n : Nat) (v : JobSt) : (s.setJob n v).lkt = s.lkt := rfl
@[simp] theorem setJob_fst (s : State) (n : Nat) (v : JobSt) : (s.setJob n v).fst = s.fst := rfl
@[simp] theorem setJob_lou (s : State) (n : Nat) (v : JobSt) : (s.setJob n v).lou = s.lou := rfl
@[simp] theorem setJob_cxl (s : State) (n : Nat) (v : JobSt) : (s.setJob n v).cxl = s.cxl := rfl
@[simp] theorem setJob_rng (s : State) (n : Nat) (v : JobSt) : (s.setJob n v).rng = s.rng := rfl
@[simp] theorem setJob_cls (s : State) (n : Nat) (v : JobSt) : (s.setJob n v).cls = s.cls := rfl
@[simp] theorem setJob_mgmt (s : State) (n : Nat) (v : JobSt) : (s.setJob n v).mgmt = s.mgmt := rfl
@[simp] theorem setJob_sec (s : State) (n : Nat) (v : JobSt) : (s.setJob n v).sec = s.sec := rfl
@[simp] theorem setJob_cores (s : State) (n : Nat) (v : JobSt) : (s.setJob n v).cores = s.cores := rfl
@[simp] theorem setJob_fields (s : State) (n : Nat) (v : JobSt) : (s.setJob n v).fields = s.fields := rfl
@[simp] theorem setJob_strands (s : State) (n : Nat) (v : JobSt) : (s.setJob n v).strands = s.strands := rfl
@[simp] theorem setJob_mem (s : State) (n : Nat) (v : JobSt) : (s.setJob n v).mem = s.mem := rfl
@[simp] theorem setJob_heirloom (s : State) (n : Nat) (v : JobSt) : (s.setJob n v).heirloom = s.heirloom := rfl
@[simp] theorem setJob_hwCounts (s : State) (n : Nat) (v : JobSt) : (s.setJob n v).hwCounts = s.hwCounts := rfl
@[simp] theorem setJob_opTime (s : State) (n : Nat) (v : JobSt) : (s.setJob n v).opTime = s.opTime := rfl
@[simp] theorem setJob_hwQueue (s : State) (n : Nat) (v : JobSt) : (s.setJob n v).hwQueue = s.hwQueue := rfl
@[simp] theorem setJob_replaceDue (s : State) (n : Nat) (v : JobSt) : (s.setJob n v).replaceDue = s.replaceDue := rfl
@[simp] theorem setJob_out (s : State) (n : Nat) (v : JobSt) : (s.setJob n v).out = s.out := rfl
@[simp] theorem setJob_free (s : State) (n : Nat) (v : JobSt) : (s.setJob n v).free = s.free := rfl
@[simp] theorem setJob_pending (s : State) (n : Nat) (v : JobSt) : (s.setJob n v).pending = s.pending := rfl

@[simp] theorem setStrand_part (s : State) (n : Nat) (v : StrandSt) : (s.setStrand n v).part = s.part := rfl
@[simp] theorem setStrand_flash (s : State) (n : Nat) (v : StrandSt) : (s.setStrand n v).flash = s.flash := rfl
@[simp] theorem setStrand_pins (s : State) (n : Nat) (v : StrandSt) : (s.setStrand n v).pins = s.pins := rfl
@[simp] theorem setStrand_cal (s : State) (n : Nat) (v : StrandSt) : (s.setStrand n v).cal = s.cal := rfl
@[simp] theorem setStrand_gen (s : State) (n : Nat) (v : StrandSt) : (s.setStrand n v).gen = s.gen := rfl
@[simp] theorem setStrand_regsShadow (s : State) (n : Nat) (v : StrandSt) : (s.setStrand n v).regsShadow = s.regsShadow := rfl
@[simp] theorem setStrand_asy (s : State) (n : Nat) (v : StrandSt) : (s.setStrand n v).asy = s.asy := rfl
@[simp] theorem setStrand_clk (s : State) (n : Nat) (v : StrandSt) : (s.setStrand n v).clk = s.clk := rfl
@[simp] theorem setStrand_pwr (s : State) (n : Nat) (v : StrandSt) : (s.setStrand n v).pwr = s.pwr := rfl
@[simp] theorem setStrand_thm (s : State) (n : Nat) (v : StrandSt) : (s.setStrand n v).thm = s.thm := rfl
@[simp] theorem setStrand_alm (s : State) (n : Nat) (v : StrandSt) : (s.setStrand n v).alm = s.alm := rfl
@[simp] theorem setStrand_lkt (s : State) (n : Nat) (v : StrandSt) : (s.setStrand n v).lkt = s.lkt := rfl
@[simp] theorem setStrand_fst (s : State) (n : Nat) (v : StrandSt) : (s.setStrand n v).fst = s.fst := rfl
@[simp] theorem setStrand_lou (s : State) (n : Nat) (v : StrandSt) : (s.setStrand n v).lou = s.lou := rfl
@[simp] theorem setStrand_cxl (s : State) (n : Nat) (v : StrandSt) : (s.setStrand n v).cxl = s.cxl := rfl
@[simp] theorem setStrand_rng (s : State) (n : Nat) (v : StrandSt) : (s.setStrand n v).rng = s.rng := rfl
@[simp] theorem setStrand_cls (s : State) (n : Nat) (v : StrandSt) : (s.setStrand n v).cls = s.cls := rfl
@[simp] theorem setStrand_mgmt (s : State) (n : Nat) (v : StrandSt) : (s.setStrand n v).mgmt = s.mgmt := rfl
@[simp] theorem setStrand_sec (s : State) (n : Nat) (v : StrandSt) : (s.setStrand n v).sec = s.sec := rfl
@[simp] theorem setStrand_cores (s : State) (n : Nat) (v : StrandSt) : (s.setStrand n v).cores = s.cores := rfl
@[simp] theorem setStrand_fields (s : State) (n : Nat) (v : StrandSt) : (s.setStrand n v).fields = s.fields := rfl
@[simp] theorem setStrand_jobs (s : State) (n : Nat) (v : StrandSt) : (s.setStrand n v).jobs = s.jobs := rfl
@[simp] theorem setStrand_mem (s : State) (n : Nat) (v : StrandSt) : (s.setStrand n v).mem = s.mem := rfl
@[simp] theorem setStrand_heirloom (s : State) (n : Nat) (v : StrandSt) : (s.setStrand n v).heirloom = s.heirloom := rfl
@[simp] theorem setStrand_hwCounts (s : State) (n : Nat) (v : StrandSt) : (s.setStrand n v).hwCounts = s.hwCounts := rfl
@[simp] theorem setStrand_opTime (s : State) (n : Nat) (v : StrandSt) : (s.setStrand n v).opTime = s.opTime := rfl
@[simp] theorem setStrand_hwQueue (s : State) (n : Nat) (v : StrandSt) : (s.setStrand n v).hwQueue = s.hwQueue := rfl
@[simp] theorem setStrand_replaceDue (s : State) (n : Nat) (v : StrandSt) : (s.setStrand n v).replaceDue = s.replaceDue := rfl
@[simp] theorem setStrand_out (s : State) (n : Nat) (v : StrandSt) : (s.setStrand n v).out = s.out := rfl
@[simp] theorem setStrand_free (s : State) (n : Nat) (v : StrandSt) : (s.setStrand n v).free = s.free := rfl
@[simp] theorem setStrand_pending (s : State) (n : Nat) (v : StrandSt) : (s.setStrand n v).pending = s.pending := rfl

@[simp] theorem modCore_part (s : State) (n : Nat) (f : CoreSt → CoreSt) : (s.modCore n f).part = s.part := rfl
@[simp] theorem modCore_flash (s : State) (n : Nat) (f : CoreSt → CoreSt) : (s.modCore n f).flash = s.flash := rfl
@[simp] theorem modCore_pins (s : State) (n : Nat) (f : CoreSt → CoreSt) : (s.modCore n f).pins = s.pins := rfl
@[simp] theorem modCore_cal (s : State) (n : Nat) (f : CoreSt → CoreSt) : (s.modCore n f).cal = s.cal := rfl
@[simp] theorem modCore_gen (s : State) (n : Nat) (f : CoreSt → CoreSt) : (s.modCore n f).gen = s.gen := rfl
@[simp] theorem modCore_regsShadow (s : State) (n : Nat) (f : CoreSt → CoreSt) : (s.modCore n f).regsShadow = s.regsShadow := rfl
@[simp] theorem modCore_asy (s : State) (n : Nat) (f : CoreSt → CoreSt) : (s.modCore n f).asy = s.asy := rfl
@[simp] theorem modCore_clk (s : State) (n : Nat) (f : CoreSt → CoreSt) : (s.modCore n f).clk = s.clk := rfl
@[simp] theorem modCore_pwr (s : State) (n : Nat) (f : CoreSt → CoreSt) : (s.modCore n f).pwr = s.pwr := rfl
@[simp] theorem modCore_thm (s : State) (n : Nat) (f : CoreSt → CoreSt) : (s.modCore n f).thm = s.thm := rfl
@[simp] theorem modCore_alm (s : State) (n : Nat) (f : CoreSt → CoreSt) : (s.modCore n f).alm = s.alm := rfl
@[simp] theorem modCore_lkt (s : State) (n : Nat) (f : CoreSt → CoreSt) : (s.modCore n f).lkt = s.lkt := rfl
@[simp] theorem modCore_fst (s : State) (n : Nat) (f : CoreSt → CoreSt) : (s.modCore n f).fst = s.fst := rfl
@[simp] theorem modCore_lou (s : State) (n : Nat) (f : CoreSt → CoreSt) : (s.modCore n f).lou = s.lou := rfl
@[simp] theorem modCore_cxl (s : State) (n : Nat) (f : CoreSt → CoreSt) : (s.modCore n f).cxl = s.cxl := rfl
@[simp] theorem modCore_rng (s : State) (n : Nat) (f : CoreSt → CoreSt) : (s.modCore n f).rng = s.rng := rfl
@[simp] theorem modCore_cls (s : State) (n : Nat) (f : CoreSt → CoreSt) : (s.modCore n f).cls = s.cls := rfl
@[simp] theorem modCore_mgmt (s : State) (n : Nat) (f : CoreSt → CoreSt) : (s.modCore n f).mgmt = s.mgmt := rfl
@[simp] theorem modCore_sec (s : State) (n : Nat) (f : CoreSt → CoreSt) : (s.modCore n f).sec = s.sec := rfl
@[simp] theorem modCore_fields (s : State) (n : Nat) (f : CoreSt → CoreSt) : (s.modCore n f).fields = s.fields := rfl
@[simp] theorem modCore_jobs (s : State) (n : Nat) (f : CoreSt → CoreSt) : (s.modCore n f).jobs = s.jobs := rfl
@[simp] theorem modCore_strands (s : State) (n : Nat) (f : CoreSt → CoreSt) : (s.modCore n f).strands = s.strands := rfl
@[simp] theorem modCore_mem (s : State) (n : Nat) (f : CoreSt → CoreSt) : (s.modCore n f).mem = s.mem := rfl
@[simp] theorem modCore_heirloom (s : State) (n : Nat) (f : CoreSt → CoreSt) : (s.modCore n f).heirloom = s.heirloom := rfl
@[simp] theorem modCore_hwCounts (s : State) (n : Nat) (f : CoreSt → CoreSt) : (s.modCore n f).hwCounts = s.hwCounts := rfl
@[simp] theorem modCore_opTime (s : State) (n : Nat) (f : CoreSt → CoreSt) : (s.modCore n f).opTime = s.opTime := rfl
@[simp] theorem modCore_hwQueue (s : State) (n : Nat) (f : CoreSt → CoreSt) : (s.modCore n f).hwQueue = s.hwQueue := rfl
@[simp] theorem modCore_replaceDue (s : State) (n : Nat) (f : CoreSt → CoreSt) : (s.modCore n f).replaceDue = s.replaceDue := rfl
@[simp] theorem modCore_out (s : State) (n : Nat) (f : CoreSt → CoreSt) : (s.modCore n f).out = s.out := rfl
@[simp] theorem modCore_free (s : State) (n : Nat) (f : CoreSt → CoreSt) : (s.modCore n f).free = s.free := rfl
@[simp] theorem modCore_pending (s : State) (n : Nat) (f : CoreSt → CoreSt) : (s.modCore n f).pending = s.pending := rfl

@[simp] theorem modField_part (s : State) (n : Nat) (f : FieldSt → FieldSt) : (s.modField n f).part = s.part := rfl
@[simp] theorem modField_flash (s : State) (n : Nat) (f : FieldSt → FieldSt) : (s.modField n f).flash = s.flash := rfl
@[simp] theorem modField_pins (s : State) (n : Nat) (f : FieldSt → FieldSt) : (s.modField n f).pins = s.pins := rfl
@[simp] theorem modField_cal (s : State) (n : Nat) (f : FieldSt → FieldSt) : (s.modField n f).cal = s.cal := rfl
@[simp] theorem modField_gen (s : State) (n : Nat) (f : FieldSt → FieldSt) : (s.modField n f).gen = s.gen := rfl
@[simp] theorem modField_regsShadow (s : State) (n : Nat) (f : FieldSt → FieldSt) : (s.modField n f).regsShadow = s.regsShadow := rfl
@[simp] theorem modField_asy (s : State) (n : Nat) (f : FieldSt → FieldSt) : (s.modField n f).asy = s.asy := rfl
@[simp] theorem modField_clk (s : State) (n : Nat) (f : FieldSt → FieldSt) : (s.modField n f).clk = s.clk := rfl
@[simp] theorem modField_pwr (s : State) (n : Nat) (f : FieldSt → FieldSt) : (s.modField n f).pwr = s.pwr := rfl
@[simp] theorem modField_thm (s : State) (n : Nat) (f : FieldSt → FieldSt) : (s.modField n f).thm = s.thm := rfl
@[simp] theorem modField_alm (s : State) (n : Nat) (f : FieldSt → FieldSt) : (s.modField n f).alm = s.alm := rfl
@[simp] theorem modField_lkt (s : State) (n : Nat) (f : FieldSt → FieldSt) : (s.modField n f).lkt = s.lkt := rfl
@[simp] theorem modField_fst (s : State) (n : Nat) (f : FieldSt → FieldSt) : (s.modField n f).fst = s.fst := rfl
@[simp] theorem modField_lou (s : State) (n : Nat) (f : FieldSt → FieldSt) : (s.modField n f).lou = s.lou := rfl
@[simp] theorem modField_cxl (s : State) (n : Nat) (f : FieldSt → FieldSt) : (s.modField n f).cxl = s.cxl := rfl
@[simp] theorem modField_rng (s : State) (n : Nat) (f : FieldSt → FieldSt) : (s.modField n f).rng = s.rng := rfl
@[simp] theorem modField_cls (s : State) (n : Nat) (f : FieldSt → FieldSt) : (s.modField n f).cls = s.cls := rfl
@[simp] theorem modField_mgmt (s : State) (n : Nat) (f : FieldSt → FieldSt) : (s.modField n f).mgmt = s.mgmt := rfl
@[simp] theorem modField_sec (s : State) (n : Nat) (f : FieldSt → FieldSt) : (s.modField n f).sec = s.sec := rfl
@[simp] theorem modField_cores (s : State) (n : Nat) (f : FieldSt → FieldSt) : (s.modField n f).cores = s.cores := rfl
@[simp] theorem modField_jobs (s : State) (n : Nat) (f : FieldSt → FieldSt) : (s.modField n f).jobs = s.jobs := rfl
@[simp] theorem modField_strands (s : State) (n : Nat) (f : FieldSt → FieldSt) : (s.modField n f).strands = s.strands := rfl
@[simp] theorem modField_mem (s : State) (n : Nat) (f : FieldSt → FieldSt) : (s.modField n f).mem = s.mem := rfl
@[simp] theorem modField_heirloom (s : State) (n : Nat) (f : FieldSt → FieldSt) : (s.modField n f).heirloom = s.heirloom := rfl
@[simp] theorem modField_hwCounts (s : State) (n : Nat) (f : FieldSt → FieldSt) : (s.modField n f).hwCounts = s.hwCounts := rfl
@[simp] theorem modField_opTime (s : State) (n : Nat) (f : FieldSt → FieldSt) : (s.modField n f).opTime = s.opTime := rfl
@[simp] theorem modField_hwQueue (s : State) (n : Nat) (f : FieldSt → FieldSt) : (s.modField n f).hwQueue = s.hwQueue := rfl
@[simp] theorem modField_replaceDue (s : State) (n : Nat) (f : FieldSt → FieldSt) : (s.modField n f).replaceDue = s.replaceDue := rfl
@[simp] theorem modField_out (s : State) (n : Nat) (f : FieldSt → FieldSt) : (s.modField n f).out = s.out := rfl
@[simp] theorem modField_free (s : State) (n : Nat) (f : FieldSt → FieldSt) : (s.modField n f).free = s.free := rfl
@[simp] theorem modField_pending (s : State) (n : Nat) (f : FieldSt → FieldSt) : (s.modField n f).pending = s.pending := rfl

@[simp] theorem modLoupe_part (s : State) (n : Nat) (f : LoupeSt → LoupeSt) : (s.modLoupe n f).part = s.part := rfl
@[simp] theorem modLoupe_flash (s : State) (n : Nat) (f : LoupeSt → LoupeSt) : (s.modLoupe n f).flash = s.flash := rfl
@[simp] theorem modLoupe_pins (s : State) (n : Nat) (f : LoupeSt → LoupeSt) : (s.modLoupe n f).pins = s.pins := rfl
@[simp] theorem modLoupe_cal (s : State) (n : Nat) (f : LoupeSt → LoupeSt) : (s.modLoupe n f).cal = s.cal := rfl
@[simp] theorem modLoupe_gen (s : State) (n : Nat) (f : LoupeSt → LoupeSt) : (s.modLoupe n f).gen = s.gen := rfl
@[simp] theorem modLoupe_regsShadow (s : State) (n : Nat) (f : LoupeSt → LoupeSt) : (s.modLoupe n f).regsShadow = s.regsShadow := rfl
@[simp] theorem modLoupe_asy (s : State) (n : Nat) (f : LoupeSt → LoupeSt) : (s.modLoupe n f).asy = s.asy := rfl
@[simp] theorem modLoupe_clk (s : State) (n : Nat) (f : LoupeSt → LoupeSt) : (s.modLoupe n f).clk = s.clk := rfl
@[simp] theorem modLoupe_pwr (s : State) (n : Nat) (f : LoupeSt → LoupeSt) : (s.modLoupe n f).pwr = s.pwr := rfl
@[simp] theorem modLoupe_thm (s : State) (n : Nat) (f : LoupeSt → LoupeSt) : (s.modLoupe n f).thm = s.thm := rfl
@[simp] theorem modLoupe_alm (s : State) (n : Nat) (f : LoupeSt → LoupeSt) : (s.modLoupe n f).alm = s.alm := rfl
@[simp] theorem modLoupe_lkt (s : State) (n : Nat) (f : LoupeSt → LoupeSt) : (s.modLoupe n f).lkt = s.lkt := rfl
@[simp] theorem modLoupe_fst (s : State) (n : Nat) (f : LoupeSt → LoupeSt) : (s.modLoupe n f).fst = s.fst := rfl
@[simp] theorem modLoupe_cxl (s : State) (n : Nat) (f : LoupeSt → LoupeSt) : (s.modLoupe n f).cxl = s.cxl := rfl
@[simp] theorem modLoupe_rng (s : State) (n : Nat) (f : LoupeSt → LoupeSt) : (s.modLoupe n f).rng = s.rng := rfl
@[simp] theorem modLoupe_cls (s : State) (n : Nat) (f : LoupeSt → LoupeSt) : (s.modLoupe n f).cls = s.cls := rfl
@[simp] theorem modLoupe_mgmt (s : State) (n : Nat) (f : LoupeSt → LoupeSt) : (s.modLoupe n f).mgmt = s.mgmt := rfl
@[simp] theorem modLoupe_sec (s : State) (n : Nat) (f : LoupeSt → LoupeSt) : (s.modLoupe n f).sec = s.sec := rfl
@[simp] theorem modLoupe_cores (s : State) (n : Nat) (f : LoupeSt → LoupeSt) : (s.modLoupe n f).cores = s.cores := rfl
@[simp] theorem modLoupe_fields (s : State) (n : Nat) (f : LoupeSt → LoupeSt) : (s.modLoupe n f).fields = s.fields := rfl
@[simp] theorem modLoupe_jobs (s : State) (n : Nat) (f : LoupeSt → LoupeSt) : (s.modLoupe n f).jobs = s.jobs := rfl
@[simp] theorem modLoupe_strands (s : State) (n : Nat) (f : LoupeSt → LoupeSt) : (s.modLoupe n f).strands = s.strands := rfl
@[simp] theorem modLoupe_mem (s : State) (n : Nat) (f : LoupeSt → LoupeSt) : (s.modLoupe n f).mem = s.mem := rfl
@[simp] theorem modLoupe_heirloom (s : State) (n : Nat) (f : LoupeSt → LoupeSt) : (s.modLoupe n f).heirloom = s.heirloom := rfl
@[simp] theorem modLoupe_hwCounts (s : State) (n : Nat) (f : LoupeSt → LoupeSt) : (s.modLoupe n f).hwCounts = s.hwCounts := rfl
@[simp] theorem modLoupe_opTime (s : State) (n : Nat) (f : LoupeSt → LoupeSt) : (s.modLoupe n f).opTime = s.opTime := rfl
@[simp] theorem modLoupe_hwQueue (s : State) (n : Nat) (f : LoupeSt → LoupeSt) : (s.modLoupe n f).hwQueue = s.hwQueue := rfl
@[simp] theorem modLoupe_replaceDue (s : State) (n : Nat) (f : LoupeSt → LoupeSt) : (s.modLoupe n f).replaceDue = s.replaceDue := rfl
@[simp] theorem modLoupe_out (s : State) (n : Nat) (f : LoupeSt → LoupeSt) : (s.modLoupe n f).out = s.out := rfl
@[simp] theorem modLoupe_free (s : State) (n : Nat) (f : LoupeSt → LoupeSt) : (s.modLoupe n f).free = s.free := rfl
@[simp] theorem modLoupe_pending (s : State) (n : Nat) (f : LoupeSt → LoupeSt) : (s.modLoupe n f).pending = s.pending := rfl

@[simp] theorem modRing_part (s : State) (n : Nat) (f : RingSt → RingSt) : (s.modRing n f).part = s.part := rfl
@[simp] theorem modRing_flash (s : State) (n : Nat) (f : RingSt → RingSt) : (s.modRing n f).flash = s.flash := rfl
@[simp] theorem modRing_pins (s : State) (n : Nat) (f : RingSt → RingSt) : (s.modRing n f).pins = s.pins := rfl
@[simp] theorem modRing_cal (s : State) (n : Nat) (f : RingSt → RingSt) : (s.modRing n f).cal = s.cal := rfl
@[simp] theorem modRing_gen (s : State) (n : Nat) (f : RingSt → RingSt) : (s.modRing n f).gen = s.gen := rfl
@[simp] theorem modRing_regsShadow (s : State) (n : Nat) (f : RingSt → RingSt) : (s.modRing n f).regsShadow = s.regsShadow := rfl
@[simp] theorem modRing_asy (s : State) (n : Nat) (f : RingSt → RingSt) : (s.modRing n f).asy = s.asy := rfl
@[simp] theorem modRing_clk (s : State) (n : Nat) (f : RingSt → RingSt) : (s.modRing n f).clk = s.clk := rfl
@[simp] theorem modRing_pwr (s : State) (n : Nat) (f : RingSt → RingSt) : (s.modRing n f).pwr = s.pwr := rfl
@[simp] theorem modRing_thm (s : State) (n : Nat) (f : RingSt → RingSt) : (s.modRing n f).thm = s.thm := rfl
@[simp] theorem modRing_alm (s : State) (n : Nat) (f : RingSt → RingSt) : (s.modRing n f).alm = s.alm := rfl
@[simp] theorem modRing_lkt (s : State) (n : Nat) (f : RingSt → RingSt) : (s.modRing n f).lkt = s.lkt := rfl
@[simp] theorem modRing_fst (s : State) (n : Nat) (f : RingSt → RingSt) : (s.modRing n f).fst = s.fst := rfl
@[simp] theorem modRing_lou (s : State) (n : Nat) (f : RingSt → RingSt) : (s.modRing n f).lou = s.lou := rfl
@[simp] theorem modRing_cxl (s : State) (n : Nat) (f : RingSt → RingSt) : (s.modRing n f).cxl = s.cxl := rfl
@[simp] theorem modRing_cls (s : State) (n : Nat) (f : RingSt → RingSt) : (s.modRing n f).cls = s.cls := rfl
@[simp] theorem modRing_mgmt (s : State) (n : Nat) (f : RingSt → RingSt) : (s.modRing n f).mgmt = s.mgmt := rfl
@[simp] theorem modRing_sec (s : State) (n : Nat) (f : RingSt → RingSt) : (s.modRing n f).sec = s.sec := rfl
@[simp] theorem modRing_cores (s : State) (n : Nat) (f : RingSt → RingSt) : (s.modRing n f).cores = s.cores := rfl
@[simp] theorem modRing_fields (s : State) (n : Nat) (f : RingSt → RingSt) : (s.modRing n f).fields = s.fields := rfl
@[simp] theorem modRing_jobs (s : State) (n : Nat) (f : RingSt → RingSt) : (s.modRing n f).jobs = s.jobs := rfl
@[simp] theorem modRing_strands (s : State) (n : Nat) (f : RingSt → RingSt) : (s.modRing n f).strands = s.strands := rfl
@[simp] theorem modRing_mem (s : State) (n : Nat) (f : RingSt → RingSt) : (s.modRing n f).mem = s.mem := rfl
@[simp] theorem modRing_heirloom (s : State) (n : Nat) (f : RingSt → RingSt) : (s.modRing n f).heirloom = s.heirloom := rfl
@[simp] theorem modRing_hwCounts (s : State) (n : Nat) (f : RingSt → RingSt) : (s.modRing n f).hwCounts = s.hwCounts := rfl
@[simp] theorem modRing_opTime (s : State) (n : Nat) (f : RingSt → RingSt) : (s.modRing n f).opTime = s.opTime := rfl
@[simp] theorem modRing_hwQueue (s : State) (n : Nat) (f : RingSt → RingSt) : (s.modRing n f).hwQueue = s.hwQueue := rfl
@[simp] theorem modRing_replaceDue (s : State) (n : Nat) (f : RingSt → RingSt) : (s.modRing n f).replaceDue = s.replaceDue := rfl
@[simp] theorem modRing_out (s : State) (n : Nat) (f : RingSt → RingSt) : (s.modRing n f).out = s.out := rfl
@[simp] theorem modRing_free (s : State) (n : Nat) (f : RingSt → RingSt) : (s.modRing n f).free = s.free := rfl
@[simp] theorem modRing_pending (s : State) (n : Nat) (f : RingSt → RingSt) : (s.modRing n f).pending = s.pending := rfl
@[simp] theorem modRing_rng_rr (s : State) (n : Nat) (f : RingSt → RingSt) : (s.modRing n f).rng.rr = s.rng.rr := rfl
@[simp] theorem modRing_rng_msix (s : State) (n : Nat) (f : RingSt → RingSt) : (s.modRing n f).rng.msix = s.rng.msix := rfl
@[simp] theorem modRing_rng_pba (s : State) (n : Nat) (f : RingSt → RingSt) : (s.modRing n f).rng.pba = s.rng.pba := rfl
@[simp] theorem modRing_rng_coalesce (s : State) (n : Nat) (f : RingSt → RingSt) : (s.modRing n f).rng.coalesce = s.rng.coalesce := rfl
@[simp] theorem modRing_rng_msixOn (s : State) (n : Nat) (f : RingSt → RingSt) : (s.modRing n f).rng.msixOn = s.rng.msixOn := rfl
@[simp] theorem modRing_rng_msixMask (s : State) (n : Nat) (f : RingSt → RingSt) : (s.modRing n f).rng.msixMask = s.rng.msixMask := rfl
@[simp] theorem modRing_rng_haltDue (s : State) (n : Nat) (f : RingSt → RingSt) : (s.modRing n f).rng.haltDue = s.rng.haltDue := rfl

@[simp] theorem modRegion_part (s : State) (n : Nat) (f : RegionSt → RegionSt) : (s.modRegion n f).part = s.part := rfl
@[simp] theorem modRegion_flash (s : State) (n : Nat) (f : RegionSt → RegionSt) : (s.modRegion n f).flash = s.flash := rfl
@[simp] theorem modRegion_pins (s : State) (n : Nat) (f : RegionSt → RegionSt) : (s.modRegion n f).pins = s.pins := rfl
@[simp] theorem modRegion_cal (s : State) (n : Nat) (f : RegionSt → RegionSt) : (s.modRegion n f).cal = s.cal := rfl
@[simp] theorem modRegion_gen (s : State) (n : Nat) (f : RegionSt → RegionSt) : (s.modRegion n f).gen = s.gen := rfl
@[simp] theorem modRegion_regsShadow (s : State) (n : Nat) (f : RegionSt → RegionSt) : (s.modRegion n f).regsShadow = s.regsShadow := rfl
@[simp] theorem modRegion_asy (s : State) (n : Nat) (f : RegionSt → RegionSt) : (s.modRegion n f).asy = s.asy := rfl
@[simp] theorem modRegion_clk (s : State) (n : Nat) (f : RegionSt → RegionSt) : (s.modRegion n f).clk = s.clk := rfl
@[simp] theorem modRegion_thm (s : State) (n : Nat) (f : RegionSt → RegionSt) : (s.modRegion n f).thm = s.thm := rfl
@[simp] theorem modRegion_alm (s : State) (n : Nat) (f : RegionSt → RegionSt) : (s.modRegion n f).alm = s.alm := rfl
@[simp] theorem modRegion_lkt (s : State) (n : Nat) (f : RegionSt → RegionSt) : (s.modRegion n f).lkt = s.lkt := rfl
@[simp] theorem modRegion_fst (s : State) (n : Nat) (f : RegionSt → RegionSt) : (s.modRegion n f).fst = s.fst := rfl
@[simp] theorem modRegion_lou (s : State) (n : Nat) (f : RegionSt → RegionSt) : (s.modRegion n f).lou = s.lou := rfl
@[simp] theorem modRegion_cxl (s : State) (n : Nat) (f : RegionSt → RegionSt) : (s.modRegion n f).cxl = s.cxl := rfl
@[simp] theorem modRegion_rng (s : State) (n : Nat) (f : RegionSt → RegionSt) : (s.modRegion n f).rng = s.rng := rfl
@[simp] theorem modRegion_cls (s : State) (n : Nat) (f : RegionSt → RegionSt) : (s.modRegion n f).cls = s.cls := rfl
@[simp] theorem modRegion_mgmt (s : State) (n : Nat) (f : RegionSt → RegionSt) : (s.modRegion n f).mgmt = s.mgmt := rfl
@[simp] theorem modRegion_sec (s : State) (n : Nat) (f : RegionSt → RegionSt) : (s.modRegion n f).sec = s.sec := rfl
@[simp] theorem modRegion_cores (s : State) (n : Nat) (f : RegionSt → RegionSt) : (s.modRegion n f).cores = s.cores := rfl
@[simp] theorem modRegion_fields (s : State) (n : Nat) (f : RegionSt → RegionSt) : (s.modRegion n f).fields = s.fields := rfl
@[simp] theorem modRegion_jobs (s : State) (n : Nat) (f : RegionSt → RegionSt) : (s.modRegion n f).jobs = s.jobs := rfl
@[simp] theorem modRegion_strands (s : State) (n : Nat) (f : RegionSt → RegionSt) : (s.modRegion n f).strands = s.strands := rfl
@[simp] theorem modRegion_mem (s : State) (n : Nat) (f : RegionSt → RegionSt) : (s.modRegion n f).mem = s.mem := rfl
@[simp] theorem modRegion_heirloom (s : State) (n : Nat) (f : RegionSt → RegionSt) : (s.modRegion n f).heirloom = s.heirloom := rfl
@[simp] theorem modRegion_hwCounts (s : State) (n : Nat) (f : RegionSt → RegionSt) : (s.modRegion n f).hwCounts = s.hwCounts := rfl
@[simp] theorem modRegion_opTime (s : State) (n : Nat) (f : RegionSt → RegionSt) : (s.modRegion n f).opTime = s.opTime := rfl
@[simp] theorem modRegion_hwQueue (s : State) (n : Nat) (f : RegionSt → RegionSt) : (s.modRegion n f).hwQueue = s.hwQueue := rfl
@[simp] theorem modRegion_replaceDue (s : State) (n : Nat) (f : RegionSt → RegionSt) : (s.modRegion n f).replaceDue = s.replaceDue := rfl
@[simp] theorem modRegion_out (s : State) (n : Nat) (f : RegionSt → RegionSt) : (s.modRegion n f).out = s.out := rfl
@[simp] theorem modRegion_free (s : State) (n : Nat) (f : RegionSt → RegionSt) : (s.modRegion n f).free = s.free := rfl
@[simp] theorem modRegion_pending (s : State) (n : Nat) (f : RegionSt → RegionSt) : (s.modRegion n f).pending = s.pending := rfl
@[simp] theorem modRegion_pwr_park (s : State) (n : Nat) (f : RegionSt → RegionSt) : (s.modRegion n f).pwr.park = s.pwr.park := rfl
@[simp] theorem modRegion_pwr_status (s : State) (n : Nat) (f : RegionSt → RegionSt) : (s.modRegion n f).pwr.status = s.pwr.status := rfl
@[simp] theorem modRegion_pwr_convOk (s : State) (n : Nat) (f : RegionSt → RegionSt) : (s.modRegion n f).pwr.convOk = s.pwr.convOk := rfl
@[simp] theorem modRegion_pwr_lwField (s : State) (n : Nat) (f : RegionSt → RegionSt) : (s.modRegion n f).pwr.lwField = s.pwr.lwField := rfl
@[simp] theorem modRegion_pwr_lwDev (s : State) (n : Nat) (f : RegionSt → RegionSt) : (s.modRegion n f).pwr.lwDev = s.pwr.lwDev := rfl
@[simp] theorem modRegion_pwr_faulted (s : State) (n : Nat) (f : RegionSt → RegionSt) : (s.modRegion n f).pwr.faulted = s.pwr.faulted := rfl

@[simp] theorem modLink_part (s : State) (n : Nat) (f : LinkSt → LinkSt) : (s.modLink n f).part = s.part := rfl
@[simp] theorem modLink_flash (s : State) (n : Nat) (f : LinkSt → LinkSt) : (s.modLink n f).flash = s.flash := rfl
@[simp] theorem modLink_pins (s : State) (n : Nat) (f : LinkSt → LinkSt) : (s.modLink n f).pins = s.pins := rfl
@[simp] theorem modLink_cal (s : State) (n : Nat) (f : LinkSt → LinkSt) : (s.modLink n f).cal = s.cal := rfl
@[simp] theorem modLink_gen (s : State) (n : Nat) (f : LinkSt → LinkSt) : (s.modLink n f).gen = s.gen := rfl
@[simp] theorem modLink_regsShadow (s : State) (n : Nat) (f : LinkSt → LinkSt) : (s.modLink n f).regsShadow = s.regsShadow := rfl
@[simp] theorem modLink_asy (s : State) (n : Nat) (f : LinkSt → LinkSt) : (s.modLink n f).asy = s.asy := rfl
@[simp] theorem modLink_clk (s : State) (n : Nat) (f : LinkSt → LinkSt) : (s.modLink n f).clk = s.clk := rfl
@[simp] theorem modLink_pwr (s : State) (n : Nat) (f : LinkSt → LinkSt) : (s.modLink n f).pwr = s.pwr := rfl
@[simp] theorem modLink_thm (s : State) (n : Nat) (f : LinkSt → LinkSt) : (s.modLink n f).thm = s.thm := rfl
@[simp] theorem modLink_alm (s : State) (n : Nat) (f : LinkSt → LinkSt) : (s.modLink n f).alm = s.alm := rfl
@[simp] theorem modLink_lkt (s : State) (n : Nat) (f : LinkSt → LinkSt) : (s.modLink n f).lkt = s.lkt := rfl
@[simp] theorem modLink_fst (s : State) (n : Nat) (f : LinkSt → LinkSt) : (s.modLink n f).fst = s.fst := rfl
@[simp] theorem modLink_lou (s : State) (n : Nat) (f : LinkSt → LinkSt) : (s.modLink n f).lou = s.lou := rfl
@[simp] theorem modLink_cxl (s : State) (n : Nat) (f : LinkSt → LinkSt) : (s.modLink n f).cxl = s.cxl := rfl
@[simp] theorem modLink_rng (s : State) (n : Nat) (f : LinkSt → LinkSt) : (s.modLink n f).rng = s.rng := rfl
@[simp] theorem modLink_mgmt (s : State) (n : Nat) (f : LinkSt → LinkSt) : (s.modLink n f).mgmt = s.mgmt := rfl
@[simp] theorem modLink_sec (s : State) (n : Nat) (f : LinkSt → LinkSt) : (s.modLink n f).sec = s.sec := rfl
@[simp] theorem modLink_cores (s : State) (n : Nat) (f : LinkSt → LinkSt) : (s.modLink n f).cores = s.cores := rfl
@[simp] theorem modLink_fields (s : State) (n : Nat) (f : LinkSt → LinkSt) : (s.modLink n f).fields = s.fields := rfl
@[simp] theorem modLink_jobs (s : State) (n : Nat) (f : LinkSt → LinkSt) : (s.modLink n f).jobs = s.jobs := rfl
@[simp] theorem modLink_strands (s : State) (n : Nat) (f : LinkSt → LinkSt) : (s.modLink n f).strands = s.strands := rfl
@[simp] theorem modLink_mem (s : State) (n : Nat) (f : LinkSt → LinkSt) : (s.modLink n f).mem = s.mem := rfl
@[simp] theorem modLink_heirloom (s : State) (n : Nat) (f : LinkSt → LinkSt) : (s.modLink n f).heirloom = s.heirloom := rfl
@[simp] theorem modLink_hwCounts (s : State) (n : Nat) (f : LinkSt → LinkSt) : (s.modLink n f).hwCounts = s.hwCounts := rfl
@[simp] theorem modLink_opTime (s : State) (n : Nat) (f : LinkSt → LinkSt) : (s.modLink n f).opTime = s.opTime := rfl
@[simp] theorem modLink_hwQueue (s : State) (n : Nat) (f : LinkSt → LinkSt) : (s.modLink n f).hwQueue = s.hwQueue := rfl
@[simp] theorem modLink_replaceDue (s : State) (n : Nat) (f : LinkSt → LinkSt) : (s.modLink n f).replaceDue = s.replaceDue := rfl
@[simp] theorem modLink_out (s : State) (n : Nat) (f : LinkSt → LinkSt) : (s.modLink n f).out = s.out := rfl
@[simp] theorem modLink_free (s : State) (n : Nat) (f : LinkSt → LinkSt) : (s.modLink n f).free = s.free := rfl
@[simp] theorem modLink_pending (s : State) (n : Nat) (f : LinkSt → LinkSt) : (s.modLink n f).pending = s.pending := rfl
@[simp] theorem modLink_cls_cfg (s : State) (n : Nat) (f : LinkSt → LinkSt) : (s.modLink n f).cls.cfg = s.cls.cfg := rfl
@[simp] theorem modLink_cls_linkEn (s : State) (n : Nat) (f : LinkSt → LinkSt) : (s.modLink n f).cls.linkEn = s.cls.linkEn := rfl
@[simp] theorem modLink_cls_status (s : State) (n : Nat) (f : LinkSt → LinkSt) : (s.modLink n f).cls.status = s.cls.status := rfl
@[simp] theorem modLink_cls_place (s : State) (n : Nat) (f : LinkSt → LinkSt) : (s.modLink n f).cls.place = s.cls.place := rfl
@[simp] theorem modLink_cls_pendingPlace (s : State) (n : Nat) (f : LinkSt → LinkSt) : (s.modLink n f).cls.pendingPlace = s.cls.pendingPlace := rfl
@[simp] theorem modLink_cls_epoch (s : State) (n : Nat) (f : LinkSt → LinkSt) : (s.modLink n f).cls.epoch = s.cls.epoch := rfl
@[simp] theorem modLink_cls_lendEpoch (s : State) (n : Nat) (f : LinkSt → LinkSt) : (s.modLink n f).cls.lendEpoch = s.cls.lendEpoch := rfl
@[simp] theorem modLink_cls_bindFails (s : State) (n : Nat) (f : LinkSt → LinkSt) : (s.modLink n f).cls.bindFails = s.cls.bindFails := rfl
@[simp] theorem modLink_cls_resyncs (s : State) (n : Nat) (f : LinkSt → LinkSt) : (s.modLink n f).cls.resyncs = s.cls.resyncs := rfl
@[simp] theorem modLink_cls_timeDelay (s : State) (n : Nat) (f : LinkSt → LinkSt) : (s.modLink n f).cls.timeDelay = s.cls.timeDelay := rfl
@[simp] theorem modLink_cls_timeErr (s : State) (n : Nat) (f : LinkSt → LinkSt) : (s.modLink n f).cls.timeErr = s.cls.timeErr := rfl

@[simp] theorem modProc_part (s : State) (n : Nat) (f : ProcSt → ProcSt) : (s.modProc n f).part = s.part := rfl
@[simp] theorem modProc_flash (s : State) (n : Nat) (f : ProcSt → ProcSt) : (s.modProc n f).flash = s.flash := rfl
@[simp] theorem modProc_pins (s : State) (n : Nat) (f : ProcSt → ProcSt) : (s.modProc n f).pins = s.pins := rfl
@[simp] theorem modProc_cal (s : State) (n : Nat) (f : ProcSt → ProcSt) : (s.modProc n f).cal = s.cal := rfl
@[simp] theorem modProc_gen (s : State) (n : Nat) (f : ProcSt → ProcSt) : (s.modProc n f).gen = s.gen := rfl
@[simp] theorem modProc_regsShadow (s : State) (n : Nat) (f : ProcSt → ProcSt) : (s.modProc n f).regsShadow = s.regsShadow := rfl
@[simp] theorem modProc_asy (s : State) (n : Nat) (f : ProcSt → ProcSt) : (s.modProc n f).asy = s.asy := rfl
@[simp] theorem modProc_clk (s : State) (n : Nat) (f : ProcSt → ProcSt) : (s.modProc n f).clk = s.clk := rfl
@[simp] theorem modProc_pwr (s : State) (n : Nat) (f : ProcSt → ProcSt) : (s.modProc n f).pwr = s.pwr := rfl
@[simp] theorem modProc_thm (s : State) (n : Nat) (f : ProcSt → ProcSt) : (s.modProc n f).thm = s.thm := rfl
@[simp] theorem modProc_alm (s : State) (n : Nat) (f : ProcSt → ProcSt) : (s.modProc n f).alm = s.alm := rfl
@[simp] theorem modProc_lkt (s : State) (n : Nat) (f : ProcSt → ProcSt) : (s.modProc n f).lkt = s.lkt := rfl
@[simp] theorem modProc_fst (s : State) (n : Nat) (f : ProcSt → ProcSt) : (s.modProc n f).fst = s.fst := rfl
@[simp] theorem modProc_lou (s : State) (n : Nat) (f : ProcSt → ProcSt) : (s.modProc n f).lou = s.lou := rfl
@[simp] theorem modProc_cxl (s : State) (n : Nat) (f : ProcSt → ProcSt) : (s.modProc n f).cxl = s.cxl := rfl
@[simp] theorem modProc_rng (s : State) (n : Nat) (f : ProcSt → ProcSt) : (s.modProc n f).rng = s.rng := rfl
@[simp] theorem modProc_cls (s : State) (n : Nat) (f : ProcSt → ProcSt) : (s.modProc n f).cls = s.cls := rfl
@[simp] theorem modProc_sec (s : State) (n : Nat) (f : ProcSt → ProcSt) : (s.modProc n f).sec = s.sec := rfl
@[simp] theorem modProc_cores (s : State) (n : Nat) (f : ProcSt → ProcSt) : (s.modProc n f).cores = s.cores := rfl
@[simp] theorem modProc_fields (s : State) (n : Nat) (f : ProcSt → ProcSt) : (s.modProc n f).fields = s.fields := rfl
@[simp] theorem modProc_jobs (s : State) (n : Nat) (f : ProcSt → ProcSt) : (s.modProc n f).jobs = s.jobs := rfl
@[simp] theorem modProc_strands (s : State) (n : Nat) (f : ProcSt → ProcSt) : (s.modProc n f).strands = s.strands := rfl
@[simp] theorem modProc_mem (s : State) (n : Nat) (f : ProcSt → ProcSt) : (s.modProc n f).mem = s.mem := rfl
@[simp] theorem modProc_heirloom (s : State) (n : Nat) (f : ProcSt → ProcSt) : (s.modProc n f).heirloom = s.heirloom := rfl
@[simp] theorem modProc_hwCounts (s : State) (n : Nat) (f : ProcSt → ProcSt) : (s.modProc n f).hwCounts = s.hwCounts := rfl
@[simp] theorem modProc_opTime (s : State) (n : Nat) (f : ProcSt → ProcSt) : (s.modProc n f).opTime = s.opTime := rfl
@[simp] theorem modProc_hwQueue (s : State) (n : Nat) (f : ProcSt → ProcSt) : (s.modProc n f).hwQueue = s.hwQueue := rfl
@[simp] theorem modProc_replaceDue (s : State) (n : Nat) (f : ProcSt → ProcSt) : (s.modProc n f).replaceDue = s.replaceDue := rfl
@[simp] theorem modProc_out (s : State) (n : Nat) (f : ProcSt → ProcSt) : (s.modProc n f).out = s.out := rfl
@[simp] theorem modProc_free (s : State) (n : Nat) (f : ProcSt → ProcSt) : (s.modProc n f).free = s.free := rfl
@[simp] theorem modProc_pending (s : State) (n : Nat) (f : ProcSt → ProcSt) : (s.modProc n f).pending = s.pending := rfl
@[simp] theorem modProc_mgmt_status (s : State) (n : Nat) (f : ProcSt → ProcSt) : (s.modProc n f).mgmt.status = s.mgmt.status := rfl
@[simp] theorem modProc_mgmt_i3cAddr (s : State) (n : Nat) (f : ProcSt → ProcSt) : (s.modProc n f).mgmt.i3cAddr = s.mgmt.i3cAddr := rfl
@[simp] theorem modProc_mgmt_eidI3c (s : State) (n : Nat) (f : ProcSt → ProcSt) : (s.modProc n f).mgmt.eidI3c = s.mgmt.eidI3c := rfl
@[simp] theorem modProc_mgmt_eidEth (s : State) (n : Nat) (f : ProcSt → ProcSt) : (s.modProc n f).mgmt.eidEth = s.mgmt.eidEth := rfl
@[simp] theorem modProc_mgmt_sgmiiUp (s : State) (n : Nat) (f : ProcSt → ProcSt) : (s.modProc n f).mgmt.sgmiiUp = s.mgmt.sgmiiUp := rfl
@[simp] theorem modProc_mgmt_ipv4 (s : State) (n : Nat) (f : ProcSt → ProcSt) : (s.modProc n f).mgmt.ipv4 = s.mgmt.ipv4 := rfl
@[simp] theorem modProc_mgmt_sink (s : State) (n : Nat) (f : ProcSt → ProcSt) : (s.modProc n f).mgmt.sink = s.mgmt.sink := rfl
@[simp] theorem modProc_mgmt_sinkEth (s : State) (n : Nat) (f : ProcSt → ProcSt) : (s.modProc n f).mgmt.sinkEth = s.mgmt.sinkEth := rfl
@[simp] theorem modProc_mgmt_records (s : State) (n : Nat) (f : ProcSt → ProcSt) : (s.modProc n f).mgmt.records = s.mgmt.records := rfl
@[simp] theorem modProc_mgmt_recordSeq (s : State) (n : Nat) (f : ProcSt → ProcSt) : (s.modProc n f).mgmt.recordSeq = s.mgmt.recordSeq := rfl
@[simp] theorem modProc_mgmt_lostCount (s : State) (n : Nat) (f : ProcSt → ProcSt) : (s.modProc n f).mgmt.lostCount = s.mgmt.lostCount := rfl
@[simp] theorem modProc_mgmt_lostTold (s : State) (n : Nat) (f : ProcSt → ProcSt) : (s.modProc n f).mgmt.lostTold = s.mgmt.lostTold := rfl
@[simp] theorem modProc_mgmt_sentCount (s : State) (n : Nat) (f : ProcSt → ProcSt) : (s.modProc n f).mgmt.sentCount = s.mgmt.sentCount := rfl
@[simp] theorem modProc_mgmt_ksDropped (s : State) (n : Nat) (f : ProcSt → ProcSt) : (s.modProc n f).mgmt.ksDropped = s.mgmt.ksDropped := rfl
@[simp] theorem modProc_mgmt_ksSel (s : State) (n : Nat) (f : ProcSt → ProcSt) : (s.modProc n f).mgmt.ksSel = s.mgmt.ksSel := rfl
@[simp] theorem modProc_mgmt_ksGen (s : State) (n : Nat) (f : ProcSt → ProcSt) : (s.modProc n f).mgmt.ksGen = s.mgmt.ksGen := rfl
@[simp] theorem modProc_mgmt_manifest (s : State) (n : Nat) (f : ProcSt → ProcSt) : (s.modProc n f).mgmt.manifest = s.mgmt.manifest := rfl
@[simp] theorem modProc_mgmt_nextManifest (s : State) (n : Nat) (f : ProcSt → ProcSt) : (s.modProc n f).mgmt.nextManifest = s.mgmt.nextManifest := rfl
@[simp] theorem modProc_mgmt_staging (s : State) (n : Nat) (f : ProcSt → ProcSt) : (s.modProc n f).mgmt.staging = s.mgmt.staging := rfl
@[simp] theorem modProc_mgmt_update (s : State) (n : Nat) (f : ProcSt → ProcSt) : (s.modProc n f).mgmt.update = s.mgmt.update := rfl
@[simp] theorem modProc_mgmt_activation (s : State) (n : Nat) (f : ProcSt → ProcSt) : (s.modProc n f).mgmt.activation = s.mgmt.activation := rfl
@[simp] theorem modProc_mgmt_powerFault (s : State) (n : Nat) (f : ProcSt → ProcSt) : (s.modProc n f).mgmt.powerFault = s.mgmt.powerFault := rfl
@[simp] theorem modProc_mgmt_bcast (s : State) (n : Nat) (f : ProcSt → ProcSt) : (s.modProc n f).mgmt.bcast = s.mgmt.bcast := rfl
@[simp] theorem modProc_mgmt_pldm (s : State) (n : Nat) (f : ProcSt → ProcSt) : (s.modProc n f).mgmt.pldm = s.mgmt.pldm := rfl
@[simp] theorem modProc_mgmt_sensors (s : State) (n : Nat) (f : ProcSt → ProcSt) : (s.modProc n f).mgmt.sensors = s.mgmt.sensors := rfl

@[simp] theorem modSlot_part (s : State) (n : Nat) (f : SlotSt → SlotSt) : (s.modSlot n f).part = s.part := rfl
@[simp] theorem modSlot_flash (s : State) (n : Nat) (f : SlotSt → SlotSt) : (s.modSlot n f).flash = s.flash := rfl
@[simp] theorem modSlot_pins (s : State) (n : Nat) (f : SlotSt → SlotSt) : (s.modSlot n f).pins = s.pins := rfl
@[simp] theorem modSlot_cal (s : State) (n : Nat) (f : SlotSt → SlotSt) : (s.modSlot n f).cal = s.cal := rfl
@[simp] theorem modSlot_gen (s : State) (n : Nat) (f : SlotSt → SlotSt) : (s.modSlot n f).gen = s.gen := rfl
@[simp] theorem modSlot_regsShadow (s : State) (n : Nat) (f : SlotSt → SlotSt) : (s.modSlot n f).regsShadow = s.regsShadow := rfl
@[simp] theorem modSlot_asy (s : State) (n : Nat) (f : SlotSt → SlotSt) : (s.modSlot n f).asy = s.asy := rfl
@[simp] theorem modSlot_clk (s : State) (n : Nat) (f : SlotSt → SlotSt) : (s.modSlot n f).clk = s.clk := rfl
@[simp] theorem modSlot_pwr (s : State) (n : Nat) (f : SlotSt → SlotSt) : (s.modSlot n f).pwr = s.pwr := rfl
@[simp] theorem modSlot_thm (s : State) (n : Nat) (f : SlotSt → SlotSt) : (s.modSlot n f).thm = s.thm := rfl
@[simp] theorem modSlot_alm (s : State) (n : Nat) (f : SlotSt → SlotSt) : (s.modSlot n f).alm = s.alm := rfl
@[simp] theorem modSlot_lkt (s : State) (n : Nat) (f : SlotSt → SlotSt) : (s.modSlot n f).lkt = s.lkt := rfl
@[simp] theorem modSlot_lou (s : State) (n : Nat) (f : SlotSt → SlotSt) : (s.modSlot n f).lou = s.lou := rfl
@[simp] theorem modSlot_cxl (s : State) (n : Nat) (f : SlotSt → SlotSt) : (s.modSlot n f).cxl = s.cxl := rfl
@[simp] theorem modSlot_rng (s : State) (n : Nat) (f : SlotSt → SlotSt) : (s.modSlot n f).rng = s.rng := rfl
@[simp] theorem modSlot_cls (s : State) (n : Nat) (f : SlotSt → SlotSt) : (s.modSlot n f).cls = s.cls := rfl
@[simp] theorem modSlot_mgmt (s : State) (n : Nat) (f : SlotSt → SlotSt) : (s.modSlot n f).mgmt = s.mgmt := rfl
@[simp] theorem modSlot_sec (s : State) (n : Nat) (f : SlotSt → SlotSt) : (s.modSlot n f).sec = s.sec := rfl
@[simp] theorem modSlot_cores (s : State) (n : Nat) (f : SlotSt → SlotSt) : (s.modSlot n f).cores = s.cores := rfl
@[simp] theorem modSlot_fields (s : State) (n : Nat) (f : SlotSt → SlotSt) : (s.modSlot n f).fields = s.fields := rfl
@[simp] theorem modSlot_jobs (s : State) (n : Nat) (f : SlotSt → SlotSt) : (s.modSlot n f).jobs = s.jobs := rfl
@[simp] theorem modSlot_strands (s : State) (n : Nat) (f : SlotSt → SlotSt) : (s.modSlot n f).strands = s.strands := rfl
@[simp] theorem modSlot_mem (s : State) (n : Nat) (f : SlotSt → SlotSt) : (s.modSlot n f).mem = s.mem := rfl
@[simp] theorem modSlot_heirloom (s : State) (n : Nat) (f : SlotSt → SlotSt) : (s.modSlot n f).heirloom = s.heirloom := rfl
@[simp] theorem modSlot_hwCounts (s : State) (n : Nat) (f : SlotSt → SlotSt) : (s.modSlot n f).hwCounts = s.hwCounts := rfl
@[simp] theorem modSlot_opTime (s : State) (n : Nat) (f : SlotSt → SlotSt) : (s.modSlot n f).opTime = s.opTime := rfl
@[simp] theorem modSlot_hwQueue (s : State) (n : Nat) (f : SlotSt → SlotSt) : (s.modSlot n f).hwQueue = s.hwQueue := rfl
@[simp] theorem modSlot_replaceDue (s : State) (n : Nat) (f : SlotSt → SlotSt) : (s.modSlot n f).replaceDue = s.replaceDue := rfl
@[simp] theorem modSlot_out (s : State) (n : Nat) (f : SlotSt → SlotSt) : (s.modSlot n f).out = s.out := rfl
@[simp] theorem modSlot_free (s : State) (n : Nat) (f : SlotSt → SlotSt) : (s.modSlot n f).free = s.free := rfl
@[simp] theorem modSlot_pending (s : State) (n : Nat) (f : SlotSt → SlotSt) : (s.modSlot n f).pending = s.pending := rfl
@[simp] theorem modSlot_fst_cfg (s : State) (n : Nat) (f : SlotSt → SlotSt) : (s.modSlot n f).fst.cfg = s.fst.cfg := rfl
@[simp] theorem modSlot_fst_status (s : State) (n : Nat) (f : SlotSt → SlotSt) : (s.modSlot n f).fst.status = s.fst.status := rfl
@[simp] theorem modSlot_fst_stepCount (s : State) (n : Nat) (f : SlotSt → SlotSt) : (s.modSlot n f).fst.stepCount = s.fst.stepCount := rfl
@[simp] theorem modSlot_fst_stepFaults (s : State) (n : Nat) (f : SlotSt → SlotSt) : (s.modSlot n f).fst.stepFaults = s.fst.stepFaults := rfl
@[simp] theorem modSlot_fst_stepRefused (s : State) (n : Nat) (f : SlotSt → SlotSt) : (s.modSlot n f).fst.stepRefused = s.fst.stepRefused := rfl
@[simp] theorem modSlot_fst_streams (s : State) (n : Nat) (f : SlotSt → SlotSt) : (s.modSlot n f).fst.streams = s.fst.streams := rfl
@[simp] theorem modSlot_fst_stepTiles (s : State) (n : Nat) (f : SlotSt → SlotSt) : (s.modSlot n f).fst.stepTiles = s.fst.stepTiles := rfl

@[simp] theorem modJob_part (s : State) (n : Nat) (f : JobSt → JobSt) : (s.modJob n f).part = s.part := by
  simp only [State.modJob]; split <;> rfl
@[simp] theorem modJob_flash (s : State) (n : Nat) (f : JobSt → JobSt) : (s.modJob n f).flash = s.flash := by
  simp only [State.modJob]; split <;> rfl
@[simp] theorem modJob_pins (s : State) (n : Nat) (f : JobSt → JobSt) : (s.modJob n f).pins = s.pins := by
  simp only [State.modJob]; split <;> rfl
@[simp] theorem modJob_cal (s : State) (n : Nat) (f : JobSt → JobSt) : (s.modJob n f).cal = s.cal := by
  simp only [State.modJob]; split <;> rfl
@[simp] theorem modJob_gen (s : State) (n : Nat) (f : JobSt → JobSt) : (s.modJob n f).gen = s.gen := by
  simp only [State.modJob]; split <;> rfl
@[simp] theorem modJob_regsShadow (s : State) (n : Nat) (f : JobSt → JobSt) : (s.modJob n f).regsShadow = s.regsShadow := by
  simp only [State.modJob]; split <;> rfl
@[simp] theorem modJob_asy (s : State) (n : Nat) (f : JobSt → JobSt) : (s.modJob n f).asy = s.asy := by
  simp only [State.modJob]; split <;> rfl
@[simp] theorem modJob_clk (s : State) (n : Nat) (f : JobSt → JobSt) : (s.modJob n f).clk = s.clk := by
  simp only [State.modJob]; split <;> rfl
@[simp] theorem modJob_pwr (s : State) (n : Nat) (f : JobSt → JobSt) : (s.modJob n f).pwr = s.pwr := by
  simp only [State.modJob]; split <;> rfl
@[simp] theorem modJob_thm (s : State) (n : Nat) (f : JobSt → JobSt) : (s.modJob n f).thm = s.thm := by
  simp only [State.modJob]; split <;> rfl
@[simp] theorem modJob_alm (s : State) (n : Nat) (f : JobSt → JobSt) : (s.modJob n f).alm = s.alm := by
  simp only [State.modJob]; split <;> rfl
@[simp] theorem modJob_lkt (s : State) (n : Nat) (f : JobSt → JobSt) : (s.modJob n f).lkt = s.lkt := by
  simp only [State.modJob]; split <;> rfl
@[simp] theorem modJob_fst (s : State) (n : Nat) (f : JobSt → JobSt) : (s.modJob n f).fst = s.fst := by
  simp only [State.modJob]; split <;> rfl
@[simp] theorem modJob_lou (s : State) (n : Nat) (f : JobSt → JobSt) : (s.modJob n f).lou = s.lou := by
  simp only [State.modJob]; split <;> rfl
@[simp] theorem modJob_cxl (s : State) (n : Nat) (f : JobSt → JobSt) : (s.modJob n f).cxl = s.cxl := by
  simp only [State.modJob]; split <;> rfl
@[simp] theorem modJob_rng (s : State) (n : Nat) (f : JobSt → JobSt) : (s.modJob n f).rng = s.rng := by
  simp only [State.modJob]; split <;> rfl
@[simp] theorem modJob_cls (s : State) (n : Nat) (f : JobSt → JobSt) : (s.modJob n f).cls = s.cls := by
  simp only [State.modJob]; split <;> rfl
@[simp] theorem modJob_mgmt (s : State) (n : Nat) (f : JobSt → JobSt) : (s.modJob n f).mgmt = s.mgmt := by
  simp only [State.modJob]; split <;> rfl
@[simp] theorem modJob_sec (s : State) (n : Nat) (f : JobSt → JobSt) : (s.modJob n f).sec = s.sec := by
  simp only [State.modJob]; split <;> rfl
@[simp] theorem modJob_cores (s : State) (n : Nat) (f : JobSt → JobSt) : (s.modJob n f).cores = s.cores := by
  simp only [State.modJob]; split <;> rfl
@[simp] theorem modJob_fields (s : State) (n : Nat) (f : JobSt → JobSt) : (s.modJob n f).fields = s.fields := by
  simp only [State.modJob]; split <;> rfl
@[simp] theorem modJob_strands (s : State) (n : Nat) (f : JobSt → JobSt) : (s.modJob n f).strands = s.strands := by
  simp only [State.modJob]; split <;> rfl
@[simp] theorem modJob_mem (s : State) (n : Nat) (f : JobSt → JobSt) : (s.modJob n f).mem = s.mem := by
  simp only [State.modJob]; split <;> rfl
@[simp] theorem modJob_heirloom (s : State) (n : Nat) (f : JobSt → JobSt) : (s.modJob n f).heirloom = s.heirloom := by
  simp only [State.modJob]; split <;> rfl
@[simp] theorem modJob_hwCounts (s : State) (n : Nat) (f : JobSt → JobSt) : (s.modJob n f).hwCounts = s.hwCounts := by
  simp only [State.modJob]; split <;> rfl
@[simp] theorem modJob_opTime (s : State) (n : Nat) (f : JobSt → JobSt) : (s.modJob n f).opTime = s.opTime := by
  simp only [State.modJob]; split <;> rfl
@[simp] theorem modJob_hwQueue (s : State) (n : Nat) (f : JobSt → JobSt) : (s.modJob n f).hwQueue = s.hwQueue := by
  simp only [State.modJob]; split <;> rfl
@[simp] theorem modJob_replaceDue (s : State) (n : Nat) (f : JobSt → JobSt) : (s.modJob n f).replaceDue = s.replaceDue := by
  simp only [State.modJob]; split <;> rfl
@[simp] theorem modJob_out (s : State) (n : Nat) (f : JobSt → JobSt) : (s.modJob n f).out = s.out := by
  simp only [State.modJob]; split <;> rfl
@[simp] theorem modJob_free (s : State) (n : Nat) (f : JobSt → JobSt) : (s.modJob n f).free = s.free := by
  simp only [State.modJob]; split <;> rfl
@[simp] theorem modJob_pending (s : State) (n : Nat) (f : JobSt → JobSt) : (s.modJob n f).pending = s.pending := by
  simp only [State.modJob]; split <;> rfl

@[simp] theorem modStrand_part (s : State) (n : Nat) (f : StrandSt → StrandSt) : (s.modStrand n f).part = s.part := by
  simp only [State.modStrand]; split <;> rfl
@[simp] theorem modStrand_flash (s : State) (n : Nat) (f : StrandSt → StrandSt) : (s.modStrand n f).flash = s.flash := by
  simp only [State.modStrand]; split <;> rfl
@[simp] theorem modStrand_pins (s : State) (n : Nat) (f : StrandSt → StrandSt) : (s.modStrand n f).pins = s.pins := by
  simp only [State.modStrand]; split <;> rfl
@[simp] theorem modStrand_cal (s : State) (n : Nat) (f : StrandSt → StrandSt) : (s.modStrand n f).cal = s.cal := by
  simp only [State.modStrand]; split <;> rfl
@[simp] theorem modStrand_gen (s : State) (n : Nat) (f : StrandSt → StrandSt) : (s.modStrand n f).gen = s.gen := by
  simp only [State.modStrand]; split <;> rfl
@[simp] theorem modStrand_regsShadow (s : State) (n : Nat) (f : StrandSt → StrandSt) : (s.modStrand n f).regsShadow = s.regsShadow := by
  simp only [State.modStrand]; split <;> rfl
@[simp] theorem modStrand_asy (s : State) (n : Nat) (f : StrandSt → StrandSt) : (s.modStrand n f).asy = s.asy := by
  simp only [State.modStrand]; split <;> rfl
@[simp] theorem modStrand_clk (s : State) (n : Nat) (f : StrandSt → StrandSt) : (s.modStrand n f).clk = s.clk := by
  simp only [State.modStrand]; split <;> rfl
@[simp] theorem modStrand_pwr (s : State) (n : Nat) (f : StrandSt → StrandSt) : (s.modStrand n f).pwr = s.pwr := by
  simp only [State.modStrand]; split <;> rfl
@[simp] theorem modStrand_thm (s : State) (n : Nat) (f : StrandSt → StrandSt) : (s.modStrand n f).thm = s.thm := by
  simp only [State.modStrand]; split <;> rfl
@[simp] theorem modStrand_alm (s : State) (n : Nat) (f : StrandSt → StrandSt) : (s.modStrand n f).alm = s.alm := by
  simp only [State.modStrand]; split <;> rfl
@[simp] theorem modStrand_lkt (s : State) (n : Nat) (f : StrandSt → StrandSt) : (s.modStrand n f).lkt = s.lkt := by
  simp only [State.modStrand]; split <;> rfl
@[simp] theorem modStrand_fst (s : State) (n : Nat) (f : StrandSt → StrandSt) : (s.modStrand n f).fst = s.fst := by
  simp only [State.modStrand]; split <;> rfl
@[simp] theorem modStrand_lou (s : State) (n : Nat) (f : StrandSt → StrandSt) : (s.modStrand n f).lou = s.lou := by
  simp only [State.modStrand]; split <;> rfl
@[simp] theorem modStrand_cxl (s : State) (n : Nat) (f : StrandSt → StrandSt) : (s.modStrand n f).cxl = s.cxl := by
  simp only [State.modStrand]; split <;> rfl
@[simp] theorem modStrand_rng (s : State) (n : Nat) (f : StrandSt → StrandSt) : (s.modStrand n f).rng = s.rng := by
  simp only [State.modStrand]; split <;> rfl
@[simp] theorem modStrand_cls (s : State) (n : Nat) (f : StrandSt → StrandSt) : (s.modStrand n f).cls = s.cls := by
  simp only [State.modStrand]; split <;> rfl
@[simp] theorem modStrand_mgmt (s : State) (n : Nat) (f : StrandSt → StrandSt) : (s.modStrand n f).mgmt = s.mgmt := by
  simp only [State.modStrand]; split <;> rfl
@[simp] theorem modStrand_sec (s : State) (n : Nat) (f : StrandSt → StrandSt) : (s.modStrand n f).sec = s.sec := by
  simp only [State.modStrand]; split <;> rfl
@[simp] theorem modStrand_cores (s : State) (n : Nat) (f : StrandSt → StrandSt) : (s.modStrand n f).cores = s.cores := by
  simp only [State.modStrand]; split <;> rfl
@[simp] theorem modStrand_fields (s : State) (n : Nat) (f : StrandSt → StrandSt) : (s.modStrand n f).fields = s.fields := by
  simp only [State.modStrand]; split <;> rfl
@[simp] theorem modStrand_jobs (s : State) (n : Nat) (f : StrandSt → StrandSt) : (s.modStrand n f).jobs = s.jobs := by
  simp only [State.modStrand]; split <;> rfl
@[simp] theorem modStrand_mem (s : State) (n : Nat) (f : StrandSt → StrandSt) : (s.modStrand n f).mem = s.mem := by
  simp only [State.modStrand]; split <;> rfl
@[simp] theorem modStrand_heirloom (s : State) (n : Nat) (f : StrandSt → StrandSt) : (s.modStrand n f).heirloom = s.heirloom := by
  simp only [State.modStrand]; split <;> rfl
@[simp] theorem modStrand_hwCounts (s : State) (n : Nat) (f : StrandSt → StrandSt) : (s.modStrand n f).hwCounts = s.hwCounts := by
  simp only [State.modStrand]; split <;> rfl
@[simp] theorem modStrand_opTime (s : State) (n : Nat) (f : StrandSt → StrandSt) : (s.modStrand n f).opTime = s.opTime := by
  simp only [State.modStrand]; split <;> rfl
@[simp] theorem modStrand_hwQueue (s : State) (n : Nat) (f : StrandSt → StrandSt) : (s.modStrand n f).hwQueue = s.hwQueue := by
  simp only [State.modStrand]; split <;> rfl
@[simp] theorem modStrand_replaceDue (s : State) (n : Nat) (f : StrandSt → StrandSt) : (s.modStrand n f).replaceDue = s.replaceDue := by
  simp only [State.modStrand]; split <;> rfl
@[simp] theorem modStrand_out (s : State) (n : Nat) (f : StrandSt → StrandSt) : (s.modStrand n f).out = s.out := by
  simp only [State.modStrand]; split <;> rfl
@[simp] theorem modStrand_free (s : State) (n : Nat) (f : StrandSt → StrandSt) : (s.modStrand n f).free = s.free := by
  simp only [State.modStrand]; split <;> rfl
@[simp] theorem modStrand_pending (s : State) (n : Nat) (f : StrandSt → StrandSt) : (s.modStrand n f).pending = s.pending := by
  simp only [State.modStrand]; split <;> rfl

@[simp] theorem put_part (s : State) (o : Output) : (s.put o).part = s.part := rfl
@[simp] theorem put_flash (s : State) (o : Output) : (s.put o).flash = s.flash := rfl
@[simp] theorem put_pins (s : State) (o : Output) : (s.put o).pins = s.pins := rfl
@[simp] theorem put_cal (s : State) (o : Output) : (s.put o).cal = s.cal := rfl
@[simp] theorem put_gen (s : State) (o : Output) : (s.put o).gen = s.gen := rfl
@[simp] theorem put_regsShadow (s : State) (o : Output) : (s.put o).regsShadow = s.regsShadow := rfl
@[simp] theorem put_asy (s : State) (o : Output) : (s.put o).asy = s.asy := rfl
@[simp] theorem put_clk (s : State) (o : Output) : (s.put o).clk = s.clk := rfl
@[simp] theorem put_pwr (s : State) (o : Output) : (s.put o).pwr = s.pwr := rfl
@[simp] theorem put_thm (s : State) (o : Output) : (s.put o).thm = s.thm := rfl
@[simp] theorem put_alm (s : State) (o : Output) : (s.put o).alm = s.alm := rfl
@[simp] theorem put_lkt (s : State) (o : Output) : (s.put o).lkt = s.lkt := rfl
@[simp] theorem put_fst (s : State) (o : Output) : (s.put o).fst = s.fst := rfl
@[simp] theorem put_lou (s : State) (o : Output) : (s.put o).lou = s.lou := rfl
@[simp] theorem put_cxl (s : State) (o : Output) : (s.put o).cxl = s.cxl := rfl
@[simp] theorem put_rng (s : State) (o : Output) : (s.put o).rng = s.rng := rfl
@[simp] theorem put_cls (s : State) (o : Output) : (s.put o).cls = s.cls := rfl
@[simp] theorem put_mgmt (s : State) (o : Output) : (s.put o).mgmt = s.mgmt := rfl
@[simp] theorem put_sec (s : State) (o : Output) : (s.put o).sec = s.sec := rfl
@[simp] theorem put_cores (s : State) (o : Output) : (s.put o).cores = s.cores := rfl
@[simp] theorem put_fields (s : State) (o : Output) : (s.put o).fields = s.fields := rfl
@[simp] theorem put_jobs (s : State) (o : Output) : (s.put o).jobs = s.jobs := rfl
@[simp] theorem put_strands (s : State) (o : Output) : (s.put o).strands = s.strands := rfl
@[simp] theorem put_mem (s : State) (o : Output) : (s.put o).mem = s.mem := rfl
@[simp] theorem put_heirloom (s : State) (o : Output) : (s.put o).heirloom = s.heirloom := rfl
@[simp] theorem put_hwCounts (s : State) (o : Output) : (s.put o).hwCounts = s.hwCounts := rfl
@[simp] theorem put_opTime (s : State) (o : Output) : (s.put o).opTime = s.opTime := rfl
@[simp] theorem put_hwQueue (s : State) (o : Output) : (s.put o).hwQueue = s.hwQueue := rfl
@[simp] theorem put_replaceDue (s : State) (o : Output) : (s.put o).replaceDue = s.replaceDue := rfl
@[simp] theorem put_free (s : State) (o : Output) : (s.put o).free = s.free := rfl
@[simp] theorem put_pending (s : State) (o : Output) : (s.put o).pending = s.pending := rfl
@[simp] theorem put_out (s : State) (o : Output) : (s.put o).out = o :: s.out := rfl

/-! ## Units across updates of other units -/
@[simp] theorem setCore_field_at (s : State) (n : Nat) (v : CoreSt) (m : Nat) : (s.setCore n v).field m = s.field m := rfl
@[simp] theorem setCore_loupe_at (s : State) (n : Nat) (v : CoreSt) (m : Nat) : (s.setCore n v).loupe m = s.loupe m := rfl
@[simp] theorem setCore_ring_at (s : State) (n : Nat) (v : CoreSt) (m : Nat) : (s.setCore n v).ring m = s.ring m := rfl
@[simp] theorem setCore_region_at (s : State) (n : Nat) (v : CoreSt) (m : Nat) : (s.setCore n v).region m = s.region m := rfl
@[simp] theorem setCore_link_at (s : State) (n : Nat) (v : CoreSt) (m : Nat) : (s.setCore n v).link m = s.link m := rfl
@[simp] theorem setCore_proc_at (s : State) (n : Nat) (v : CoreSt) (m : Nat) : (s.setCore n v).proc m = s.proc m := rfl
@[simp] theorem setCore_slot_at (s : State) (n : Nat) (v : CoreSt) (m : Nat) : (s.setCore n v).slot m = s.slot m := rfl
@[simp] theorem setCore_entry_at (s : State) (n : Nat) (v : CoreSt) (m : Nat) : (s.setCore n v).entry m = s.entry m := rfl
@[simp] theorem setCore_job_at (s : State) (n : Nat) (v : CoreSt) (m : Nat) : (s.setCore n v).job? m = s.job? m := rfl
@[simp] theorem setCore_strand_at (s : State) (n : Nat) (v : CoreSt) (m : Nat) : (s.setCore n v).strand? m = s.strand? m := rfl
@[simp] theorem setField_core_at (s : State) (n : Nat) (v : FieldSt) (m : Nat) : (s.setField n v).core m = s.core m := rfl
@[simp] theorem setField_loupe_at (s : State) (n : Nat) (v : FieldSt) (m : Nat) : (s.setField n v).loupe m = s.loupe m := rfl
@[simp] theorem setField_ring_at (s : State) (n : Nat) (v : FieldSt) (m : Nat) : (s.setField n v).ring m = s.ring m := rfl
@[simp] theorem setField_region_at (s : State) (n : Nat) (v : FieldSt) (m : Nat) : (s.setField n v).region m = s.region m := rfl
@[simp] theorem setField_link_at (s : State) (n : Nat) (v : FieldSt) (m : Nat) : (s.setField n v).link m = s.link m := rfl
@[simp] theorem setField_proc_at (s : State) (n : Nat) (v : FieldSt) (m : Nat) : (s.setField n v).proc m = s.proc m := rfl
@[simp] theorem setField_slot_at (s : State) (n : Nat) (v : FieldSt) (m : Nat) : (s.setField n v).slot m = s.slot m := rfl
@[simp] theorem setField_entry_at (s : State) (n : Nat) (v : FieldSt) (m : Nat) : (s.setField n v).entry m = s.entry m := rfl
@[simp] theorem setField_job_at (s : State) (n : Nat) (v : FieldSt) (m : Nat) : (s.setField n v).job? m = s.job? m := rfl
@[simp] theorem setField_strand_at (s : State) (n : Nat) (v : FieldSt) (m : Nat) : (s.setField n v).strand? m = s.strand? m := rfl
@[simp] theorem setLoupe_core_at (s : State) (n : Nat) (v : LoupeSt) (m : Nat) : (s.setLoupe n v).core m = s.core m := rfl
@[simp] theorem setLoupe_field_at (s : State) (n : Nat) (v : LoupeSt) (m : Nat) : (s.setLoupe n v).field m = s.field m := rfl
@[simp] theorem setLoupe_ring_at (s : State) (n : Nat) (v : LoupeSt) (m : Nat) : (s.setLoupe n v).ring m = s.ring m := rfl
@[simp] theorem setLoupe_region_at (s : State) (n : Nat) (v : LoupeSt) (m : Nat) : (s.setLoupe n v).region m = s.region m := rfl
@[simp] theorem setLoupe_link_at (s : State) (n : Nat) (v : LoupeSt) (m : Nat) : (s.setLoupe n v).link m = s.link m := rfl
@[simp] theorem setLoupe_proc_at (s : State) (n : Nat) (v : LoupeSt) (m : Nat) : (s.setLoupe n v).proc m = s.proc m := rfl
@[simp] theorem setLoupe_slot_at (s : State) (n : Nat) (v : LoupeSt) (m : Nat) : (s.setLoupe n v).slot m = s.slot m := rfl
@[simp] theorem setLoupe_entry_at (s : State) (n : Nat) (v : LoupeSt) (m : Nat) : (s.setLoupe n v).entry m = s.entry m := rfl
@[simp] theorem setLoupe_job_at (s : State) (n : Nat) (v : LoupeSt) (m : Nat) : (s.setLoupe n v).job? m = s.job? m := rfl
@[simp] theorem setLoupe_strand_at (s : State) (n : Nat) (v : LoupeSt) (m : Nat) : (s.setLoupe n v).strand? m = s.strand? m := rfl
@[simp] theorem setRing_core_at (s : State) (n : Nat) (v : RingSt) (m : Nat) : (s.setRing n v).core m = s.core m := rfl
@[simp] theorem setRing_field_at (s : State) (n : Nat) (v : RingSt) (m : Nat) : (s.setRing n v).field m = s.field m := rfl
@[simp] theorem setRing_loupe_at (s : State) (n : Nat) (v : RingSt) (m : Nat) : (s.setRing n v).loupe m = s.loupe m := rfl
@[simp] theorem setRing_region_at (s : State) (n : Nat) (v : RingSt) (m : Nat) : (s.setRing n v).region m = s.region m := rfl
@[simp] theorem setRing_link_at (s : State) (n : Nat) (v : RingSt) (m : Nat) : (s.setRing n v).link m = s.link m := rfl
@[simp] theorem setRing_proc_at (s : State) (n : Nat) (v : RingSt) (m : Nat) : (s.setRing n v).proc m = s.proc m := rfl
@[simp] theorem setRing_slot_at (s : State) (n : Nat) (v : RingSt) (m : Nat) : (s.setRing n v).slot m = s.slot m := rfl
@[simp] theorem setRing_entry_at (s : State) (n : Nat) (v : RingSt) (m : Nat) : (s.setRing n v).entry m = s.entry m := rfl
@[simp] theorem setRing_job_at (s : State) (n : Nat) (v : RingSt) (m : Nat) : (s.setRing n v).job? m = s.job? m := rfl
@[simp] theorem setRing_strand_at (s : State) (n : Nat) (v : RingSt) (m : Nat) : (s.setRing n v).strand? m = s.strand? m := rfl
@[simp] theorem setRegion_core_at (s : State) (n : Nat) (v : RegionSt) (m : Nat) : (s.setRegion n v).core m = s.core m := rfl
@[simp] theorem setRegion_field_at (s : State) (n : Nat) (v : RegionSt) (m : Nat) : (s.setRegion n v).field m = s.field m := rfl
@[simp] theorem setRegion_loupe_at (s : State) (n : Nat) (v : RegionSt) (m : Nat) : (s.setRegion n v).loupe m = s.loupe m := rfl
@[simp] theorem setRegion_ring_at (s : State) (n : Nat) (v : RegionSt) (m : Nat) : (s.setRegion n v).ring m = s.ring m := rfl
@[simp] theorem setRegion_link_at (s : State) (n : Nat) (v : RegionSt) (m : Nat) : (s.setRegion n v).link m = s.link m := rfl
@[simp] theorem setRegion_proc_at (s : State) (n : Nat) (v : RegionSt) (m : Nat) : (s.setRegion n v).proc m = s.proc m := rfl
@[simp] theorem setRegion_slot_at (s : State) (n : Nat) (v : RegionSt) (m : Nat) : (s.setRegion n v).slot m = s.slot m := rfl
@[simp] theorem setRegion_entry_at (s : State) (n : Nat) (v : RegionSt) (m : Nat) : (s.setRegion n v).entry m = s.entry m := rfl
@[simp] theorem setRegion_job_at (s : State) (n : Nat) (v : RegionSt) (m : Nat) : (s.setRegion n v).job? m = s.job? m := rfl
@[simp] theorem setRegion_strand_at (s : State) (n : Nat) (v : RegionSt) (m : Nat) : (s.setRegion n v).strand? m = s.strand? m := rfl
@[simp] theorem setLink_core_at (s : State) (n : Nat) (v : LinkSt) (m : Nat) : (s.setLink n v).core m = s.core m := rfl
@[simp] theorem setLink_field_at (s : State) (n : Nat) (v : LinkSt) (m : Nat) : (s.setLink n v).field m = s.field m := rfl
@[simp] theorem setLink_loupe_at (s : State) (n : Nat) (v : LinkSt) (m : Nat) : (s.setLink n v).loupe m = s.loupe m := rfl
@[simp] theorem setLink_ring_at (s : State) (n : Nat) (v : LinkSt) (m : Nat) : (s.setLink n v).ring m = s.ring m := rfl
@[simp] theorem setLink_region_at (s : State) (n : Nat) (v : LinkSt) (m : Nat) : (s.setLink n v).region m = s.region m := rfl
@[simp] theorem setLink_proc_at (s : State) (n : Nat) (v : LinkSt) (m : Nat) : (s.setLink n v).proc m = s.proc m := rfl
@[simp] theorem setLink_slot_at (s : State) (n : Nat) (v : LinkSt) (m : Nat) : (s.setLink n v).slot m = s.slot m := rfl
@[simp] theorem setLink_entry_at (s : State) (n : Nat) (v : LinkSt) (m : Nat) : (s.setLink n v).entry m = s.entry m := rfl
@[simp] theorem setLink_job_at (s : State) (n : Nat) (v : LinkSt) (m : Nat) : (s.setLink n v).job? m = s.job? m := rfl
@[simp] theorem setLink_strand_at (s : State) (n : Nat) (v : LinkSt) (m : Nat) : (s.setLink n v).strand? m = s.strand? m := rfl
@[simp] theorem setProc_core_at (s : State) (n : Nat) (v : ProcSt) (m : Nat) : (s.setProc n v).core m = s.core m := rfl
@[simp] theorem setProc_field_at (s : State) (n : Nat) (v : ProcSt) (m : Nat) : (s.setProc n v).field m = s.field m := rfl
@[simp] theorem setProc_loupe_at (s : State) (n : Nat) (v : ProcSt) (m : Nat) : (s.setProc n v).loupe m = s.loupe m := rfl
@[simp] theorem setProc_ring_at (s : State) (n : Nat) (v : ProcSt) (m : Nat) : (s.setProc n v).ring m = s.ring m := rfl
@[simp] theorem setProc_region_at (s : State) (n : Nat) (v : ProcSt) (m : Nat) : (s.setProc n v).region m = s.region m := rfl
@[simp] theorem setProc_link_at (s : State) (n : Nat) (v : ProcSt) (m : Nat) : (s.setProc n v).link m = s.link m := rfl
@[simp] theorem setProc_slot_at (s : State) (n : Nat) (v : ProcSt) (m : Nat) : (s.setProc n v).slot m = s.slot m := rfl
@[simp] theorem setProc_entry_at (s : State) (n : Nat) (v : ProcSt) (m : Nat) : (s.setProc n v).entry m = s.entry m := rfl
@[simp] theorem setProc_job_at (s : State) (n : Nat) (v : ProcSt) (m : Nat) : (s.setProc n v).job? m = s.job? m := rfl
@[simp] theorem setProc_strand_at (s : State) (n : Nat) (v : ProcSt) (m : Nat) : (s.setProc n v).strand? m = s.strand? m := rfl
@[simp] theorem setSlot_core_at (s : State) (n : Nat) (v : SlotSt) (m : Nat) : (s.setSlot n v).core m = s.core m := rfl
@[simp] theorem setSlot_field_at (s : State) (n : Nat) (v : SlotSt) (m : Nat) : (s.setSlot n v).field m = s.field m := rfl
@[simp] theorem setSlot_loupe_at (s : State) (n : Nat) (v : SlotSt) (m : Nat) : (s.setSlot n v).loupe m = s.loupe m := rfl
@[simp] theorem setSlot_ring_at (s : State) (n : Nat) (v : SlotSt) (m : Nat) : (s.setSlot n v).ring m = s.ring m := rfl
@[simp] theorem setSlot_region_at (s : State) (n : Nat) (v : SlotSt) (m : Nat) : (s.setSlot n v).region m = s.region m := rfl
@[simp] theorem setSlot_link_at (s : State) (n : Nat) (v : SlotSt) (m : Nat) : (s.setSlot n v).link m = s.link m := rfl
@[simp] theorem setSlot_proc_at (s : State) (n : Nat) (v : SlotSt) (m : Nat) : (s.setSlot n v).proc m = s.proc m := rfl
@[simp] theorem setSlot_entry_at (s : State) (n : Nat) (v : SlotSt) (m : Nat) : (s.setSlot n v).entry m = s.entry m := rfl
@[simp] theorem setSlot_job_at (s : State) (n : Nat) (v : SlotSt) (m : Nat) : (s.setSlot n v).job? m = s.job? m := rfl
@[simp] theorem setSlot_strand_at (s : State) (n : Nat) (v : SlotSt) (m : Nat) : (s.setSlot n v).strand? m = s.strand? m := rfl
@[simp] theorem setEntry_core_at (s : State) (n : Nat) (v : LktEntry) (m : Nat) : (s.setEntry n v).core m = s.core m := rfl
@[simp] theorem setEntry_field_at (s : State) (n : Nat) (v : LktEntry) (m : Nat) : (s.setEntry n v).field m = s.field m := rfl
@[simp] theorem setEntry_loupe_at (s : State) (n : Nat) (v : LktEntry) (m : Nat) : (s.setEntry n v).loupe m = s.loupe m := rfl
@[simp] theorem setEntry_ring_at (s : State) (n : Nat) (v : LktEntry) (m : Nat) : (s.setEntry n v).ring m = s.ring m := rfl
@[simp] theorem setEntry_region_at (s : State) (n : Nat) (v : LktEntry) (m : Nat) : (s.setEntry n v).region m = s.region m := rfl
@[simp] theorem setEntry_link_at (s : State) (n : Nat) (v : LktEntry) (m : Nat) : (s.setEntry n v).link m = s.link m := rfl
@[simp] theorem setEntry_proc_at (s : State) (n : Nat) (v : LktEntry) (m : Nat) : (s.setEntry n v).proc m = s.proc m := rfl
@[simp] theorem setEntry_slot_at (s : State) (n : Nat) (v : LktEntry) (m : Nat) : (s.setEntry n v).slot m = s.slot m := rfl
@[simp] theorem setEntry_job_at (s : State) (n : Nat) (v : LktEntry) (m : Nat) : (s.setEntry n v).job? m = s.job? m := rfl
@[simp] theorem setEntry_strand_at (s : State) (n : Nat) (v : LktEntry) (m : Nat) : (s.setEntry n v).strand? m = s.strand? m := rfl
@[simp] theorem setJob_core_at (s : State) (n : Nat) (v : JobSt) (m : Nat) : (s.setJob n v).core m = s.core m := rfl
@[simp] theorem setJob_field_at (s : State) (n : Nat) (v : JobSt) (m : Nat) : (s.setJob n v).field m = s.field m := rfl
@[simp] theorem setJob_loupe_at (s : State) (n : Nat) (v : JobSt) (m : Nat) : (s.setJob n v).loupe m = s.loupe m := rfl
@[simp] theorem setJob_ring_at (s : State) (n : Nat) (v : JobSt) (m : Nat) : (s.setJob n v).ring m = s.ring m := rfl
@[simp] theorem setJob_region_at (s : State) (n : Nat) (v : JobSt) (m : Nat) : (s.setJob n v).region m = s.region m := rfl
@[simp] theorem setJob_link_at (s : State) (n : Nat) (v : JobSt) (m : Nat) : (s.setJob n v).link m = s.link m := rfl
@[simp] theorem setJob_proc_at (s : State) (n : Nat) (v : JobSt) (m : Nat) : (s.setJob n v).proc m = s.proc m := rfl
@[simp] theorem setJob_slot_at (s : State) (n : Nat) (v : JobSt) (m : Nat) : (s.setJob n v).slot m = s.slot m := rfl
@[simp] theorem setJob_entry_at (s : State) (n : Nat) (v : JobSt) (m : Nat) : (s.setJob n v).entry m = s.entry m := rfl
@[simp] theorem setJob_strand_at (s : State) (n : Nat) (v : JobSt) (m : Nat) : (s.setJob n v).strand? m = s.strand? m := rfl
@[simp] theorem setStrand_core_at (s : State) (n : Nat) (v : StrandSt) (m : Nat) : (s.setStrand n v).core m = s.core m := rfl
@[simp] theorem setStrand_field_at (s : State) (n : Nat) (v : StrandSt) (m : Nat) : (s.setStrand n v).field m = s.field m := rfl
@[simp] theorem setStrand_loupe_at (s : State) (n : Nat) (v : StrandSt) (m : Nat) : (s.setStrand n v).loupe m = s.loupe m := rfl
@[simp] theorem setStrand_ring_at (s : State) (n : Nat) (v : StrandSt) (m : Nat) : (s.setStrand n v).ring m = s.ring m := rfl
@[simp] theorem setStrand_region_at (s : State) (n : Nat) (v : StrandSt) (m : Nat) : (s.setStrand n v).region m = s.region m := rfl
@[simp] theorem setStrand_link_at (s : State) (n : Nat) (v : StrandSt) (m : Nat) : (s.setStrand n v).link m = s.link m := rfl
@[simp] theorem setStrand_proc_at (s : State) (n : Nat) (v : StrandSt) (m : Nat) : (s.setStrand n v).proc m = s.proc m := rfl
@[simp] theorem setStrand_slot_at (s : State) (n : Nat) (v : StrandSt) (m : Nat) : (s.setStrand n v).slot m = s.slot m := rfl
@[simp] theorem setStrand_entry_at (s : State) (n : Nat) (v : StrandSt) (m : Nat) : (s.setStrand n v).entry m = s.entry m := rfl
@[simp] theorem setStrand_job_at (s : State) (n : Nat) (v : StrandSt) (m : Nat) : (s.setStrand n v).job? m = s.job? m := rfl
@[simp] theorem modCore_field_at (s : State) (n : Nat) (f : CoreSt → CoreSt) (m : Nat) : (s.modCore n f).field m = s.field m := rfl
@[simp] theorem modCore_loupe_at (s : State) (n : Nat) (f : CoreSt → CoreSt) (m : Nat) : (s.modCore n f).loupe m = s.loupe m := rfl
@[simp] theorem modCore_ring_at (s : State) (n : Nat) (f : CoreSt → CoreSt) (m : Nat) : (s.modCore n f).ring m = s.ring m := rfl
@[simp] theorem modCore_region_at (s : State) (n : Nat) (f : CoreSt → CoreSt) (m : Nat) : (s.modCore n f).region m = s.region m := rfl
@[simp] theorem modCore_link_at (s : State) (n : Nat) (f : CoreSt → CoreSt) (m : Nat) : (s.modCore n f).link m = s.link m := rfl
@[simp] theorem modCore_proc_at (s : State) (n : Nat) (f : CoreSt → CoreSt) (m : Nat) : (s.modCore n f).proc m = s.proc m := rfl
@[simp] theorem modCore_slot_at (s : State) (n : Nat) (f : CoreSt → CoreSt) (m : Nat) : (s.modCore n f).slot m = s.slot m := rfl
@[simp] theorem modCore_entry_at (s : State) (n : Nat) (f : CoreSt → CoreSt) (m : Nat) : (s.modCore n f).entry m = s.entry m := rfl
@[simp] theorem modCore_job_at (s : State) (n : Nat) (f : CoreSt → CoreSt) (m : Nat) : (s.modCore n f).job? m = s.job? m := rfl
@[simp] theorem modCore_strand_at (s : State) (n : Nat) (f : CoreSt → CoreSt) (m : Nat) : (s.modCore n f).strand? m = s.strand? m := rfl
@[simp] theorem modField_core_at (s : State) (n : Nat) (f : FieldSt → FieldSt) (m : Nat) : (s.modField n f).core m = s.core m := rfl
@[simp] theorem modField_loupe_at (s : State) (n : Nat) (f : FieldSt → FieldSt) (m : Nat) : (s.modField n f).loupe m = s.loupe m := rfl
@[simp] theorem modField_ring_at (s : State) (n : Nat) (f : FieldSt → FieldSt) (m : Nat) : (s.modField n f).ring m = s.ring m := rfl
@[simp] theorem modField_region_at (s : State) (n : Nat) (f : FieldSt → FieldSt) (m : Nat) : (s.modField n f).region m = s.region m := rfl
@[simp] theorem modField_link_at (s : State) (n : Nat) (f : FieldSt → FieldSt) (m : Nat) : (s.modField n f).link m = s.link m := rfl
@[simp] theorem modField_proc_at (s : State) (n : Nat) (f : FieldSt → FieldSt) (m : Nat) : (s.modField n f).proc m = s.proc m := rfl
@[simp] theorem modField_slot_at (s : State) (n : Nat) (f : FieldSt → FieldSt) (m : Nat) : (s.modField n f).slot m = s.slot m := rfl
@[simp] theorem modField_entry_at (s : State) (n : Nat) (f : FieldSt → FieldSt) (m : Nat) : (s.modField n f).entry m = s.entry m := rfl
@[simp] theorem modField_job_at (s : State) (n : Nat) (f : FieldSt → FieldSt) (m : Nat) : (s.modField n f).job? m = s.job? m := rfl
@[simp] theorem modField_strand_at (s : State) (n : Nat) (f : FieldSt → FieldSt) (m : Nat) : (s.modField n f).strand? m = s.strand? m := rfl
@[simp] theorem modLoupe_core_at (s : State) (n : Nat) (f : LoupeSt → LoupeSt) (m : Nat) : (s.modLoupe n f).core m = s.core m := rfl
@[simp] theorem modLoupe_field_at (s : State) (n : Nat) (f : LoupeSt → LoupeSt) (m : Nat) : (s.modLoupe n f).field m = s.field m := rfl
@[simp] theorem modLoupe_ring_at (s : State) (n : Nat) (f : LoupeSt → LoupeSt) (m : Nat) : (s.modLoupe n f).ring m = s.ring m := rfl
@[simp] theorem modLoupe_region_at (s : State) (n : Nat) (f : LoupeSt → LoupeSt) (m : Nat) : (s.modLoupe n f).region m = s.region m := rfl
@[simp] theorem modLoupe_link_at (s : State) (n : Nat) (f : LoupeSt → LoupeSt) (m : Nat) : (s.modLoupe n f).link m = s.link m := rfl
@[simp] theorem modLoupe_proc_at (s : State) (n : Nat) (f : LoupeSt → LoupeSt) (m : Nat) : (s.modLoupe n f).proc m = s.proc m := rfl
@[simp] theorem modLoupe_slot_at (s : State) (n : Nat) (f : LoupeSt → LoupeSt) (m : Nat) : (s.modLoupe n f).slot m = s.slot m := rfl
@[simp] theorem modLoupe_entry_at (s : State) (n : Nat) (f : LoupeSt → LoupeSt) (m : Nat) : (s.modLoupe n f).entry m = s.entry m := rfl
@[simp] theorem modLoupe_job_at (s : State) (n : Nat) (f : LoupeSt → LoupeSt) (m : Nat) : (s.modLoupe n f).job? m = s.job? m := rfl
@[simp] theorem modLoupe_strand_at (s : State) (n : Nat) (f : LoupeSt → LoupeSt) (m : Nat) : (s.modLoupe n f).strand? m = s.strand? m := rfl
@[simp] theorem modRing_core_at (s : State) (n : Nat) (f : RingSt → RingSt) (m : Nat) : (s.modRing n f).core m = s.core m := rfl
@[simp] theorem modRing_field_at (s : State) (n : Nat) (f : RingSt → RingSt) (m : Nat) : (s.modRing n f).field m = s.field m := rfl
@[simp] theorem modRing_loupe_at (s : State) (n : Nat) (f : RingSt → RingSt) (m : Nat) : (s.modRing n f).loupe m = s.loupe m := rfl
@[simp] theorem modRing_region_at (s : State) (n : Nat) (f : RingSt → RingSt) (m : Nat) : (s.modRing n f).region m = s.region m := rfl
@[simp] theorem modRing_link_at (s : State) (n : Nat) (f : RingSt → RingSt) (m : Nat) : (s.modRing n f).link m = s.link m := rfl
@[simp] theorem modRing_proc_at (s : State) (n : Nat) (f : RingSt → RingSt) (m : Nat) : (s.modRing n f).proc m = s.proc m := rfl
@[simp] theorem modRing_slot_at (s : State) (n : Nat) (f : RingSt → RingSt) (m : Nat) : (s.modRing n f).slot m = s.slot m := rfl
@[simp] theorem modRing_entry_at (s : State) (n : Nat) (f : RingSt → RingSt) (m : Nat) : (s.modRing n f).entry m = s.entry m := rfl
@[simp] theorem modRing_job_at (s : State) (n : Nat) (f : RingSt → RingSt) (m : Nat) : (s.modRing n f).job? m = s.job? m := rfl
@[simp] theorem modRing_strand_at (s : State) (n : Nat) (f : RingSt → RingSt) (m : Nat) : (s.modRing n f).strand? m = s.strand? m := rfl
@[simp] theorem modRegion_core_at (s : State) (n : Nat) (f : RegionSt → RegionSt) (m : Nat) : (s.modRegion n f).core m = s.core m := rfl
@[simp] theorem modRegion_field_at (s : State) (n : Nat) (f : RegionSt → RegionSt) (m : Nat) : (s.modRegion n f).field m = s.field m := rfl
@[simp] theorem modRegion_loupe_at (s : State) (n : Nat) (f : RegionSt → RegionSt) (m : Nat) : (s.modRegion n f).loupe m = s.loupe m := rfl
@[simp] theorem modRegion_ring_at (s : State) (n : Nat) (f : RegionSt → RegionSt) (m : Nat) : (s.modRegion n f).ring m = s.ring m := rfl
@[simp] theorem modRegion_link_at (s : State) (n : Nat) (f : RegionSt → RegionSt) (m : Nat) : (s.modRegion n f).link m = s.link m := rfl
@[simp] theorem modRegion_proc_at (s : State) (n : Nat) (f : RegionSt → RegionSt) (m : Nat) : (s.modRegion n f).proc m = s.proc m := rfl
@[simp] theorem modRegion_slot_at (s : State) (n : Nat) (f : RegionSt → RegionSt) (m : Nat) : (s.modRegion n f).slot m = s.slot m := rfl
@[simp] theorem modRegion_entry_at (s : State) (n : Nat) (f : RegionSt → RegionSt) (m : Nat) : (s.modRegion n f).entry m = s.entry m := rfl
@[simp] theorem modRegion_job_at (s : State) (n : Nat) (f : RegionSt → RegionSt) (m : Nat) : (s.modRegion n f).job? m = s.job? m := rfl
@[simp] theorem modRegion_strand_at (s : State) (n : Nat) (f : RegionSt → RegionSt) (m : Nat) : (s.modRegion n f).strand? m = s.strand? m := rfl
@[simp] theorem modLink_core_at (s : State) (n : Nat) (f : LinkSt → LinkSt) (m : Nat) : (s.modLink n f).core m = s.core m := rfl
@[simp] theorem modLink_field_at (s : State) (n : Nat) (f : LinkSt → LinkSt) (m : Nat) : (s.modLink n f).field m = s.field m := rfl
@[simp] theorem modLink_loupe_at (s : State) (n : Nat) (f : LinkSt → LinkSt) (m : Nat) : (s.modLink n f).loupe m = s.loupe m := rfl
@[simp] theorem modLink_ring_at (s : State) (n : Nat) (f : LinkSt → LinkSt) (m : Nat) : (s.modLink n f).ring m = s.ring m := rfl
@[simp] theorem modLink_region_at (s : State) (n : Nat) (f : LinkSt → LinkSt) (m : Nat) : (s.modLink n f).region m = s.region m := rfl
@[simp] theorem modLink_proc_at (s : State) (n : Nat) (f : LinkSt → LinkSt) (m : Nat) : (s.modLink n f).proc m = s.proc m := rfl
@[simp] theorem modLink_slot_at (s : State) (n : Nat) (f : LinkSt → LinkSt) (m : Nat) : (s.modLink n f).slot m = s.slot m := rfl
@[simp] theorem modLink_entry_at (s : State) (n : Nat) (f : LinkSt → LinkSt) (m : Nat) : (s.modLink n f).entry m = s.entry m := rfl
@[simp] theorem modLink_job_at (s : State) (n : Nat) (f : LinkSt → LinkSt) (m : Nat) : (s.modLink n f).job? m = s.job? m := rfl
@[simp] theorem modLink_strand_at (s : State) (n : Nat) (f : LinkSt → LinkSt) (m : Nat) : (s.modLink n f).strand? m = s.strand? m := rfl
@[simp] theorem modProc_core_at (s : State) (n : Nat) (f : ProcSt → ProcSt) (m : Nat) : (s.modProc n f).core m = s.core m := rfl
@[simp] theorem modProc_field_at (s : State) (n : Nat) (f : ProcSt → ProcSt) (m : Nat) : (s.modProc n f).field m = s.field m := rfl
@[simp] theorem modProc_loupe_at (s : State) (n : Nat) (f : ProcSt → ProcSt) (m : Nat) : (s.modProc n f).loupe m = s.loupe m := rfl
@[simp] theorem modProc_ring_at (s : State) (n : Nat) (f : ProcSt → ProcSt) (m : Nat) : (s.modProc n f).ring m = s.ring m := rfl
@[simp] theorem modProc_region_at (s : State) (n : Nat) (f : ProcSt → ProcSt) (m : Nat) : (s.modProc n f).region m = s.region m := rfl
@[simp] theorem modProc_link_at (s : State) (n : Nat) (f : ProcSt → ProcSt) (m : Nat) : (s.modProc n f).link m = s.link m := rfl
@[simp] theorem modProc_slot_at (s : State) (n : Nat) (f : ProcSt → ProcSt) (m : Nat) : (s.modProc n f).slot m = s.slot m := rfl
@[simp] theorem modProc_entry_at (s : State) (n : Nat) (f : ProcSt → ProcSt) (m : Nat) : (s.modProc n f).entry m = s.entry m := rfl
@[simp] theorem modProc_job_at (s : State) (n : Nat) (f : ProcSt → ProcSt) (m : Nat) : (s.modProc n f).job? m = s.job? m := rfl
@[simp] theorem modProc_strand_at (s : State) (n : Nat) (f : ProcSt → ProcSt) (m : Nat) : (s.modProc n f).strand? m = s.strand? m := rfl
@[simp] theorem modSlot_core_at (s : State) (n : Nat) (f : SlotSt → SlotSt) (m : Nat) : (s.modSlot n f).core m = s.core m := rfl
@[simp] theorem modSlot_field_at (s : State) (n : Nat) (f : SlotSt → SlotSt) (m : Nat) : (s.modSlot n f).field m = s.field m := rfl
@[simp] theorem modSlot_loupe_at (s : State) (n : Nat) (f : SlotSt → SlotSt) (m : Nat) : (s.modSlot n f).loupe m = s.loupe m := rfl
@[simp] theorem modSlot_ring_at (s : State) (n : Nat) (f : SlotSt → SlotSt) (m : Nat) : (s.modSlot n f).ring m = s.ring m := rfl
@[simp] theorem modSlot_region_at (s : State) (n : Nat) (f : SlotSt → SlotSt) (m : Nat) : (s.modSlot n f).region m = s.region m := rfl
@[simp] theorem modSlot_link_at (s : State) (n : Nat) (f : SlotSt → SlotSt) (m : Nat) : (s.modSlot n f).link m = s.link m := rfl
@[simp] theorem modSlot_proc_at (s : State) (n : Nat) (f : SlotSt → SlotSt) (m : Nat) : (s.modSlot n f).proc m = s.proc m := rfl
@[simp] theorem modSlot_entry_at (s : State) (n : Nat) (f : SlotSt → SlotSt) (m : Nat) : (s.modSlot n f).entry m = s.entry m := rfl
@[simp] theorem modSlot_job_at (s : State) (n : Nat) (f : SlotSt → SlotSt) (m : Nat) : (s.modSlot n f).job? m = s.job? m := rfl
@[simp] theorem modSlot_strand_at (s : State) (n : Nat) (f : SlotSt → SlotSt) (m : Nat) : (s.modSlot n f).strand? m = s.strand? m := rfl
@[simp] theorem put_core_at (s : State) (o : Output) (m : Nat) : (s.put o).core m = s.core m := rfl
@[simp] theorem put_field_at (s : State) (o : Output) (m : Nat) : (s.put o).field m = s.field m := rfl
@[simp] theorem put_loupe_at (s : State) (o : Output) (m : Nat) : (s.put o).loupe m = s.loupe m := rfl
@[simp] theorem put_ring_at (s : State) (o : Output) (m : Nat) : (s.put o).ring m = s.ring m := rfl
@[simp] theorem put_region_at (s : State) (o : Output) (m : Nat) : (s.put o).region m = s.region m := rfl
@[simp] theorem put_link_at (s : State) (o : Output) (m : Nat) : (s.put o).link m = s.link m := rfl
@[simp] theorem put_proc_at (s : State) (o : Output) (m : Nat) : (s.put o).proc m = s.proc m := rfl
@[simp] theorem put_slot_at (s : State) (o : Output) (m : Nat) : (s.put o).slot m = s.slot m := rfl
@[simp] theorem put_entry_at (s : State) (o : Output) (m : Nat) : (s.put o).entry m = s.entry m := rfl
@[simp] theorem put_job_at (s : State) (o : Output) (m : Nat) : (s.put o).job? m = s.job? m := rfl
@[simp] theorem put_strand_at (s : State) (o : Output) (m : Nat) : (s.put o).strand? m = s.strand? m := rfl

end Sys2Proof.Machine
end

