-- ==== Sys2Proof/Laws/Ops.lean ====
section
/-! SUPPORT. What the shared operations can do: messages and interrupts, device events, the landing of a descriptor, its
completion, and the settling of a ring. -/

namespace Sys2Proof.Machine

@[simp] theorem sendMsix_part (s : State) (v : Nat) : (s.sendMsix v).part = s.part := by
  simp only [State.sendMsix]; split <;> rfl
@[simp] theorem sendMsix_flash (s : State) (v : Nat) : (s.sendMsix v).flash = s.flash := by
  simp only [State.sendMsix]; split <;> rfl
@[simp] theorem sendMsix_pins (s : State) (v : Nat) : (s.sendMsix v).pins = s.pins := by
  simp only [State.sendMsix]; split <;> rfl
@[simp] theorem sendMsix_cal (s : State) (v : Nat) : (s.sendMsix v).cal = s.cal := by
  simp only [State.sendMsix]; split <;> rfl
@[simp] theorem sendMsix_gen (s : State) (v : Nat) : (s.sendMsix v).gen = s.gen := by
  simp only [State.sendMsix]; split <;> rfl
@[simp] theorem sendMsix_regsShadow (s : State) (v : Nat) : (s.sendMsix v).regsShadow = s.regsShadow := by
  simp only [State.sendMsix]; split <;> rfl
@[simp] theorem sendMsix_asy (s : State) (v : Nat) : (s.sendMsix v).asy = s.asy := by
  simp only [State.sendMsix]; split <;> rfl
@[simp] theorem sendMsix_clk (s : State) (v : Nat) : (s.sendMsix v).clk = s.clk := by
  simp only [State.sendMsix]; split <;> rfl
@[simp] theorem sendMsix_pwr (s : State) (v : Nat) : (s.sendMsix v).pwr = s.pwr := by
  simp only [State.sendMsix]; split <;> rfl
@[simp] theorem sendMsix_thm (s : State) (v : Nat) : (s.sendMsix v).thm = s.thm := by
  simp only [State.sendMsix]; split <;> rfl
@[simp] theorem sendMsix_alm (s : State) (v : Nat) : (s.sendMsix v).alm = s.alm := by
  simp only [State.sendMsix]; split <;> rfl
@[simp] theorem sendMsix_lkt (s : State) (v : Nat) : (s.sendMsix v).lkt = s.lkt := by
  simp only [State.sendMsix]; split <;> rfl
@[simp] theorem sendMsix_fst (s : State) (v : Nat) : (s.sendMsix v).fst = s.fst := by
  simp only [State.sendMsix]; split <;> rfl
@[simp] theorem sendMsix_lou (s : State) (v : Nat) : (s.sendMsix v).lou = s.lou := by
  simp only [State.sendMsix]; split <;> rfl
@[simp] theorem sendMsix_cxl (s : State) (v : Nat) : (s.sendMsix v).cxl = s.cxl := by
  simp only [State.sendMsix]; split <;> rfl
@[simp] theorem sendMsix_cls (s : State) (v : Nat) : (s.sendMsix v).cls = s.cls := by
  simp only [State.sendMsix]; split <;> rfl
@[simp] theorem sendMsix_mgmt (s : State) (v : Nat) : (s.sendMsix v).mgmt = s.mgmt := by
  simp only [State.sendMsix]; split <;> rfl
@[simp] theorem sendMsix_sec (s : State) (v : Nat) : (s.sendMsix v).sec = s.sec := by
  simp only [State.sendMsix]; split <;> rfl
@[simp] theorem sendMsix_cores (s : State) (v : Nat) : (s.sendMsix v).cores = s.cores := by
  simp only [State.sendMsix]; split <;> rfl
@[simp] theorem sendMsix_fields (s : State) (v : Nat) : (s.sendMsix v).fields = s.fields := by
  simp only [State.sendMsix]; split <;> rfl
@[simp] theorem sendMsix_jobs (s : State) (v : Nat) : (s.sendMsix v).jobs = s.jobs := by
  simp only [State.sendMsix]; split <;> rfl
@[simp] theorem sendMsix_strands (s : State) (v : Nat) : (s.sendMsix v).strands = s.strands := by
  simp only [State.sendMsix]; split <;> rfl
@[simp] theorem sendMsix_mem (s : State) (v : Nat) : (s.sendMsix v).mem = s.mem := by
  simp only [State.sendMsix]; split <;> rfl
@[simp] theorem sendMsix_heirloom (s : State) (v : Nat) : (s.sendMsix v).heirloom = s.heirloom := by
  simp only [State.sendMsix]; split <;> rfl
@[simp] theorem sendMsix_hwCounts (s : State) (v : Nat) : (s.sendMsix v).hwCounts = s.hwCounts := by
  simp only [State.sendMsix]; split <;> rfl
@[simp] theorem sendMsix_opTime (s : State) (v : Nat) : (s.sendMsix v).opTime = s.opTime := by
  simp only [State.sendMsix]; split <;> rfl
@[simp] theorem sendMsix_hwQueue (s : State) (v : Nat) : (s.sendMsix v).hwQueue = s.hwQueue := by
  simp only [State.sendMsix]; split <;> rfl
@[simp] theorem sendMsix_replaceDue (s : State) (v : Nat) : (s.sendMsix v).replaceDue = s.replaceDue := by
  simp only [State.sendMsix]; split <;> rfl
@[simp] theorem sendMsix_free (s : State) (v : Nat) : (s.sendMsix v).free = s.free := by
  simp only [State.sendMsix]; split <;> rfl
@[simp] theorem sendMsix_pending (s : State) (v : Nat) : (s.sendMsix v).pending = s.pending := by
  simp only [State.sendMsix]; split <;> rfl

@[simp] theorem sendMsix_rings (s : State) (v : Nat) : (s.sendMsix v).rng.rings = s.rng.rings := by
  simp only [State.sendMsix]; split <;> rfl

@[simp] theorem interrupt_part (s : State) (v : Nat) : (s.interrupt v).part = s.part := by
  simp only [State.interrupt]; split <;> simp
@[simp] theorem interrupt_flash (s : State) (v : Nat) : (s.interrupt v).flash = s.flash := by
  simp only [State.interrupt]; split <;> simp
@[simp] theorem interrupt_pins (s : State) (v : Nat) : (s.interrupt v).pins = s.pins := by
  simp only [State.interrupt]; split <;> simp
@[simp] theorem interrupt_cal (s : State) (v : Nat) : (s.interrupt v).cal = s.cal := by
  simp only [State.interrupt]; split <;> simp
@[simp] theorem interrupt_gen (s : State) (v : Nat) : (s.interrupt v).gen = s.gen := by
  simp only [State.interrupt]; split <;> simp
@[simp] theorem interrupt_regsShadow (s : State) (v : Nat) : (s.interrupt v).regsShadow = s.regsShadow := by
  simp only [State.interrupt]; split <;> simp
@[simp] theorem interrupt_asy (s : State) (v : Nat) : (s.interrupt v).asy = s.asy := by
  simp only [State.interrupt]; split <;> simp
@[simp] theorem interrupt_clk (s : State) (v : Nat) : (s.interrupt v).clk = s.clk := by
  simp only [State.interrupt]; split <;> simp
@[simp] theorem interrupt_pwr (s : State) (v : Nat) : (s.interrupt v).pwr = s.pwr := by
  simp only [State.interrupt]; split <;> simp
@[simp] theorem interrupt_thm (s : State) (v : Nat) : (s.interrupt v).thm = s.thm := by
  simp only [State.interrupt]; split <;> simp
@[simp] theorem interrupt_alm (s : State) (v : Nat) : (s.interrupt v).alm = s.alm := by
  simp only [State.interrupt]; split <;> simp
@[simp] theorem interrupt_lkt (s : State) (v : Nat) : (s.interrupt v).lkt = s.lkt := by
  simp only [State.interrupt]; split <;> simp
@[simp] theorem interrupt_fst (s : State) (v : Nat) : (s.interrupt v).fst = s.fst := by
  simp only [State.interrupt]; split <;> simp
@[simp] theorem interrupt_lou (s : State) (v : Nat) : (s.interrupt v).lou = s.lou := by
  simp only [State.interrupt]; split <;> simp
@[simp] theorem interrupt_cxl (s : State) (v : Nat) : (s.interrupt v).cxl = s.cxl := by
  simp only [State.interrupt]; split <;> simp
@[simp] theorem interrupt_cls (s : State) (v : Nat) : (s.interrupt v).cls = s.cls := by
  simp only [State.interrupt]; split <;> simp
@[simp] theorem interrupt_mgmt (s : State) (v : Nat) : (s.interrupt v).mgmt = s.mgmt := by
  simp only [State.interrupt]; split <;> simp
@[simp] theorem interrupt_sec (s : State) (v : Nat) : (s.interrupt v).sec = s.sec := by
  simp only [State.interrupt]; split <;> simp
@[simp] theorem interrupt_cores (s : State) (v : Nat) : (s.interrupt v).cores = s.cores := by
  simp only [State.interrupt]; split <;> simp
@[simp] theorem interrupt_fields (s : State) (v : Nat) : (s.interrupt v).fields = s.fields := by
  simp only [State.interrupt]; split <;> simp
@[simp] theorem interrupt_jobs (s : State) (v : Nat) : (s.interrupt v).jobs = s.jobs := by
  simp only [State.interrupt]; split <;> simp
@[simp] theorem interrupt_strands (s : State) (v : Nat) : (s.interrupt v).strands = s.strands := by
  simp only [State.interrupt]; split <;> simp
@[simp] theorem interrupt_mem (s : State) (v : Nat) : (s.interrupt v).mem = s.mem := by
  simp only [State.interrupt]; split <;> simp
@[simp] theorem interrupt_heirloom (s : State) (v : Nat) : (s.interrupt v).heirloom = s.heirloom := by
  simp only [State.interrupt]; split <;> simp
@[simp] theorem interrupt_hwCounts (s : State) (v : Nat) : (s.interrupt v).hwCounts = s.hwCounts := by
  simp only [State.interrupt]; split <;> simp
@[simp] theorem interrupt_opTime (s : State) (v : Nat) : (s.interrupt v).opTime = s.opTime := by
  simp only [State.interrupt]; split <;> simp
@[simp] theorem interrupt_hwQueue (s : State) (v : Nat) : (s.interrupt v).hwQueue = s.hwQueue := by
  simp only [State.interrupt]; split <;> simp
@[simp] theorem interrupt_replaceDue (s : State) (v : Nat) : (s.interrupt v).replaceDue = s.replaceDue := by
  simp only [State.interrupt]; split <;> simp
@[simp] theorem interrupt_free (s : State) (v : Nat) : (s.interrupt v).free = s.free := by
  simp only [State.interrupt]; split <;> simp
@[simp] theorem interrupt_pending (s : State) (v : Nat) : (s.interrupt v).pending = s.pending := by
  simp only [State.interrupt]; split <;> simp

@[simp] theorem interrupt_rings (s : State) (v : Nat) : (s.interrupt v).rng.rings = s.rng.rings := by
  simp only [State.interrupt]; split <;> simp
@[simp] theorem interrupt_ring (s : State) (v n : Nat) : (s.interrupt v).ring n = s.ring n := by
  simp [State.ring]

@[simp] theorem event_part (s : State) (i : Nat) : (s.event i).part = s.part := by
  simp only [State.event]; split <;> (first | rfl | (split <;> simp))
@[simp] theorem event_flash (s : State) (i : Nat) : (s.event i).flash = s.flash := by
  simp only [State.event]; split <;> (first | rfl | (split <;> simp))
@[simp] theorem event_pins (s : State) (i : Nat) : (s.event i).pins = s.pins := by
  simp only [State.event]; split <;> (first | rfl | (split <;> simp))
@[simp] theorem event_cal (s : State) (i : Nat) : (s.event i).cal = s.cal := by
  simp only [State.event]; split <;> (first | rfl | (split <;> simp))
@[simp] theorem event_regsShadow (s : State) (i : Nat) : (s.event i).regsShadow = s.regsShadow := by
  simp only [State.event]; split <;> (first | rfl | (split <;> simp))
@[simp] theorem event_asy (s : State) (i : Nat) : (s.event i).asy = s.asy := by
  simp only [State.event]; split <;> (first | rfl | (split <;> simp))
@[simp] theorem event_clk (s : State) (i : Nat) : (s.event i).clk = s.clk := by
  simp only [State.event]; split <;> (first | rfl | (split <;> simp))
@[simp] theorem event_pwr (s : State) (i : Nat) : (s.event i).pwr = s.pwr := by
  simp only [State.event]; split <;> (first | rfl | (split <;> simp))
@[simp] theorem event_thm (s : State) (i : Nat) : (s.event i).thm = s.thm := by
  simp only [State.event]; split <;> (first | rfl | (split <;> simp))
@[simp] theorem event_alm (s : State) (i : Nat) : (s.event i).alm = s.alm := by
  simp only [State.event]; split <;> (first | rfl | (split <;> simp))
@[simp] theorem event_lkt (s : State) (i : Nat) : (s.event i).lkt = s.lkt := by
  simp only [State.event]; split <;> (first | rfl | (split <;> simp))
@[simp] theorem event_fst (s : State) (i : Nat) : (s.event i).fst = s.fst := by
  simp only [State.event]; split <;> (first | rfl | (split <;> simp))
@[simp] theorem event_lou (s : State) (i : Nat) : (s.event i).lou = s.lou := by
  simp only [State.event]; split <;> (first | rfl | (split <;> simp))
@[simp] theorem event_cxl (s : State) (i : Nat) : (s.event i).cxl = s.cxl := by
  simp only [State.event]; split <;> (first | rfl | (split <;> simp))
@[simp] theorem event_cls (s : State) (i : Nat) : (s.event i).cls = s.cls := by
  simp only [State.event]; split <;> (first | rfl | (split <;> simp))
@[simp] theorem event_mgmt (s : State) (i : Nat) : (s.event i).mgmt = s.mgmt := by
  simp only [State.event]; split <;> (first | rfl | (split <;> simp))
@[simp] theorem event_sec (s : State) (i : Nat) : (s.event i).sec = s.sec := by
  simp only [State.event]; split <;> (first | rfl | (split <;> simp))
@[simp] theorem event_cores (s : State) (i : Nat) : (s.event i).cores = s.cores := by
  simp only [State.event]; split <;> (first | rfl | (split <;> simp))
@[simp] theorem event_fields (s : State) (i : Nat) : (s.event i).fields = s.fields := by
  simp only [State.event]; split <;> (first | rfl | (split <;> simp))
@[simp] theorem event_jobs (s : State) (i : Nat) : (s.event i).jobs = s.jobs := by
  simp only [State.event]; split <;> (first | rfl | (split <;> simp))
@[simp] theorem event_strands (s : State) (i : Nat) : (s.event i).strands = s.strands := by
  simp only [State.event]; split <;> (first | rfl | (split <;> simp))
@[simp] theorem event_mem (s : State) (i : Nat) : (s.event i).mem = s.mem := by
  simp only [State.event]; split <;> (first | rfl | (split <;> simp))
@[simp] theorem event_heirloom (s : State) (i : Nat) : (s.event i).heirloom = s.heirloom := by
  simp only [State.event]; split <;> (first | rfl | (split <;> simp))
@[simp] theorem event_hwCounts (s : State) (i : Nat) : (s.event i).hwCounts = s.hwCounts := by
  simp only [State.event]; split <;> (first | rfl | (split <;> simp))
@[simp] theorem event_opTime (s : State) (i : Nat) : (s.event i).opTime = s.opTime := by
  simp only [State.event]; split <;> (first | rfl | (split <;> simp))
@[simp] theorem event_hwQueue (s : State) (i : Nat) : (s.event i).hwQueue = s.hwQueue := by
  simp only [State.event]; split <;> (first | rfl | (split <;> simp))
@[simp] theorem event_replaceDue (s : State) (i : Nat) : (s.event i).replaceDue = s.replaceDue := by
  simp only [State.event]; split <;> (first | rfl | (split <;> simp))
@[simp] theorem event_free (s : State) (i : Nat) : (s.event i).free = s.free := by
  simp only [State.event]; split <;> (first | rfl | (split <;> simp))
@[simp] theorem event_pending (s : State) (i : Nat) : (s.event i).pending = s.pending := by
  simp only [State.event]; split <;> (first | rfl | (split <;> simp))

@[simp] theorem event_rings (s : State) (i : Nat) : (s.event i).rng.rings = s.rng.rings := by
  simp only [State.event]; split <;> (first | rfl | (split <;> simp))
@[simp] theorem event_ring (s : State) (i n : Nat) : (s.event i).ring n = s.ring n := by
  simp [State.ring]
/-- Of the GEN_ registers a device event changes GEN_EVENT_STATUS alone. -/
theorem event_gen (s : State) (i : Nat) : (s.event i).gen = { s.gen with eventStatus := (s.event i).gen.eventStatus } := by
  simp only [State.event]; split <;> (first | rfl | (split <;> simp))
@[simp] theorem event_state (s : State) (i : Nat) : (s.event i).gen.state = s.gen.state := by
  rw [event_gen]

@[simp] theorem take_part (s : State) (n : Nat) : (s.take n).part = s.part := by
  rfl
@[simp] theorem take_flash (s : State) (n : Nat) : (s.take n).flash = s.flash := by
  rfl
@[simp] theorem take_pins (s : State) (n : Nat) : (s.take n).pins = s.pins := by
  rfl
@[simp] theorem take_cal (s : State) (n : Nat) : (s.take n).cal = s.cal := by
  rfl
@[simp] theorem take_gen (s : State) (n : Nat) : (s.take n).gen = s.gen := by
  rfl
@[simp] theorem take_regsShadow (s : State) (n : Nat) : (s.take n).regsShadow = s.regsShadow := by
  rfl
@[simp] theorem take_asy (s : State) (n : Nat) : (s.take n).asy = s.asy := by
  rfl
@[simp] theorem take_clk (s : State) (n : Nat) : (s.take n).clk = s.clk := by
  rfl
@[simp] theorem take_pwr (s : State) (n : Nat) : (s.take n).pwr = s.pwr := by
  rfl
@[simp] theorem take_thm (s : State) (n : Nat) : (s.take n).thm = s.thm := by
  rfl
@[simp] theorem take_alm (s : State) (n : Nat) : (s.take n).alm = s.alm := by
  rfl
@[simp] theorem take_lkt (s : State) (n : Nat) : (s.take n).lkt = s.lkt := by
  rfl
@[simp] theorem take_fst (s : State) (n : Nat) : (s.take n).fst = s.fst := by
  rfl
@[simp] theorem take_lou (s : State) (n : Nat) : (s.take n).lou = s.lou := by
  rfl
@[simp] theorem take_cls (s : State) (n : Nat) : (s.take n).cls = s.cls := by
  rfl
@[simp] theorem take_mgmt (s : State) (n : Nat) : (s.take n).mgmt = s.mgmt := by
  rfl
@[simp] theorem take_sec (s : State) (n : Nat) : (s.take n).sec = s.sec := by
  rfl
@[simp] theorem take_cores (s : State) (n : Nat) : (s.take n).cores = s.cores := by
  rfl
@[simp] theorem take_fields (s : State) (n : Nat) : (s.take n).fields = s.fields := by
  rfl
@[simp] theorem take_jobs (s : State) (n : Nat) : (s.take n).jobs = s.jobs := by
  rfl
@[simp] theorem take_strands (s : State) (n : Nat) : (s.take n).strands = s.strands := by
  rfl
@[simp] theorem take_mem (s : State) (n : Nat) : (s.take n).mem = s.mem := by
  rfl
@[simp] theorem take_heirloom (s : State) (n : Nat) : (s.take n).heirloom = s.heirloom := by
  rfl
@[simp] theorem take_hwCounts (s : State) (n : Nat) : (s.take n).hwCounts = s.hwCounts := by
  rfl
@[simp] theorem take_opTime (s : State) (n : Nat) : (s.take n).opTime = s.opTime := by
  rfl
@[simp] theorem take_hwQueue (s : State) (n : Nat) : (s.take n).hwQueue = s.hwQueue := by
  rfl
@[simp] theorem take_replaceDue (s : State) (n : Nat) : (s.take n).replaceDue = s.replaceDue := by
  rfl
@[simp] theorem take_out (s : State) (n : Nat) : (s.take n).out = s.out := by
  rfl
@[simp] theorem take_free (s : State) (n : Nat) : (s.take n).free = s.free := by
  rfl
@[simp] theorem take_pending (s : State) (n : Nat) : (s.take n).pending = s.pending := by
  rfl

@[simp] theorem take_ring (s : State) (n m : Nat) :
    (s.take n).ring m = if m = n then { s.ring n with fetched := (s.ring n).fetched.drop 1 } else s.ring m := by
  show (s.modRing n (fun k => { k with fetched := k.fetched.drop 1 })).ring m = _
  simp

@[simp] theorem openDue_part (s : State) (r : Rec32) : (s.openDue r).part = s.part := by
  simp only [State.openDue]
  repeat' split
  all_goals rfl
@[simp] theorem openDue_flash (s : State) (r : Rec32) : (s.openDue r).flash = s.flash := by
  simp only [State.openDue]
  repeat' split
  all_goals rfl
@[simp] theorem openDue_pins (s : State) (r : Rec32) : (s.openDue r).pins = s.pins := by
  simp only [State.openDue]
  repeat' split
  all_goals rfl
@[simp] theorem openDue_cal (s : State) (r : Rec32) : (s.openDue r).cal = s.cal := by
  simp only [State.openDue]
  repeat' split
  all_goals rfl
@[simp] theorem openDue_gen (s : State) (r : Rec32) : (s.openDue r).gen = s.gen := by
  simp only [State.openDue]
  repeat' split
  all_goals rfl
@[simp] theorem openDue_regsShadow (s : State) (r : Rec32) : (s.openDue r).regsShadow = s.regsShadow := by
  simp only [State.openDue]
  repeat' split
  all_goals rfl
@[simp] theorem openDue_asy (s : State) (r : Rec32) : (s.openDue r).asy = s.asy := by
  simp only [State.openDue]
  repeat' split
  all_goals rfl
@[simp] theorem openDue_clk (s : State) (r : Rec32) : (s.openDue r).clk = s.clk := by
  simp only [State.openDue]
  repeat' split
  all_goals rfl
@[simp] theorem openDue_pwr (s : State) (r : Rec32) : (s.openDue r).pwr = s.pwr := by
  simp only [State.openDue]
  repeat' split
  all_goals rfl
@[simp] theorem openDue_thm (s : State) (r : Rec32) : (s.openDue r).thm = s.thm := by
  simp only [State.openDue]
  repeat' split
  all_goals rfl
@[simp] theorem openDue_alm (s : State) (r : Rec32) : (s.openDue r).alm = s.alm := by
  simp only [State.openDue]
  repeat' split
  all_goals rfl
@[simp] theorem openDue_lkt (s : State) (r : Rec32) : (s.openDue r).lkt = s.lkt := by
  simp only [State.openDue]
  repeat' split
  all_goals rfl
@[simp] theorem openDue_lou (s : State) (r : Rec32) : (s.openDue r).lou = s.lou := by
  simp only [State.openDue]
  repeat' split
  all_goals rfl
@[simp] theorem openDue_cxl (s : State) (r : Rec32) : (s.openDue r).cxl = s.cxl := by
  simp only [State.openDue]
  repeat' split
  all_goals rfl
@[simp] theorem openDue_rng (s : State) (r : Rec32) : (s.openDue r).rng = s.rng := by
  simp only [State.openDue]
  repeat' split
  all_goals rfl
@[simp] theorem openDue_cls (s : State) (r : Rec32) : (s.openDue r).cls = s.cls := by
  simp only [State.openDue]
  repeat' split
  all_goals rfl
@[simp] theorem openDue_mgmt (s : State) (r : Rec32) : (s.openDue r).mgmt = s.mgmt := by
  simp only [State.openDue]
  repeat' split
  all_goals rfl
@[simp] theorem openDue_sec (s : State) (r : Rec32) : (s.openDue r).sec = s.sec := by
  simp only [State.openDue]
  repeat' split
  all_goals rfl
@[simp] theorem openDue_cores (s : State) (r : Rec32) : (s.openDue r).cores = s.cores := by
  simp only [State.openDue]
  repeat' split
  all_goals rfl
@[simp] theorem openDue_fields (s : State) (r : Rec32) : (s.openDue r).fields = s.fields := by
  simp only [State.openDue]
  repeat' split
  all_goals rfl
@[simp] theorem openDue_jobs (s : State) (r : Rec32) : (s.openDue r).jobs = s.jobs := by
  simp only [State.openDue]
  repeat' split
  all_goals rfl
@[simp] theorem openDue_strands (s : State) (r : Rec32) : (s.openDue r).strands = s.strands := by
  simp only [State.openDue]
  repeat' split
  all_goals rfl
@[simp] theorem openDue_mem (s : State) (r : Rec32) : (s.openDue r).mem = s.mem := by
  simp only [State.openDue]
  repeat' split
  all_goals rfl
@[simp] theorem openDue_heirloom (s : State) (r : Rec32) : (s.openDue r).heirloom = s.heirloom := by
  simp only [State.openDue]
  repeat' split
  all_goals rfl
@[simp] theorem openDue_hwCounts (s : State) (r : Rec32) : (s.openDue r).hwCounts = s.hwCounts := by
  simp only [State.openDue]
  repeat' split
  all_goals rfl
@[simp] theorem openDue_opTime (s : State) (r : Rec32) : (s.openDue r).opTime = s.opTime := by
  simp only [State.openDue]
  repeat' split
  all_goals rfl
@[simp] theorem openDue_hwQueue (s : State) (r : Rec32) : (s.openDue r).hwQueue = s.hwQueue := by
  simp only [State.openDue]
  repeat' split
  all_goals rfl
@[simp] theorem openDue_replaceDue (s : State) (r : Rec32) : (s.openDue r).replaceDue = s.replaceDue := by
  simp only [State.openDue]
  repeat' split
  all_goals rfl
@[simp] theorem openDue_out (s : State) (r : Rec32) : (s.openDue r).out = s.out := by
  simp only [State.openDue]
  repeat' split
  all_goals rfl
@[simp] theorem openDue_free (s : State) (r : Rec32) : (s.openDue r).free = s.free := by
  simp only [State.openDue]
  repeat' split
  all_goals rfl
@[simp] theorem openDue_pending (s : State) (r : Rec32) : (s.openDue r).pending = s.pending := by
  simp only [State.openDue]
  repeat' split
  all_goals rfl

theorem openDue_parts (s : State) (r : Rec32) : s.openDue r = { s with fst := (s.openDue r).fst } := by
  simp only [State.openDue]
  repeat' split
  all_goals rfl
@[simp] theorem openDue_none (s : State) (r : Rec32) (h : r.opens = none) : s.openDue r = s := by simp [State.openDue, h]
@[simp] theorem openDue_ring (s : State) (r : Rec32) (n : Nat) : (s.openDue r).ring n = s.ring n := by simp [State.ring]
@[simp] theorem openDue_stamp (s : State) (r : Rec32) : (s.openDue r).stamp = s.stamp := by
  rw [openDue_parts]; rfl
@[simp] theorem stamped_kind (r : Rec32) (t : W64) : (r.stamped t).kind = r.kind := by simp only [Rec32.stamped]; split <;> rfl
@[simp] theorem stamped_irq (r : Rec32) (t : W64) : (r.stamped t).irq = r.irq := by simp only [Rec32.stamped]; split <;> rfl

@[simp] theorem writeCpl_part (s : State) (n : Nat) (r : Rec32) : (s.writeCpl n r).part = s.part := by
  simp only [State.writeCpl]
  split <;> simp
@[simp] theorem writeCpl_flash (s : State) (n : Nat) (r : Rec32) : (s.writeCpl n r).flash = s.flash := by
  simp only [State.writeCpl]
  split <;> simp
@[simp] theorem writeCpl_pins (s : State) (n : Nat) (r : Rec32) : (s.writeCpl n r).pins = s.pins := by
  simp only [State.writeCpl]
  split <;> simp
@[simp] theorem writeCpl_cal (s : State) (n : Nat) (r : Rec32) : (s.writeCpl n r).cal = s.cal := by
  simp only [State.writeCpl]
  split <;> simp
@[simp] theorem writeCpl_gen (s : State) (n : Nat) (r : Rec32) : (s.writeCpl n r).gen = s.gen := by
  simp only [State.writeCpl]
  split <;> simp
@[simp] theorem writeCpl_regsShadow (s : State) (n : Nat) (r : Rec32) : (s.writeCpl n r).regsShadow = s.regsShadow := by
  simp only [State.writeCpl]
  split <;> simp
@[simp] theorem writeCpl_asy (s : State) (n : Nat) (r : Rec32) : (s.writeCpl n r).asy = s.asy := by
  simp only [State.writeCpl]
  split <;> simp
@[simp] theorem writeCpl_clk (s : State) (n : Nat) (r : Rec32) : (s.writeCpl n r).clk = s.clk := by
  simp only [State.writeCpl]
  split <;> simp
@[simp] theorem writeCpl_pwr (s : State) (n : Nat) (r : Rec32) : (s.writeCpl n r).pwr = s.pwr := by
  simp only [State.writeCpl]
  split <;> simp
@[simp] theorem writeCpl_thm (s : State) (n : Nat) (r : Rec32) : (s.writeCpl n r).thm = s.thm := by
  simp only [State.writeCpl]
  split <;> simp
@[simp] theorem writeCpl_alm (s : State) (n : Nat) (r : Rec32) : (s.writeCpl n r).alm = s.alm := by
  simp only [State.writeCpl]
  split <;> simp
@[simp] theorem writeCpl_lkt (s : State) (n : Nat) (r : Rec32) : (s.writeCpl n r).lkt = s.lkt := by
  simp only [State.writeCpl]
  split <;> simp
@[simp] theorem writeCpl_lou (s : State) (n : Nat) (r : Rec32) : (s.writeCpl n r).lou = s.lou := by
  simp only [State.writeCpl]
  split <;> simp
@[simp] theorem writeCpl_cxl (s : State) (n : Nat) (r : Rec32) : (s.writeCpl n r).cxl = s.cxl := by
  simp only [State.writeCpl]
  split <;> simp
@[simp] theorem writeCpl_cls (s : State) (n : Nat) (r : Rec32) : (s.writeCpl n r).cls = s.cls := by
  simp only [State.writeCpl]
  split <;> simp
@[simp] theorem writeCpl_mgmt (s : State) (n : Nat) (r : Rec32) : (s.writeCpl n r).mgmt = s.mgmt := by
  simp only [State.writeCpl]
  split <;> simp
@[simp] theorem writeCpl_sec (s : State) (n : Nat) (r : Rec32) : (s.writeCpl n r).sec = s.sec := by
  simp only [State.writeCpl]
  split <;> simp
@[simp] theorem writeCpl_cores (s : State) (n : Nat) (r : Rec32) : (s.writeCpl n r).cores = s.cores := by
  simp only [State.writeCpl]
  split <;> simp
@[simp] theorem writeCpl_fields (s : State) (n : Nat) (r : Rec32) : (s.writeCpl n r).fields = s.fields := by
  simp only [State.writeCpl]
  split <;> simp
@[simp] theorem writeCpl_jobs (s : State) (n : Nat) (r : Rec32) : (s.writeCpl n r).jobs = s.jobs := by
  simp only [State.writeCpl]
  split <;> simp
@[simp] theorem writeCpl_strands (s : State) (n : Nat) (r : Rec32) : (s.writeCpl n r).strands = s.strands := by
  simp only [State.writeCpl]
  split <;> simp
@[simp] theorem writeCpl_mem (s : State) (n : Nat) (r : Rec32) : (s.writeCpl n r).mem = s.mem := by
  simp only [State.writeCpl]
  split <;> simp
@[simp] theorem writeCpl_heirloom (s : State) (n : Nat) (r : Rec32) : (s.writeCpl n r).heirloom = s.heirloom := by
  simp only [State.writeCpl]
  split <;> simp
@[simp] theorem writeCpl_hwCounts (s : State) (n : Nat) (r : Rec32) : (s.writeCpl n r).hwCounts = s.hwCounts := by
  simp only [State.writeCpl]
  split <;> simp
@[simp] theorem writeCpl_opTime (s : State) (n : Nat) (r : Rec32) : (s.writeCpl n r).opTime = s.opTime := by
  simp only [State.writeCpl]
  split <;> simp
@[simp] theorem writeCpl_hwQueue (s : State) (n : Nat) (r : Rec32) : (s.writeCpl n r).hwQueue = s.hwQueue := by
  simp only [State.writeCpl]
  split <;> simp
@[simp] theorem writeCpl_replaceDue (s : State) (n : Nat) (r : Rec32) : (s.writeCpl n r).replaceDue = s.replaceDue := by
  simp only [State.writeCpl]
  split <;> simp
@[simp] theorem writeCpl_free (s : State) (n : Nat) (r : Rec32) : (s.writeCpl n r).free = s.free := by
  simp only [State.writeCpl]
  split <;> simp
@[simp] theorem writeCpl_pending (s : State) (n : Nat) (r : Rec32) : (s.writeCpl n r).pending = s.pending := by
  simp only [State.writeCpl]
  split <;> simp

theorem writeCpl_fst (s : State) (n : Nat) (r : Rec32) : (s.writeCpl n r).fst = (s.openDue r).fst := by
  simp only [State.writeCpl]
  split <;> simp
@[simp] theorem interrupt_haltDue (s : State) (v : Nat) : (s.interrupt v).rng.haltDue = s.rng.haltDue := by
  simp only [State.interrupt, State.sendMsix]
  repeat' split
  all_goals rfl
@[simp] theorem writeCpl_haltDue (s : State) (n : Nat) (r : Rec32) : (s.writeCpl n r).rng.haltDue = s.rng.haltDue := by
  simp only [State.writeCpl]
  split <;> simp [State.setRing]
@[simp] theorem loseCpl_part (s : State) (n : Nat) (r : Rec32) : (s.loseCpl n r).part = s.part := by
  simp [State.loseCpl]
@[simp] theorem loseCpl_flash (s : State) (n : Nat) (r : Rec32) : (s.loseCpl n r).flash = s.flash := by
  simp [State.loseCpl]
@[simp] theorem loseCpl_pins (s : State) (n : Nat) (r : Rec32) : (s.loseCpl n r).pins = s.pins := by
  simp [State.loseCpl]
@[simp] theorem loseCpl_cal (s : State) (n : Nat) (r : Rec32) : (s.loseCpl n r).cal = s.cal := by
  simp [State.loseCpl]
@[simp] theorem loseCpl_gen (s : State) (n : Nat) (r : Rec32) : (s.loseCpl n r).gen = s.gen := by
  simp [State.loseCpl]
@[simp] theorem loseCpl_regsShadow (s : State) (n : Nat) (r : Rec32) : (s.loseCpl n r).regsShadow = s.regsShadow := by
  simp [State.loseCpl]
@[simp] theorem loseCpl_asy (s : State) (n : Nat) (r : Rec32) : (s.loseCpl n r).asy = s.asy := by
  simp [State.loseCpl]
@[simp] theorem loseCpl_clk (s : State) (n : Nat) (r : Rec32) : (s.loseCpl n r).clk = s.clk := by
  simp [State.loseCpl]
@[simp] theorem loseCpl_pwr (s : State) (n : Nat) (r : Rec32) : (s.loseCpl n r).pwr = s.pwr := by
  simp [State.loseCpl]
@[simp] theorem loseCpl_thm (s : State) (n : Nat) (r : Rec32) : (s.loseCpl n r).thm = s.thm := by
  simp [State.loseCpl]
@[simp] theorem loseCpl_alm (s : State) (n : Nat) (r : Rec32) : (s.loseCpl n r).alm = s.alm := by
  simp [State.loseCpl]
@[simp] theorem loseCpl_lkt (s : State) (n : Nat) (r : Rec32) : (s.loseCpl n r).lkt = s.lkt := by
  simp [State.loseCpl]
@[simp] theorem loseCpl_fst (s : State) (n : Nat) (r : Rec32) : (s.loseCpl n r).fst = s.fst := by
  simp [State.loseCpl]
@[simp] theorem loseCpl_lou (s : State) (n : Nat) (r : Rec32) : (s.loseCpl n r).lou = s.lou := by
  simp [State.loseCpl]
@[simp] theorem loseCpl_cxl (s : State) (n : Nat) (r : Rec32) : (s.loseCpl n r).cxl = s.cxl := by
  simp [State.loseCpl]
@[simp] theorem loseCpl_cls (s : State) (n : Nat) (r : Rec32) : (s.loseCpl n r).cls = s.cls := by
  simp [State.loseCpl]
@[simp] theorem loseCpl_mgmt (s : State) (n : Nat) (r : Rec32) : (s.loseCpl n r).mgmt = s.mgmt := by
  simp [State.loseCpl]
@[simp] theorem loseCpl_sec (s : State) (n : Nat) (r : Rec32) : (s.loseCpl n r).sec = s.sec := by
  simp [State.loseCpl]
@[simp] theorem loseCpl_cores (s : State) (n : Nat) (r : Rec32) : (s.loseCpl n r).cores = s.cores := by
  simp [State.loseCpl]
@[simp] theorem loseCpl_fields (s : State) (n : Nat) (r : Rec32) : (s.loseCpl n r).fields = s.fields := by
  simp [State.loseCpl]
@[simp] theorem loseCpl_jobs (s : State) (n : Nat) (r : Rec32) : (s.loseCpl n r).jobs = s.jobs := by
  simp [State.loseCpl]
@[simp] theorem loseCpl_strands (s : State) (n : Nat) (r : Rec32) : (s.loseCpl n r).strands = s.strands := by
  simp [State.loseCpl]
@[simp] theorem loseCpl_mem (s : State) (n : Nat) (r : Rec32) : (s.loseCpl n r).mem = s.mem := by
  simp [State.loseCpl]
@[simp] theorem loseCpl_heirloom (s : State) (n : Nat) (r : Rec32) : (s.loseCpl n r).heirloom = s.heirloom := by
  simp [State.loseCpl]
@[simp] theorem loseCpl_hwCounts (s : State) (n : Nat) (r : Rec32) : (s.loseCpl n r).hwCounts = s.hwCounts := by
  simp [State.loseCpl]
@[simp] theorem loseCpl_opTime (s : State) (n : Nat) (r : Rec32) : (s.loseCpl n r).opTime = s.opTime := by
  simp [State.loseCpl]
@[simp] theorem loseCpl_hwQueue (s : State) (n : Nat) (r : Rec32) : (s.loseCpl n r).hwQueue = s.hwQueue := by
  simp [State.loseCpl]
@[simp] theorem loseCpl_replaceDue (s : State) (n : Nat) (r : Rec32) : (s.loseCpl n r).replaceDue = s.replaceDue := by
  simp [State.loseCpl]
@[simp] theorem loseCpl_out (s : State) (n : Nat) (r : Rec32) : (s.loseCpl n r).out = s.out := by
  simp [State.loseCpl]
@[simp] theorem loseCpl_free (s : State) (n : Nat) (r : Rec32) : (s.loseCpl n r).free = s.free := by
  simp [State.loseCpl]
@[simp] theorem loseCpl_pending (s : State) (n : Nat) (r : Rec32) : (s.loseCpl n r).pending = s.pending := by
  simp [State.loseCpl]

@[simp] theorem settleRing_part (s : State) (n : Nat) : (s.settleRing n).part = s.part := by
  simp only [State.settleRing]; split <;> simp
@[simp] theorem settleRing_flash (s : State) (n : Nat) : (s.settleRing n).flash = s.flash := by
  simp only [State.settleRing]; split <;> simp
@[simp] theorem settleRing_pins (s : State) (n : Nat) : (s.settleRing n).pins = s.pins := by
  simp only [State.settleRing]; split <;> simp
@[simp] theorem settleRing_cal (s : State) (n : Nat) : (s.settleRing n).cal = s.cal := by
  simp only [State.settleRing]; split <;> simp
@[simp] theorem settleRing_gen (s : State) (n : Nat) : (s.settleRing n).gen = s.gen := by
  simp only [State.settleRing]; split <;> simp
@[simp] theorem settleRing_regsShadow (s : State) (n : Nat) : (s.settleRing n).regsShadow = s.regsShadow := by
  simp only [State.settleRing]; split <;> simp
@[simp] theorem settleRing_asy (s : State) (n : Nat) : (s.settleRing n).asy = s.asy := by
  simp only [State.settleRing]; split <;> simp
@[simp] theorem settleRing_clk (s : State) (n : Nat) : (s.settleRing n).clk = s.clk := by
  simp only [State.settleRing]; split <;> simp
@[simp] theorem settleRing_pwr (s : State) (n : Nat) : (s.settleRing n).pwr = s.pwr := by
  simp only [State.settleRing]; split <;> simp
@[simp] theorem settleRing_thm (s : State) (n : Nat) : (s.settleRing n).thm = s.thm := by
  simp only [State.settleRing]; split <;> simp
@[simp] theorem settleRing_alm (s : State) (n : Nat) : (s.settleRing n).alm = s.alm := by
  simp only [State.settleRing]; split <;> simp
@[simp] theorem settleRing_lkt (s : State) (n : Nat) : (s.settleRing n).lkt = s.lkt := by
  simp only [State.settleRing]; split <;> simp
@[simp] theorem settleRing_fst (s : State) (n : Nat) : (s.settleRing n).fst = s.fst := by
  simp only [State.settleRing]; split <;> simp
@[simp] theorem settleRing_lou (s : State) (n : Nat) : (s.settleRing n).lou = s.lou := by
  simp only [State.settleRing]; split <;> simp
@[simp] theorem settleRing_cxl (s : State) (n : Nat) : (s.settleRing n).cxl = s.cxl := by
  simp only [State.settleRing]; split <;> simp
@[simp] theorem settleRing_cls (s : State) (n : Nat) : (s.settleRing n).cls = s.cls := by
  simp only [State.settleRing]; split <;> simp
@[simp] theorem settleRing_mgmt (s : State) (n : Nat) : (s.settleRing n).mgmt = s.mgmt := by
  simp only [State.settleRing]; split <;> simp
@[simp] theorem settleRing_sec (s : State) (n : Nat) : (s.settleRing n).sec = s.sec := by
  simp only [State.settleRing]; split <;> simp
@[simp] theorem settleRing_cores (s : State) (n : Nat) : (s.settleRing n).cores = s.cores := by
  simp only [State.settleRing]; split <;> simp
@[simp] theorem settleRing_fields (s : State) (n : Nat) : (s.settleRing n).fields = s.fields := by
  simp only [State.settleRing]; split <;> simp
@[simp] theorem settleRing_jobs (s : State) (n : Nat) : (s.settleRing n).jobs = s.jobs := by
  simp only [State.settleRing]; split <;> simp
@[simp] theorem settleRing_strands (s : State) (n : Nat) : (s.settleRing n).strands = s.strands := by
  simp only [State.settleRing]; split <;> simp
@[simp] theorem settleRing_mem (s : State) (n : Nat) : (s.settleRing n).mem = s.mem := by
  simp only [State.settleRing]; split <;> simp
@[simp] theorem settleRing_heirloom (s : State) (n : Nat) : (s.settleRing n).heirloom = s.heirloom := by
  simp only [State.settleRing]; split <;> simp
@[simp] theorem settleRing_hwCounts (s : State) (n : Nat) : (s.settleRing n).hwCounts = s.hwCounts := by
  simp only [State.settleRing]; split <;> simp
@[simp] theorem settleRing_opTime (s : State) (n : Nat) : (s.settleRing n).opTime = s.opTime := by
  simp only [State.settleRing]; split <;> simp
@[simp] theorem settleRing_hwQueue (s : State) (n : Nat) : (s.settleRing n).hwQueue = s.hwQueue := by
  simp only [State.settleRing]; split <;> simp
@[simp] theorem settleRing_replaceDue (s : State) (n : Nat) : (s.settleRing n).replaceDue = s.replaceDue := by
  simp only [State.settleRing]; split <;> simp
@[simp] theorem settleRing_out (s : State) (n : Nat) : (s.settleRing n).out = s.out := by
  simp only [State.settleRing]; split <;> simp
@[simp] theorem settleRing_free (s : State) (n : Nat) : (s.settleRing n).free = s.free := by
  simp only [State.settleRing]; split <;> simp
@[simp] theorem settleRing_pending (s : State) (n : Nat) : (s.settleRing n).pending = s.pending := by
  simp only [State.settleRing]; split <;> simp

@[simp] theorem loseCpl_haltDue (s : State) (n : Nat) (r : Rec32) : (s.loseCpl n r).rng.haltDue = s.rng.haltDue := rfl
@[simp] theorem settleRing_haltDue (s : State) (n : Nat) : (s.settleRing n).rng.haltDue = s.rng.haltDue := by
  simp only [State.settleRing]; split <;> rfl
theorem settleRing_rng (s : State) (n : Nat) : s.settleRing n = { s with rng := (s.settleRing n).rng } := by
  simp only [State.settleRing]; split <;> rfl
theorem loseCpl_settle (s : State) (n : Nat) (r : Rec32) :
    (s.loseCpl n r).settleRing n = { s with rng := ((s.loseCpl n r).settleRing n).rng, out := ((s.loseCpl n r).settleRing n).out } := by
  rw [settleRing_rng]; rfl
theorem interrupt_parts (s : State) (v : Nat) : s.interrupt v = { s with rng := (s.interrupt v).rng, out := (s.interrupt v).out } := by
  simp only [State.interrupt, State.sendMsix]
  repeat' split
  all_goals rfl
theorem writeCpl_parts (s : State) (n : Nat) (r : Rec32) :
    s.writeCpl n r = { s with rng := (s.writeCpl n r).rng, out := (s.writeCpl n r).out, fst := (s.openDue r).fst } := by
  rw [← writeCpl_fst s n r]
  simp only [State.writeCpl]
  split
  · rw [interrupt_parts, openDue_parts]; rfl
  · rw [openDue_parts]; rfl
theorem writeCpl_settle (s : State) (n : Nat) (r : Rec32) (h : r.opens = none) :
    (s.writeCpl n r).settleRing n = { s with rng := ((s.writeCpl n r).settleRing n).rng, out := ((s.writeCpl n r).settleRing n).out } := by
  rw [settleRing_rng, writeCpl_parts, openDue_none s r h]

@[simp] theorem markHalt_part (s : State) (n c : Nat) : (s.markHalt n c).part = s.part := by
  simp only [State.markHalt]; split <;> simp
@[simp] theorem markHalt_flash (s : State) (n c : Nat) : (s.markHalt n c).flash = s.flash := by
  simp only [State.markHalt]; split <;> simp
@[simp] theorem markHalt_pins (s : State) (n c : Nat) : (s.markHalt n c).pins = s.pins := by
  simp only [State.markHalt]; split <;> simp
@[simp] theorem markHalt_cal (s : State) (n c : Nat) : (s.markHalt n c).cal = s.cal := by
  simp only [State.markHalt]; split <;> simp
@[simp] theorem markHalt_regsShadow (s : State) (n c : Nat) : (s.markHalt n c).regsShadow = s.regsShadow := by
  simp only [State.markHalt]; split <;> simp
@[simp] theorem markHalt_asy (s : State) (n c : Nat) : (s.markHalt n c).asy = s.asy := by
  simp only [State.markHalt]; split <;> simp
@[simp] theorem markHalt_clk (s : State) (n c : Nat) : (s.markHalt n c).clk = s.clk := by
  simp only [State.markHalt]; split <;> simp
@[simp] theorem markHalt_pwr (s : State) (n c : Nat) : (s.markHalt n c).pwr = s.pwr := by
  simp only [State.markHalt]; split <;> simp
@[simp] theorem markHalt_thm (s : State) (n c : Nat) : (s.markHalt n c).thm = s.thm := by
  simp only [State.markHalt]; split <;> simp
@[simp] theorem markHalt_alm (s : State) (n c : Nat) : (s.markHalt n c).alm = s.alm := by
  simp only [State.markHalt]; split <;> simp
@[simp] theorem markHalt_lkt (s : State) (n c : Nat) : (s.markHalt n c).lkt = s.lkt := by
  simp only [State.markHalt]; split <;> simp
@[simp] theorem markHalt_fst (s : State) (n c : Nat) : (s.markHalt n c).fst = s.fst := by
  simp only [State.markHalt]; split <;> simp
@[simp] theorem markHalt_lou (s : State) (n c : Nat) : (s.markHalt n c).lou = s.lou := by
  simp only [State.markHalt]; split <;> simp
@[simp] theorem markHalt_cls (s : State) (n c : Nat) : (s.markHalt n c).cls = s.cls := by
  simp only [State.markHalt]; split <;> simp
@[simp] theorem markHalt_mgmt (s : State) (n c : Nat) : (s.markHalt n c).mgmt = s.mgmt := by
  simp only [State.markHalt]; split <;> simp
@[simp] theorem markHalt_sec (s : State) (n c : Nat) : (s.markHalt n c).sec = s.sec := by
  simp only [State.markHalt]; split <;> simp
@[simp] theorem markHalt_cores (s : State) (n c : Nat) : (s.markHalt n c).cores = s.cores := by
  simp only [State.markHalt]; split <;> simp
@[simp] theorem markHalt_fields (s : State) (n c : Nat) : (s.markHalt n c).fields = s.fields := by
  simp only [State.markHalt]; split <;> simp
@[simp] theorem markHalt_jobs (s : State) (n c : Nat) : (s.markHalt n c).jobs = s.jobs := by
  simp only [State.markHalt]; split <;> simp
@[simp] theorem markHalt_strands (s : State) (n c : Nat) : (s.markHalt n c).strands = s.strands := by
  simp only [State.markHalt]; split <;> simp
@[simp] theorem markHalt_mem (s : State) (n c : Nat) : (s.markHalt n c).mem = s.mem := by
  simp only [State.markHalt]; split <;> simp
@[simp] theorem markHalt_heirloom (s : State) (n c : Nat) : (s.markHalt n c).heirloom = s.heirloom := by
  simp only [State.markHalt]; split <;> simp
@[simp] theorem markHalt_hwCounts (s : State) (n c : Nat) : (s.markHalt n c).hwCounts = s.hwCounts := by
  simp only [State.markHalt]; split <;> simp
@[simp] theorem markHalt_opTime (s : State) (n c : Nat) : (s.markHalt n c).opTime = s.opTime := by
  simp only [State.markHalt]; split <;> simp
@[simp] theorem markHalt_hwQueue (s : State) (n c : Nat) : (s.markHalt n c).hwQueue = s.hwQueue := by
  simp only [State.markHalt]; split <;> simp
@[simp] theorem markHalt_replaceDue (s : State) (n c : Nat) : (s.markHalt n c).replaceDue = s.replaceDue := by
  simp only [State.markHalt]; split <;> simp
@[simp] theorem markHalt_free (s : State) (n c : Nat) : (s.markHalt n c).free = s.free := by
  simp only [State.markHalt]; split <;> simp
@[simp] theorem markHalt_pending (s : State) (n c : Nat) : (s.markHalt n c).pending = s.pending := by
  simp only [State.markHalt]; split <;> simp

/-- The halt of a ring changes of the GEN_ registers GEN_EVENT_STATUS alone. -/
theorem markHalt_gen (s : State) (n c : Nat) : (s.markHalt n c).gen = { s.gen with eventStatus := (s.markHalt n c).gen.eventStatus } := by
  unfold State.markHalt
  lift_lets
  intro k s1
  split
  · intro lost s2 s3
    exact event_gen _ 3
  · rfl
/-- The halt of a ring changes of the CXL_ registers the count of halts alone. -/
theorem markHalt_cxl (s : State) (n c : Nat) : (s.markHalt n c).cxl = { s.cxl with haltCount := (s.markHalt n c).cxl.haltCount } := by
  unfold State.markHalt
  lift_lets
  intro k s1
  split
  · intro lost s2 s3
    simp [s3, s2, s1]
  · rfl

@[simp] theorem complete_part (s : State) (n : Nat) (r : Rec32) : (s.complete n r).part = s.part := by
  simp only [State.complete]
  repeat' split
  all_goals simp
@[simp] theorem complete_flash (s : State) (n : Nat) (r : Rec32) : (s.complete n r).flash = s.flash := by
  simp only [State.complete]
  repeat' split
  all_goals simp
@[simp] theorem complete_pins (s : State) (n : Nat) (r : Rec32) : (s.complete n r).pins = s.pins := by
  simp only [State.complete]
  repeat' split
  all_goals simp
@[simp] theorem complete_cal (s : State) (n : Nat) (r : Rec32) : (s.complete n r).cal = s.cal := by
  simp only [State.complete]
  repeat' split
  all_goals simp
@[simp] theorem complete_regsShadow (s : State) (n : Nat) (r : Rec32) : (s.complete n r).regsShadow = s.regsShadow := by
  simp only [State.complete]
  repeat' split
  all_goals simp
@[simp] theorem complete_asy (s : State) (n : Nat) (r : Rec32) : (s.complete n r).asy = s.asy := by
  simp only [State.complete]
  repeat' split
  all_goals simp
@[simp] theorem complete_clk (s : State) (n : Nat) (r : Rec32) : (s.complete n r).clk = s.clk := by
  simp only [State.complete]
  repeat' split
  all_goals simp
@[simp] theorem complete_pwr (s : State) (n : Nat) (r : Rec32) : (s.complete n r).pwr = s.pwr := by
  simp only [State.complete]
  repeat' split
  all_goals simp
@[simp] theorem complete_thm (s : State) (n : Nat) (r : Rec32) : (s.complete n r).thm = s.thm := by
  simp only [State.complete]
  repeat' split
  all_goals simp
@[simp] theorem complete_alm (s : State) (n : Nat) (r : Rec32) : (s.complete n r).alm = s.alm := by
  simp only [State.complete]
  repeat' split
  all_goals simp
@[simp] theorem complete_lkt (s : State) (n : Nat) (r : Rec32) : (s.complete n r).lkt = s.lkt := by
  simp only [State.complete]
  repeat' split
  all_goals simp
@[simp] theorem complete_lou (s : State) (n : Nat) (r : Rec32) : (s.complete n r).lou = s.lou := by
  simp only [State.complete]
  repeat' split
  all_goals simp
@[simp] theorem complete_cls (s : State) (n : Nat) (r : Rec32) : (s.complete n r).cls = s.cls := by
  simp only [State.complete]
  repeat' split
  all_goals simp
@[simp] theorem complete_mgmt (s : State) (n : Nat) (r : Rec32) : (s.complete n r).mgmt = s.mgmt := by
  simp only [State.complete]
  repeat' split
  all_goals simp
@[simp] theorem complete_sec (s : State) (n : Nat) (r : Rec32) : (s.complete n r).sec = s.sec := by
  simp only [State.complete]
  repeat' split
  all_goals simp
@[simp] theorem complete_cores (s : State) (n : Nat) (r : Rec32) : (s.complete n r).cores = s.cores := by
  simp only [State.complete]
  repeat' split
  all_goals simp
@[simp] theorem complete_fields (s : State) (n : Nat) (r : Rec32) : (s.complete n r).fields = s.fields := by
  simp only [State.complete]
  repeat' split
  all_goals simp
@[simp] theorem complete_jobs (s : State) (n : Nat) (r : Rec32) : (s.complete n r).jobs = s.jobs := by
  simp only [State.complete]
  repeat' split
  all_goals simp
@[simp] theorem complete_strands (s : State) (n : Nat) (r : Rec32) : (s.complete n r).strands = s.strands := by
  simp only [State.complete]
  repeat' split
  all_goals simp
@[simp] theorem complete_mem (s : State) (n : Nat) (r : Rec32) : (s.complete n r).mem = s.mem := by
  simp only [State.complete]
  repeat' split
  all_goals simp
@[simp] theorem complete_heirloom (s : State) (n : Nat) (r : Rec32) : (s.complete n r).heirloom = s.heirloom := by
  simp only [State.complete]
  repeat' split
  all_goals simp
@[simp] theorem complete_hwCounts (s : State) (n : Nat) (r : Rec32) : (s.complete n r).hwCounts = s.hwCounts := by
  simp only [State.complete]
  repeat' split
  all_goals simp
@[simp] theorem complete_opTime (s : State) (n : Nat) (r : Rec32) : (s.complete n r).opTime = s.opTime := by
  simp only [State.complete]
  repeat' split
  all_goals simp
@[simp] theorem complete_hwQueue (s : State) (n : Nat) (r : Rec32) : (s.complete n r).hwQueue = s.hwQueue := by
  simp only [State.complete]
  repeat' split
  all_goals simp
@[simp] theorem complete_replaceDue (s : State) (n : Nat) (r : Rec32) : (s.complete n r).replaceDue = s.replaceDue := by
  simp only [State.complete]
  repeat' split
  all_goals simp
@[simp] theorem complete_free (s : State) (n : Nat) (r : Rec32) : (s.complete n r).free = s.free := by
  simp only [State.complete]
  repeat' split
  all_goals simp
@[simp] theorem complete_pending (s : State) (n : Nat) (r : Rec32) : (s.complete n r).pending = s.pending := by
  simp only [State.complete]
  repeat' split
  all_goals simp

/-- Only the completion of a SEQ_OPEN changes Feast: its slot's DUE. -/
@[simp] theorem complete_fst (s : State) (n : Nat) (r : Rec32) (h : r.opens = none) : (s.complete n r).fst = s.fst := by
  simp only [State.complete]
  repeat' split
  all_goals simp [writeCpl_fst, h]
/-- A completion changes of the GEN_ registers GEN_EVENT_STATUS alone, which a write that fails sets. -/
theorem complete_gen (s : State) (n : Nat) (r : Rec32) : (s.complete n r).gen = { s.gen with eventStatus := (s.complete n r).gen.eventStatus } := by
  simp only [State.complete]
  repeat' split
  · simp
  · rw [markHalt_gen]; simp
  · simp
  · simp
/-- A completion changes of the CXL_ registers the count of halts alone. -/
theorem complete_cxl (s : State) (n : Nat) (r : Rec32) : (s.complete n r).cxl = { s.cxl with haltCount := (s.complete n r).cxl.haltCount } := by
  simp only [State.complete]
  repeat' split
  · simp
  · rw [markHalt_cxl]; simp
  · simp
  · simp
/-- A completion whose write does not fail changes the rings and what is put out, and halts none. -/
theorem complete_ok (s : State) (n : Nat) (r : Rec32) (h : r.bad = false) (ho : r.opens = none) :
    s.complete n r = { s with rng := (s.complete n r).rng, out := (s.complete n r).out } ∧ (s.complete n r).rng.haltDue = s.rng.haltDue := by
  simp only [State.complete, h, Bool.false_eq_true, if_false]
  repeat' split
  · exact ⟨loseCpl_settle s n r, by simp⟩
  · exact ⟨writeCpl_settle s n r ho, by simp⟩
  · exact ⟨rfl, rfl⟩

@[simp] theorem finish_part (s : State) (p : PendDesc) (st : Byte) (d c v : Nat) : (s.finish p st d c v).part = s.part := by
  simp [State.finish]
@[simp] theorem finish_flash (s : State) (p : PendDesc) (st : Byte) (d c v : Nat) : (s.finish p st d c v).flash = s.flash := by
  simp [State.finish]
@[simp] theorem finish_pins (s : State) (p : PendDesc) (st : Byte) (d c v : Nat) : (s.finish p st d c v).pins = s.pins := by
  simp [State.finish]
@[simp] theorem finish_cal (s : State) (p : PendDesc) (st : Byte) (d c v : Nat) : (s.finish p st d c v).cal = s.cal := by
  simp [State.finish]
@[simp] theorem finish_regsShadow (s : State) (p : PendDesc) (st : Byte) (d c v : Nat) : (s.finish p st d c v).regsShadow = s.regsShadow := by
  simp [State.finish]
@[simp] theorem finish_asy (s : State) (p : PendDesc) (st : Byte) (d c v : Nat) : (s.finish p st d c v).asy = s.asy := by
  simp [State.finish]
@[simp] theorem finish_clk (s : State) (p : PendDesc) (st : Byte) (d c v : Nat) : (s.finish p st d c v).clk = s.clk := by
  simp [State.finish]
@[simp] theorem finish_pwr (s : State) (p : PendDesc) (st : Byte) (d c v : Nat) : (s.finish p st d c v).pwr = s.pwr := by
  simp [State.finish]
@[simp] theorem finish_thm (s : State) (p : PendDesc) (st : Byte) (d c v : Nat) : (s.finish p st d c v).thm = s.thm := by
  simp [State.finish]
@[simp] theorem finish_alm (s : State) (p : PendDesc) (st : Byte) (d c v : Nat) : (s.finish p st d c v).alm = s.alm := by
  simp [State.finish]
@[simp] theorem finish_lkt (s : State) (p : PendDesc) (st : Byte) (d c v : Nat) : (s.finish p st d c v).lkt = s.lkt := by
  simp [State.finish]
@[simp] theorem finish_fst (s : State) (p : PendDesc) (st : Byte) (d c v : Nat) : (s.finish p st d c v).fst = s.fst := by
  simp [State.finish]
@[simp] theorem finish_lou (s : State) (p : PendDesc) (st : Byte) (d c v : Nat) : (s.finish p st d c v).lou = s.lou := by
  simp [State.finish]
@[simp] theorem finish_cls (s : State) (p : PendDesc) (st : Byte) (d c v : Nat) : (s.finish p st d c v).cls = s.cls := by
  simp [State.finish]
@[simp] theorem finish_mgmt (s : State) (p : PendDesc) (st : Byte) (d c v : Nat) : (s.finish p st d c v).mgmt = s.mgmt := by
  simp [State.finish]
@[simp] theorem finish_sec (s : State) (p : PendDesc) (st : Byte) (d c v : Nat) : (s.finish p st d c v).sec = s.sec := by
  simp [State.finish]
@[simp] theorem finish_cores (s : State) (p : PendDesc) (st : Byte) (d c v : Nat) : (s.finish p st d c v).cores = s.cores := by
  simp [State.finish]
@[simp] theorem finish_fields (s : State) (p : PendDesc) (st : Byte) (d c v : Nat) : (s.finish p st d c v).fields = s.fields := by
  simp [State.finish]
@[simp] theorem finish_jobs (s : State) (p : PendDesc) (st : Byte) (d c v : Nat) : (s.finish p st d c v).jobs = s.jobs := by
  simp [State.finish]
@[simp] theorem finish_strands (s : State) (p : PendDesc) (st : Byte) (d c v : Nat) : (s.finish p st d c v).strands = s.strands := by
  simp [State.finish]
@[simp] theorem finish_mem (s : State) (p : PendDesc) (st : Byte) (d c v : Nat) : (s.finish p st d c v).mem = s.mem := by
  simp [State.finish]
@[simp] theorem finish_heirloom (s : State) (p : PendDesc) (st : Byte) (d c v : Nat) : (s.finish p st d c v).heirloom = s.heirloom := by
  simp [State.finish]
@[simp] theorem finish_hwCounts (s : State) (p : PendDesc) (st : Byte) (d c v : Nat) : (s.finish p st d c v).hwCounts = s.hwCounts := by
  simp [State.finish]
@[simp] theorem finish_opTime (s : State) (p : PendDesc) (st : Byte) (d c v : Nat) : (s.finish p st d c v).opTime = s.opTime := by
  simp [State.finish]
@[simp] theorem finish_hwQueue (s : State) (p : PendDesc) (st : Byte) (d c v : Nat) : (s.finish p st d c v).hwQueue = s.hwQueue := by
  simp [State.finish]
@[simp] theorem finish_replaceDue (s : State) (p : PendDesc) (st : Byte) (d c v : Nat) : (s.finish p st d c v).replaceDue = s.replaceDue := by
  simp [State.finish]
@[simp] theorem finish_free (s : State) (p : PendDesc) (st : Byte) (d c v : Nat) : (s.finish p st d c v).free = s.free := by
  simp [State.finish]
@[simp] theorem finish_pending (s : State) (p : PendDesc) (st : Byte) (d c v : Nat) : (s.finish p st d c v).pending = s.pending := by
  simp [State.finish]

theorem finish_gen (s : State) (p : PendDesc) (st : Byte) (d c v : Nat) :
    (s.finish p st d c v).gen = { s.gen with eventStatus := (s.finish p st d c v).gen.eventStatus } := complete_gen _ _ _
theorem finish_cxl (s : State) (p : PendDesc) (st : Byte) (d c v : Nat) :
    (s.finish p st d c v).cxl = { s.cxl with haltCount := (s.finish p st d c v).cxl.haltCount } := complete_cxl _ _ _
@[simp] theorem finish_state (s : State) (p : PendDesc) (st : Byte) (d c v : Nat) : (s.finish p st d c v).gen.state = s.gen.state := by
  rw [finish_gen]
/-- A descriptor whose completion's write does not fail completes with a change of the rings and of what is put out. -/
theorem finish_ok (s : State) (p : PendDesc) (st : Byte) (d c v : Nat) (h : p.cplBad = false) :
    s.finish p st d c v = { s with rng := (s.finish p st d c v).rng, out := (s.finish p st d c v).out } ∧
      (s.finish p st d c v).rng.haltDue = s.rng.haltDue := complete_ok _ _ _ h rfl

/-- With no halt to finish nothing is left to do. -/
@[simp] theorem finishHalts_none (s : State) (h : s.rng.haltDue = []) : s.finishHalts = s := by
  simp [State.finishHalts, State.runHalts, h]

/-- A descriptor that may land, is well formed and meets the device state does what its operation does. -/
theorem land_go (s : State) (n op : Nat) (faults : Desc → List (Nat × Bool)) (act : Desc → State → State) (d : Desc)
    (h : s.landing n op = .go d) (hf : firstFault (headerFaults d ++ faults d) = none)
    (hr : readyOpcodes.contains op = true → s.gen.state = .ready) : s.land n op faults act = (act d (s.take n)).finishHalts := by
  by_cases ho : readyOpcodes.contains op = true
  · simp only [State.land, h, hf, take_gen]
    rw [if_neg (by simp [hr ho])]
  · simp only [State.land, h, hf]
    rw [if_neg (by rw [Bool.and_eq_true]; exact fun c => ho c.1)]

/-- A malformed descriptor is refused with the offset of its first faulty field. -/
theorem land_form (s : State) (n op : Nat) (faults : Desc → List (Nat × Bool)) (act : Desc → State → State) (d : Desc) (o : Nat)
    (h : s.landing n op = .go d) (hf : firstFault (headerFaults d ++ faults d) = some o) :
    s.land n op faults act = ((s.take n).finish (descPend d) stForm (0x2000 + o)).finishHalts := by
  simp [State.land, h, hf]

/-- Nothing lands while the ring has no descriptor that may. -/
theorem land_wait (s : State) (n op : Nat) (faults : Desc → List (Nat × Bool)) (act : Desc → State → State)
    (h : s.landing n op = .wait) : s.land n op faults act = s := by
  simp [State.land, h]

end Sys2Proof.Machine
end

