-- ==== Sys2Proof/Laws/Items.lean ====
section
/-! SUPPORT. What the operations on work items, streams and rings leave alone. Each group of operations has a view of the
state that blanks the parts its members may change: that an operation keeps the view says once all that it leaves alone. -/

namespace Sys2Proof.Machine

/-- A fold keeps what each of its steps keeps. -/
theorem foldl_keep {α β : Type} (g : State → β) (f : State → α → State) (h : ∀ s a, g (f s a) = g s) (l : List α) (s : State) :
    g (l.foldl f s) = g s := by
  induction l generalizing s with
  | nil => rfl
  | cons a l ih => rw [List.foldl_cons, ih, h]

/-- The same of a fold from the right. -/
theorem foldr_keep {α β : Type} (g : State → β) (f : α → State → State) (h : ∀ s a, g (f a s) = g s) (l : List α) (s : State) :
    g (l.foldr f s) = g s := by
  induction l with
  | nil => rfl
  | cons a l ih => rw [List.foldr_cons, h, ih]

/-- A fold keeps a property that each of its steps keeps. -/
theorem foldl_holds {α : Type} (p : State → Prop) (f : State → α → State) (h : ∀ s a, p s → p (f s a)) (l : List α) (s : State)
    (hs : p s) : p (l.foldl f s) := by
  induction l generalizing s with
  | nil => exact hs
  | cons a l ih => exact ih _ (h _ _ hs)

/-- The state less Locket, Feast, rings, messages, pending device events and the count of halts. -/
def State.unQ (s : State) : State :=
  { s with lkt := {}, fst := {}, rng := {}, out := [], gen.eventStatus := 0, cxl.haltCount := 0 }

theorem unQ_part (s : State) : s.unQ.part = s.part := rfl
theorem unQ_flash (s : State) : s.unQ.flash = s.flash := rfl
theorem unQ_pins (s : State) : s.unQ.pins = s.pins := rfl
theorem unQ_cal (s : State) : s.unQ.cal = s.cal := rfl
theorem unQ_regsShadow (s : State) : s.unQ.regsShadow = s.regsShadow := rfl
theorem unQ_asy (s : State) : s.unQ.asy = s.asy := rfl
theorem unQ_clk (s : State) : s.unQ.clk = s.clk := rfl
theorem unQ_pwr (s : State) : s.unQ.pwr = s.pwr := rfl
theorem unQ_thm (s : State) : s.unQ.thm = s.thm := rfl
theorem unQ_alm (s : State) : s.unQ.alm = s.alm := rfl
theorem unQ_lou (s : State) : s.unQ.lou = s.lou := rfl
theorem unQ_cls (s : State) : s.unQ.cls = s.cls := rfl
theorem unQ_mgmt (s : State) : s.unQ.mgmt = s.mgmt := rfl
theorem unQ_sec (s : State) : s.unQ.sec = s.sec := rfl
theorem unQ_cores (s : State) : s.unQ.cores = s.cores := rfl
theorem unQ_fields (s : State) : s.unQ.fields = s.fields := rfl
theorem unQ_jobs (s : State) : s.unQ.jobs = s.jobs := rfl
theorem unQ_strands (s : State) : s.unQ.strands = s.strands := rfl
theorem unQ_mem (s : State) : s.unQ.mem = s.mem := rfl
theorem unQ_heirloom (s : State) : s.unQ.heirloom = s.heirloom := rfl
theorem unQ_hwCounts (s : State) : s.unQ.hwCounts = s.hwCounts := rfl
theorem unQ_opTime (s : State) : s.unQ.opTime = s.opTime := rfl
theorem unQ_hwQueue (s : State) : s.unQ.hwQueue = s.hwQueue := rfl
theorem unQ_replaceDue (s : State) : s.unQ.replaceDue = s.replaceDue := rfl
theorem unQ_free (s : State) : s.unQ.free = s.free := rfl
theorem unQ_pending (s : State) : s.unQ.pending = s.pending := rfl
theorem unQ_state (s : State) : s.unQ.gen.state = s.gen.state := rfl

@[simp] theorem finish_unQ (s : State) (p : PendDesc) (st : Byte) (d c v : Nat) : (s.finish p st d c v).unQ = s.unQ := by
  simp only [State.unQ]
  rw [finish_gen, finish_cxl]
  simp
@[simp] theorem setSlot_unQ (s : State) (n : Nat) (k : SlotSt) : (s.setSlot n k).unQ = s.unQ := rfl

@[simp] theorem freeSlot_unQ (s : State) (n : Nat) : (s.freeSlot n).unQ = s.unQ := by
  unfold State.freeSlot
  lift_lets
  intro k lk fs s1 s2
  have h1 : s1.unQ = s.unQ := rfl
  have h2 : s2.unQ = s1.unQ := by
    simp only [s2]
    split
    · exact finish_unQ _ _ _ _ _ _
    · rfl
  split
  · rw [finish_unQ, h2, h1]
  · rw [h2, h1]
@[simp] theorem freeSlot_part (s : State) (n : Nat) : (s.freeSlot n).part = s.part :=
  (unQ_part _).symm.trans ((congrArg State.part (freeSlot_unQ s n)).trans (unQ_part s))
@[simp] theorem freeSlot_flash (s : State) (n : Nat) : (s.freeSlot n).flash = s.flash :=
  (unQ_flash _).symm.trans ((congrArg State.flash (freeSlot_unQ s n)).trans (unQ_flash s))
@[simp] theorem freeSlot_pins (s : State) (n : Nat) : (s.freeSlot n).pins = s.pins :=
  (unQ_pins _).symm.trans ((congrArg State.pins (freeSlot_unQ s n)).trans (unQ_pins s))
@[simp] theorem freeSlot_cal (s : State) (n : Nat) : (s.freeSlot n).cal = s.cal :=
  (unQ_cal _).symm.trans ((congrArg State.cal (freeSlot_unQ s n)).trans (unQ_cal s))
@[simp] theorem freeSlot_regsShadow (s : State) (n : Nat) : (s.freeSlot n).regsShadow = s.regsShadow :=
  (unQ_regsShadow _).symm.trans ((congrArg State.regsShadow (freeSlot_unQ s n)).trans (unQ_regsShadow s))
@[simp] theorem freeSlot_asy (s : State) (n : Nat) : (s.freeSlot n).asy = s.asy :=
  (unQ_asy _).symm.trans ((congrArg State.asy (freeSlot_unQ s n)).trans (unQ_asy s))
@[simp] theorem freeSlot_clk (s : State) (n : Nat) : (s.freeSlot n).clk = s.clk :=
  (unQ_clk _).symm.trans ((congrArg State.clk (freeSlot_unQ s n)).trans (unQ_clk s))
@[simp] theorem freeSlot_pwr (s : State) (n : Nat) : (s.freeSlot n).pwr = s.pwr :=
  (unQ_pwr _).symm.trans ((congrArg State.pwr (freeSlot_unQ s n)).trans (unQ_pwr s))
@[simp] theorem freeSlot_thm (s : State) (n : Nat) : (s.freeSlot n).thm = s.thm :=
  (unQ_thm _).symm.trans ((congrArg State.thm (freeSlot_unQ s n)).trans (unQ_thm s))
@[simp] theorem freeSlot_alm (s : State) (n : Nat) : (s.freeSlot n).alm = s.alm :=
  (unQ_alm _).symm.trans ((congrArg State.alm (freeSlot_unQ s n)).trans (unQ_alm s))
@[simp] theorem freeSlot_lou (s : State) (n : Nat) : (s.freeSlot n).lou = s.lou :=
  (unQ_lou _).symm.trans ((congrArg State.lou (freeSlot_unQ s n)).trans (unQ_lou s))
@[simp] theorem freeSlot_cls (s : State) (n : Nat) : (s.freeSlot n).cls = s.cls :=
  (unQ_cls _).symm.trans ((congrArg State.cls (freeSlot_unQ s n)).trans (unQ_cls s))
@[simp] theorem freeSlot_mgmt (s : State) (n : Nat) : (s.freeSlot n).mgmt = s.mgmt :=
  (unQ_mgmt _).symm.trans ((congrArg State.mgmt (freeSlot_unQ s n)).trans (unQ_mgmt s))
@[simp] theorem freeSlot_sec (s : State) (n : Nat) : (s.freeSlot n).sec = s.sec :=
  (unQ_sec _).symm.trans ((congrArg State.sec (freeSlot_unQ s n)).trans (unQ_sec s))
@[simp] theorem freeSlot_cores (s : State) (n : Nat) : (s.freeSlot n).cores = s.cores :=
  (unQ_cores _).symm.trans ((congrArg State.cores (freeSlot_unQ s n)).trans (unQ_cores s))
@[simp] theorem freeSlot_fields (s : State) (n : Nat) : (s.freeSlot n).fields = s.fields :=
  (unQ_fields _).symm.trans ((congrArg State.fields (freeSlot_unQ s n)).trans (unQ_fields s))
@[simp] theorem freeSlot_jobs (s : State) (n : Nat) : (s.freeSlot n).jobs = s.jobs :=
  (unQ_jobs _).symm.trans ((congrArg State.jobs (freeSlot_unQ s n)).trans (unQ_jobs s))
@[simp] theorem freeSlot_strands (s : State) (n : Nat) : (s.freeSlot n).strands = s.strands :=
  (unQ_strands _).symm.trans ((congrArg State.strands (freeSlot_unQ s n)).trans (unQ_strands s))
@[simp] theorem freeSlot_mem (s : State) (n : Nat) : (s.freeSlot n).mem = s.mem :=
  (unQ_mem _).symm.trans ((congrArg State.mem (freeSlot_unQ s n)).trans (unQ_mem s))
@[simp] theorem freeSlot_heirloom (s : State) (n : Nat) : (s.freeSlot n).heirloom = s.heirloom :=
  (unQ_heirloom _).symm.trans ((congrArg State.heirloom (freeSlot_unQ s n)).trans (unQ_heirloom s))
@[simp] theorem freeSlot_hwCounts (s : State) (n : Nat) : (s.freeSlot n).hwCounts = s.hwCounts :=
  (unQ_hwCounts _).symm.trans ((congrArg State.hwCounts (freeSlot_unQ s n)).trans (unQ_hwCounts s))
@[simp] theorem freeSlot_opTime (s : State) (n : Nat) : (s.freeSlot n).opTime = s.opTime :=
  (unQ_opTime _).symm.trans ((congrArg State.opTime (freeSlot_unQ s n)).trans (unQ_opTime s))
@[simp] theorem freeSlot_hwQueue (s : State) (n : Nat) : (s.freeSlot n).hwQueue = s.hwQueue :=
  (unQ_hwQueue _).symm.trans ((congrArg State.hwQueue (freeSlot_unQ s n)).trans (unQ_hwQueue s))
@[simp] theorem freeSlot_replaceDue (s : State) (n : Nat) : (s.freeSlot n).replaceDue = s.replaceDue :=
  (unQ_replaceDue _).symm.trans ((congrArg State.replaceDue (freeSlot_unQ s n)).trans (unQ_replaceDue s))
@[simp] theorem freeSlot_free (s : State) (n : Nat) : (s.freeSlot n).free = s.free :=
  (unQ_free _).symm.trans ((congrArg State.free (freeSlot_unQ s n)).trans (unQ_free s))
@[simp] theorem freeSlot_pending (s : State) (n : Nat) : (s.freeSlot n).pending = s.pending :=
  (unQ_pending _).symm.trans ((congrArg State.pending (freeSlot_unQ s n)).trans (unQ_pending s))
@[simp] theorem freeSlot_state (s : State) (n : Nat) : (s.freeSlot n).gen.state = s.gen.state :=
  (unQ_state _).symm.trans ((congrArg (fun x => x.gen.state) (freeSlot_unQ s n)).trans (unQ_state s))

@[simp] theorem slotStep_unQ (s : State) (ok : Bool) (n : Nat) : (s.slotStep ok n).unQ = s.unQ := by
  unfold State.slotStep
  lift_lets
  intro k unbound k2 next s1 fs s2
  have h2 : s2.unQ = s.unQ := by
    simp only [s2]
    split <;> rfl
  split
  · exact freeSlot_unQ s n
  · split
    · rw [freeSlot_unQ, setSlot_unQ]
    · split
      · split <;> rw [finish_unQ, h2]
      · exact h2
  · rfl
@[simp] theorem slotStep_part (s : State) (ok : Bool) (n : Nat) : (s.slotStep ok n).part = s.part :=
  (unQ_part _).symm.trans ((congrArg State.part (slotStep_unQ s ok n)).trans (unQ_part s))
@[simp] theorem slotStep_flash (s : State) (ok : Bool) (n : Nat) : (s.slotStep ok n).flash = s.flash :=
  (unQ_flash _).symm.trans ((congrArg State.flash (slotStep_unQ s ok n)).trans (unQ_flash s))
@[simp] theorem slotStep_pins (s : State) (ok : Bool) (n : Nat) : (s.slotStep ok n).pins = s.pins :=
  (unQ_pins _).symm.trans ((congrArg State.pins (slotStep_unQ s ok n)).trans (unQ_pins s))
@[simp] theorem slotStep_cal (s : State) (ok : Bool) (n : Nat) : (s.slotStep ok n).cal = s.cal :=
  (unQ_cal _).symm.trans ((congrArg State.cal (slotStep_unQ s ok n)).trans (unQ_cal s))
@[simp] theorem slotStep_regsShadow (s : State) (ok : Bool) (n : Nat) : (s.slotStep ok n).regsShadow = s.regsShadow :=
  (unQ_regsShadow _).symm.trans ((congrArg State.regsShadow (slotStep_unQ s ok n)).trans (unQ_regsShadow s))
@[simp] theorem slotStep_asy (s : State) (ok : Bool) (n : Nat) : (s.slotStep ok n).asy = s.asy :=
  (unQ_asy _).symm.trans ((congrArg State.asy (slotStep_unQ s ok n)).trans (unQ_asy s))
@[simp] theorem slotStep_clk (s : State) (ok : Bool) (n : Nat) : (s.slotStep ok n).clk = s.clk :=
  (unQ_clk _).symm.trans ((congrArg State.clk (slotStep_unQ s ok n)).trans (unQ_clk s))
@[simp] theorem slotStep_pwr (s : State) (ok : Bool) (n : Nat) : (s.slotStep ok n).pwr = s.pwr :=
  (unQ_pwr _).symm.trans ((congrArg State.pwr (slotStep_unQ s ok n)).trans (unQ_pwr s))
@[simp] theorem slotStep_thm (s : State) (ok : Bool) (n : Nat) : (s.slotStep ok n).thm = s.thm :=
  (unQ_thm _).symm.trans ((congrArg State.thm (slotStep_unQ s ok n)).trans (unQ_thm s))
@[simp] theorem slotStep_alm (s : State) (ok : Bool) (n : Nat) : (s.slotStep ok n).alm = s.alm :=
  (unQ_alm _).symm.trans ((congrArg State.alm (slotStep_unQ s ok n)).trans (unQ_alm s))
@[simp] theorem slotStep_lou (s : State) (ok : Bool) (n : Nat) : (s.slotStep ok n).lou = s.lou :=
  (unQ_lou _).symm.trans ((congrArg State.lou (slotStep_unQ s ok n)).trans (unQ_lou s))
@[simp] theorem slotStep_cls (s : State) (ok : Bool) (n : Nat) : (s.slotStep ok n).cls = s.cls :=
  (unQ_cls _).symm.trans ((congrArg State.cls (slotStep_unQ s ok n)).trans (unQ_cls s))
@[simp] theorem slotStep_mgmt (s : State) (ok : Bool) (n : Nat) : (s.slotStep ok n).mgmt = s.mgmt :=
  (unQ_mgmt _).symm.trans ((congrArg State.mgmt (slotStep_unQ s ok n)).trans (unQ_mgmt s))
@[simp] theorem slotStep_sec (s : State) (ok : Bool) (n : Nat) : (s.slotStep ok n).sec = s.sec :=
  (unQ_sec _).symm.trans ((congrArg State.sec (slotStep_unQ s ok n)).trans (unQ_sec s))
@[simp] theorem slotStep_cores (s : State) (ok : Bool) (n : Nat) : (s.slotStep ok n).cores = s.cores :=
  (unQ_cores _).symm.trans ((congrArg State.cores (slotStep_unQ s ok n)).trans (unQ_cores s))
@[simp] theorem slotStep_fields (s : State) (ok : Bool) (n : Nat) : (s.slotStep ok n).fields = s.fields :=
  (unQ_fields _).symm.trans ((congrArg State.fields (slotStep_unQ s ok n)).trans (unQ_fields s))
@[simp] theorem slotStep_jobs (s : State) (ok : Bool) (n : Nat) : (s.slotStep ok n).jobs = s.jobs :=
  (unQ_jobs _).symm.trans ((congrArg State.jobs (slotStep_unQ s ok n)).trans (unQ_jobs s))
@[simp] theorem slotStep_strands (s : State) (ok : Bool) (n : Nat) : (s.slotStep ok n).strands = s.strands :=
  (unQ_strands _).symm.trans ((congrArg State.strands (slotStep_unQ s ok n)).trans (unQ_strands s))
@[simp] theorem slotStep_mem (s : State) (ok : Bool) (n : Nat) : (s.slotStep ok n).mem = s.mem :=
  (unQ_mem _).symm.trans ((congrArg State.mem (slotStep_unQ s ok n)).trans (unQ_mem s))
@[simp] theorem slotStep_heirloom (s : State) (ok : Bool) (n : Nat) : (s.slotStep ok n).heirloom = s.heirloom :=
  (unQ_heirloom _).symm.trans ((congrArg State.heirloom (slotStep_unQ s ok n)).trans (unQ_heirloom s))
@[simp] theorem slotStep_hwCounts (s : State) (ok : Bool) (n : Nat) : (s.slotStep ok n).hwCounts = s.hwCounts :=
  (unQ_hwCounts _).symm.trans ((congrArg State.hwCounts (slotStep_unQ s ok n)).trans (unQ_hwCounts s))
@[simp] theorem slotStep_opTime (s : State) (ok : Bool) (n : Nat) : (s.slotStep ok n).opTime = s.opTime :=
  (unQ_opTime _).symm.trans ((congrArg State.opTime (slotStep_unQ s ok n)).trans (unQ_opTime s))
@[simp] theorem slotStep_hwQueue (s : State) (ok : Bool) (n : Nat) : (s.slotStep ok n).hwQueue = s.hwQueue :=
  (unQ_hwQueue _).symm.trans ((congrArg State.hwQueue (slotStep_unQ s ok n)).trans (unQ_hwQueue s))
@[simp] theorem slotStep_replaceDue (s : State) (ok : Bool) (n : Nat) : (s.slotStep ok n).replaceDue = s.replaceDue :=
  (unQ_replaceDue _).symm.trans ((congrArg State.replaceDue (slotStep_unQ s ok n)).trans (unQ_replaceDue s))
@[simp] theorem slotStep_free (s : State) (ok : Bool) (n : Nat) : (s.slotStep ok n).free = s.free :=
  (unQ_free _).symm.trans ((congrArg State.free (slotStep_unQ s ok n)).trans (unQ_free s))
@[simp] theorem slotStep_pending (s : State) (ok : Bool) (n : Nat) : (s.slotStep ok n).pending = s.pending :=
  (unQ_pending _).symm.trans ((congrArg State.pending (slotStep_unQ s ok n)).trans (unQ_pending s))
@[simp] theorem slotStep_state (s : State) (ok : Bool) (n : Nat) : (s.slotStep ok n).gen.state = s.gen.state :=
  (unQ_state _).symm.trans ((congrArg (fun x => x.gen.state) (slotStep_unQ s ok n)).trans (unQ_state s))

@[simp] theorem settleStream_unQ (s : State) (n : Nat) : (s.settleStream n).unQ = s.unQ := by
  unfold State.settleStream
  split
  · split
    · split
      · rfl
      · lift_lets
        intro s1 fs s2
        have h1 : s1.unQ = s.unQ := foldl_keep State.unQ _ (fun s e => freeSlot_unQ s _) _ _
        have h2 : s2.unQ = s1.unQ := rfl
        split
        · rw [finish_unQ, h2, h1]
        · rw [h2, h1]
    · rfl
  · rfl
@[simp] theorem settleStream_part (s : State) (n : Nat) : (s.settleStream n).part = s.part :=
  (unQ_part _).symm.trans ((congrArg State.part (settleStream_unQ s n)).trans (unQ_part s))
@[simp] theorem settleStream_flash (s : State) (n : Nat) : (s.settleStream n).flash = s.flash :=
  (unQ_flash _).symm.trans ((congrArg State.flash (settleStream_unQ s n)).trans (unQ_flash s))
@[simp] theorem settleStream_pins (s : State) (n : Nat) : (s.settleStream n).pins = s.pins :=
  (unQ_pins _).symm.trans ((congrArg State.pins (settleStream_unQ s n)).trans (unQ_pins s))
@[simp] theorem settleStream_cal (s : State) (n : Nat) : (s.settleStream n).cal = s.cal :=
  (unQ_cal _).symm.trans ((congrArg State.cal (settleStream_unQ s n)).trans (unQ_cal s))
@[simp] theorem settleStream_regsShadow (s : State) (n : Nat) : (s.settleStream n).regsShadow = s.regsShadow :=
  (unQ_regsShadow _).symm.trans ((congrArg State.regsShadow (settleStream_unQ s n)).trans (unQ_regsShadow s))
@[simp] theorem settleStream_asy (s : State) (n : Nat) : (s.settleStream n).asy = s.asy :=
  (unQ_asy _).symm.trans ((congrArg State.asy (settleStream_unQ s n)).trans (unQ_asy s))
@[simp] theorem settleStream_clk (s : State) (n : Nat) : (s.settleStream n).clk = s.clk :=
  (unQ_clk _).symm.trans ((congrArg State.clk (settleStream_unQ s n)).trans (unQ_clk s))
@[simp] theorem settleStream_pwr (s : State) (n : Nat) : (s.settleStream n).pwr = s.pwr :=
  (unQ_pwr _).symm.trans ((congrArg State.pwr (settleStream_unQ s n)).trans (unQ_pwr s))
@[simp] theorem settleStream_thm (s : State) (n : Nat) : (s.settleStream n).thm = s.thm :=
  (unQ_thm _).symm.trans ((congrArg State.thm (settleStream_unQ s n)).trans (unQ_thm s))
@[simp] theorem settleStream_alm (s : State) (n : Nat) : (s.settleStream n).alm = s.alm :=
  (unQ_alm _).symm.trans ((congrArg State.alm (settleStream_unQ s n)).trans (unQ_alm s))
@[simp] theorem settleStream_lou (s : State) (n : Nat) : (s.settleStream n).lou = s.lou :=
  (unQ_lou _).symm.trans ((congrArg State.lou (settleStream_unQ s n)).trans (unQ_lou s))
@[simp] theorem settleStream_cls (s : State) (n : Nat) : (s.settleStream n).cls = s.cls :=
  (unQ_cls _).symm.trans ((congrArg State.cls (settleStream_unQ s n)).trans (unQ_cls s))
@[simp] theorem settleStream_mgmt (s : State) (n : Nat) : (s.settleStream n).mgmt = s.mgmt :=
  (unQ_mgmt _).symm.trans ((congrArg State.mgmt (settleStream_unQ s n)).trans (unQ_mgmt s))
@[simp] theorem settleStream_sec (s : State) (n : Nat) : (s.settleStream n).sec = s.sec :=
  (unQ_sec _).symm.trans ((congrArg State.sec (settleStream_unQ s n)).trans (unQ_sec s))
@[simp] theorem settleStream_cores (s : State) (n : Nat) : (s.settleStream n).cores = s.cores :=
  (unQ_cores _).symm.trans ((congrArg State.cores (settleStream_unQ s n)).trans (unQ_cores s))
@[simp] theorem settleStream_fields (s : State) (n : Nat) : (s.settleStream n).fields = s.fields :=
  (unQ_fields _).symm.trans ((congrArg State.fields (settleStream_unQ s n)).trans (unQ_fields s))
@[simp] theorem settleStream_jobs (s : State) (n : Nat) : (s.settleStream n).jobs = s.jobs :=
  (unQ_jobs _).symm.trans ((congrArg State.jobs (settleStream_unQ s n)).trans (unQ_jobs s))
@[simp] theorem settleStream_strands (s : State) (n : Nat) : (s.settleStream n).strands = s.strands :=
  (unQ_strands _).symm.trans ((congrArg State.strands (settleStream_unQ s n)).trans (unQ_strands s))
@[simp] theorem settleStream_mem (s : State) (n : Nat) : (s.settleStream n).mem = s.mem :=
  (unQ_mem _).symm.trans ((congrArg State.mem (settleStream_unQ s n)).trans (unQ_mem s))
@[simp] theorem settleStream_heirloom (s : State) (n : Nat) : (s.settleStream n).heirloom = s.heirloom :=
  (unQ_heirloom _).symm.trans ((congrArg State.heirloom (settleStream_unQ s n)).trans (unQ_heirloom s))
@[simp] theorem settleStream_hwCounts (s : State) (n : Nat) : (s.settleStream n).hwCounts = s.hwCounts :=
  (unQ_hwCounts _).symm.trans ((congrArg State.hwCounts (settleStream_unQ s n)).trans (unQ_hwCounts s))
@[simp] theorem settleStream_opTime (s : State) (n : Nat) : (s.settleStream n).opTime = s.opTime :=
  (unQ_opTime _).symm.trans ((congrArg State.opTime (settleStream_unQ s n)).trans (unQ_opTime s))
@[simp] theorem settleStream_hwQueue (s : State) (n : Nat) : (s.settleStream n).hwQueue = s.hwQueue :=
  (unQ_hwQueue _).symm.trans ((congrArg State.hwQueue (settleStream_unQ s n)).trans (unQ_hwQueue s))
@[simp] theorem settleStream_replaceDue (s : State) (n : Nat) : (s.settleStream n).replaceDue = s.replaceDue :=
  (unQ_replaceDue _).symm.trans ((congrArg State.replaceDue (settleStream_unQ s n)).trans (unQ_replaceDue s))
@[simp] theorem settleStream_free (s : State) (n : Nat) : (s.settleStream n).free = s.free :=
  (unQ_free _).symm.trans ((congrArg State.free (settleStream_unQ s n)).trans (unQ_free s))
@[simp] theorem settleStream_pending (s : State) (n : Nat) : (s.settleStream n).pending = s.pending :=
  (unQ_pending _).symm.trans ((congrArg State.pending (settleStream_unQ s n)).trans (unQ_pending s))
@[simp] theorem settleStream_state (s : State) (n : Nat) : (s.settleStream n).gen.state = s.gen.state :=
  (unQ_state _).symm.trans ((congrArg (fun x => x.gen.state) (settleStream_unQ s n)).trans (unQ_state s))

@[simp] theorem unbind_unQ (s : State) (n : Nat) (b : Option PendDesc) : (s.unbind n b).unQ = s.unQ := by
  unfold State.unbind
  split
  · lift_lets
    intro fs s1 s2
    have h2 : s2.unQ = s1.unQ := foldl_keep State.unQ _ (fun s e => freeSlot_unQ s _) _ _
    rw [settleStream_unQ, h2]
    rfl
  · rfl
@[simp] theorem unbind_part (s : State) (n : Nat) (b : Option PendDesc) : (s.unbind n b).part = s.part :=
  (unQ_part _).symm.trans ((congrArg State.part (unbind_unQ s n b)).trans (unQ_part s))
@[simp] theorem unbind_flash (s : State) (n : Nat) (b : Option PendDesc) : (s.unbind n b).flash = s.flash :=
  (unQ_flash _).symm.trans ((congrArg State.flash (unbind_unQ s n b)).trans (unQ_flash s))
@[simp] theorem unbind_pins (s : State) (n : Nat) (b : Option PendDesc) : (s.unbind n b).pins = s.pins :=
  (unQ_pins _).symm.trans ((congrArg State.pins (unbind_unQ s n b)).trans (unQ_pins s))
@[simp] theorem unbind_cal (s : State) (n : Nat) (b : Option PendDesc) : (s.unbind n b).cal = s.cal :=
  (unQ_cal _).symm.trans ((congrArg State.cal (unbind_unQ s n b)).trans (unQ_cal s))
@[simp] theorem unbind_regsShadow (s : State) (n : Nat) (b : Option PendDesc) : (s.unbind n b).regsShadow = s.regsShadow :=
  (unQ_regsShadow _).symm.trans ((congrArg State.regsShadow (unbind_unQ s n b)).trans (unQ_regsShadow s))
@[simp] theorem unbind_asy (s : State) (n : Nat) (b : Option PendDesc) : (s.unbind n b).asy = s.asy :=
  (unQ_asy _).symm.trans ((congrArg State.asy (unbind_unQ s n b)).trans (unQ_asy s))
@[simp] theorem unbind_clk (s : State) (n : Nat) (b : Option PendDesc) : (s.unbind n b).clk = s.clk :=
  (unQ_clk _).symm.trans ((congrArg State.clk (unbind_unQ s n b)).trans (unQ_clk s))
@[simp] theorem unbind_pwr (s : State) (n : Nat) (b : Option PendDesc) : (s.unbind n b).pwr = s.pwr :=
  (unQ_pwr _).symm.trans ((congrArg State.pwr (unbind_unQ s n b)).trans (unQ_pwr s))
@[simp] theorem unbind_thm (s : State) (n : Nat) (b : Option PendDesc) : (s.unbind n b).thm = s.thm :=
  (unQ_thm _).symm.trans ((congrArg State.thm (unbind_unQ s n b)).trans (unQ_thm s))
@[simp] theorem unbind_alm (s : State) (n : Nat) (b : Option PendDesc) : (s.unbind n b).alm = s.alm :=
  (unQ_alm _).symm.trans ((congrArg State.alm (unbind_unQ s n b)).trans (unQ_alm s))
@[simp] theorem unbind_lou (s : State) (n : Nat) (b : Option PendDesc) : (s.unbind n b).lou = s.lou :=
  (unQ_lou _).symm.trans ((congrArg State.lou (unbind_unQ s n b)).trans (unQ_lou s))
@[simp] theorem unbind_cls (s : State) (n : Nat) (b : Option PendDesc) : (s.unbind n b).cls = s.cls :=
  (unQ_cls _).symm.trans ((congrArg State.cls (unbind_unQ s n b)).trans (unQ_cls s))
@[simp] theorem unbind_mgmt (s : State) (n : Nat) (b : Option PendDesc) : (s.unbind n b).mgmt = s.mgmt :=
  (unQ_mgmt _).symm.trans ((congrArg State.mgmt (unbind_unQ s n b)).trans (unQ_mgmt s))
@[simp] theorem unbind_sec (s : State) (n : Nat) (b : Option PendDesc) : (s.unbind n b).sec = s.sec :=
  (unQ_sec _).symm.trans ((congrArg State.sec (unbind_unQ s n b)).trans (unQ_sec s))
@[simp] theorem unbind_cores (s : State) (n : Nat) (b : Option PendDesc) : (s.unbind n b).cores = s.cores :=
  (unQ_cores _).symm.trans ((congrArg State.cores (unbind_unQ s n b)).trans (unQ_cores s))
@[simp] theorem unbind_fields (s : State) (n : Nat) (b : Option PendDesc) : (s.unbind n b).fields = s.fields :=
  (unQ_fields _).symm.trans ((congrArg State.fields (unbind_unQ s n b)).trans (unQ_fields s))
@[simp] theorem unbind_jobs (s : State) (n : Nat) (b : Option PendDesc) : (s.unbind n b).jobs = s.jobs :=
  (unQ_jobs _).symm.trans ((congrArg State.jobs (unbind_unQ s n b)).trans (unQ_jobs s))
@[simp] theorem unbind_strands (s : State) (n : Nat) (b : Option PendDesc) : (s.unbind n b).strands = s.strands :=
  (unQ_strands _).symm.trans ((congrArg State.strands (unbind_unQ s n b)).trans (unQ_strands s))
@[simp] theorem unbind_mem (s : State) (n : Nat) (b : Option PendDesc) : (s.unbind n b).mem = s.mem :=
  (unQ_mem _).symm.trans ((congrArg State.mem (unbind_unQ s n b)).trans (unQ_mem s))
@[simp] theorem unbind_heirloom (s : State) (n : Nat) (b : Option PendDesc) : (s.unbind n b).heirloom = s.heirloom :=
  (unQ_heirloom _).symm.trans ((congrArg State.heirloom (unbind_unQ s n b)).trans (unQ_heirloom s))
@[simp] theorem unbind_hwCounts (s : State) (n : Nat) (b : Option PendDesc) : (s.unbind n b).hwCounts = s.hwCounts :=
  (unQ_hwCounts _).symm.trans ((congrArg State.hwCounts (unbind_unQ s n b)).trans (unQ_hwCounts s))
@[simp] theorem unbind_opTime (s : State) (n : Nat) (b : Option PendDesc) : (s.unbind n b).opTime = s.opTime :=
  (unQ_opTime _).symm.trans ((congrArg State.opTime (unbind_unQ s n b)).trans (unQ_opTime s))
@[simp] theorem unbind_hwQueue (s : State) (n : Nat) (b : Option PendDesc) : (s.unbind n b).hwQueue = s.hwQueue :=
  (unQ_hwQueue _).symm.trans ((congrArg State.hwQueue (unbind_unQ s n b)).trans (unQ_hwQueue s))
@[simp] theorem unbind_replaceDue (s : State) (n : Nat) (b : Option PendDesc) : (s.unbind n b).replaceDue = s.replaceDue :=
  (unQ_replaceDue _).symm.trans ((congrArg State.replaceDue (unbind_unQ s n b)).trans (unQ_replaceDue s))
@[simp] theorem unbind_free (s : State) (n : Nat) (b : Option PendDesc) : (s.unbind n b).free = s.free :=
  (unQ_free _).symm.trans ((congrArg State.free (unbind_unQ s n b)).trans (unQ_free s))
@[simp] theorem unbind_pending (s : State) (n : Nat) (b : Option PendDesc) : (s.unbind n b).pending = s.pending :=
  (unQ_pending _).symm.trans ((congrArg State.pending (unbind_unQ s n b)).trans (unQ_pending s))
@[simp] theorem unbind_state (s : State) (n : Nat) (b : Option PendDesc) : (s.unbind n b).gen.state = s.gen.state :=
  (unQ_state _).symm.trans ((congrArg (fun x => x.gen.state) (unbind_unQ s n b)).trans (unQ_state s))

@[simp] theorem stepEnd_unQ (s : State) (i : Item) (st : Byte) : (s.stepEnd i st).unQ = s.unQ := by
  unfold State.stepEnd
  split
  · lift_lets
    intro ok lk s1 s2 fs s3 fs2 s4
    have h2 : s2.unQ = s1.unQ := foldl_keep State.unQ _ (fun s e => slotStep_unQ s _ e) _ _
    have h4 : s4.unQ = s2.unQ := by
      simp only [s4, s3]
      split <;> rfl
    rw [settleStream_unQ, h4, h2]
    rfl
  · rfl
@[simp] theorem stepEnd_part (s : State) (i : Item) (st : Byte) : (s.stepEnd i st).part = s.part :=
  (unQ_part _).symm.trans ((congrArg State.part (stepEnd_unQ s i st)).trans (unQ_part s))
@[simp] theorem stepEnd_flash (s : State) (i : Item) (st : Byte) : (s.stepEnd i st).flash = s.flash :=
  (unQ_flash _).symm.trans ((congrArg State.flash (stepEnd_unQ s i st)).trans (unQ_flash s))
@[simp] theorem stepEnd_pins (s : State) (i : Item) (st : Byte) : (s.stepEnd i st).pins = s.pins :=
  (unQ_pins _).symm.trans ((congrArg State.pins (stepEnd_unQ s i st)).trans (unQ_pins s))
@[simp] theorem stepEnd_cal (s : State) (i : Item) (st : Byte) : (s.stepEnd i st).cal = s.cal :=
  (unQ_cal _).symm.trans ((congrArg State.cal (stepEnd_unQ s i st)).trans (unQ_cal s))
@[simp] theorem stepEnd_regsShadow (s : State) (i : Item) (st : Byte) : (s.stepEnd i st).regsShadow = s.regsShadow :=
  (unQ_regsShadow _).symm.trans ((congrArg State.regsShadow (stepEnd_unQ s i st)).trans (unQ_regsShadow s))
@[simp] theorem stepEnd_asy (s : State) (i : Item) (st : Byte) : (s.stepEnd i st).asy = s.asy :=
  (unQ_asy _).symm.trans ((congrArg State.asy (stepEnd_unQ s i st)).trans (unQ_asy s))
@[simp] theorem stepEnd_clk (s : State) (i : Item) (st : Byte) : (s.stepEnd i st).clk = s.clk :=
  (unQ_clk _).symm.trans ((congrArg State.clk (stepEnd_unQ s i st)).trans (unQ_clk s))
@[simp] theorem stepEnd_pwr (s : State) (i : Item) (st : Byte) : (s.stepEnd i st).pwr = s.pwr :=
  (unQ_pwr _).symm.trans ((congrArg State.pwr (stepEnd_unQ s i st)).trans (unQ_pwr s))
@[simp] theorem stepEnd_thm (s : State) (i : Item) (st : Byte) : (s.stepEnd i st).thm = s.thm :=
  (unQ_thm _).symm.trans ((congrArg State.thm (stepEnd_unQ s i st)).trans (unQ_thm s))
@[simp] theorem stepEnd_alm (s : State) (i : Item) (st : Byte) : (s.stepEnd i st).alm = s.alm :=
  (unQ_alm _).symm.trans ((congrArg State.alm (stepEnd_unQ s i st)).trans (unQ_alm s))
@[simp] theorem stepEnd_lou (s : State) (i : Item) (st : Byte) : (s.stepEnd i st).lou = s.lou :=
  (unQ_lou _).symm.trans ((congrArg State.lou (stepEnd_unQ s i st)).trans (unQ_lou s))
@[simp] theorem stepEnd_cls (s : State) (i : Item) (st : Byte) : (s.stepEnd i st).cls = s.cls :=
  (unQ_cls _).symm.trans ((congrArg State.cls (stepEnd_unQ s i st)).trans (unQ_cls s))
@[simp] theorem stepEnd_mgmt (s : State) (i : Item) (st : Byte) : (s.stepEnd i st).mgmt = s.mgmt :=
  (unQ_mgmt _).symm.trans ((congrArg State.mgmt (stepEnd_unQ s i st)).trans (unQ_mgmt s))
@[simp] theorem stepEnd_sec (s : State) (i : Item) (st : Byte) : (s.stepEnd i st).sec = s.sec :=
  (unQ_sec _).symm.trans ((congrArg State.sec (stepEnd_unQ s i st)).trans (unQ_sec s))
@[simp] theorem stepEnd_cores (s : State) (i : Item) (st : Byte) : (s.stepEnd i st).cores = s.cores :=
  (unQ_cores _).symm.trans ((congrArg State.cores (stepEnd_unQ s i st)).trans (unQ_cores s))
@[simp] theorem stepEnd_fields (s : State) (i : Item) (st : Byte) : (s.stepEnd i st).fields = s.fields :=
  (unQ_fields _).symm.trans ((congrArg State.fields (stepEnd_unQ s i st)).trans (unQ_fields s))
@[simp] theorem stepEnd_jobs (s : State) (i : Item) (st : Byte) : (s.stepEnd i st).jobs = s.jobs :=
  (unQ_jobs _).symm.trans ((congrArg State.jobs (stepEnd_unQ s i st)).trans (unQ_jobs s))
@[simp] theorem stepEnd_strands (s : State) (i : Item) (st : Byte) : (s.stepEnd i st).strands = s.strands :=
  (unQ_strands _).symm.trans ((congrArg State.strands (stepEnd_unQ s i st)).trans (unQ_strands s))
@[simp] theorem stepEnd_mem (s : State) (i : Item) (st : Byte) : (s.stepEnd i st).mem = s.mem :=
  (unQ_mem _).symm.trans ((congrArg State.mem (stepEnd_unQ s i st)).trans (unQ_mem s))
@[simp] theorem stepEnd_heirloom (s : State) (i : Item) (st : Byte) : (s.stepEnd i st).heirloom = s.heirloom :=
  (unQ_heirloom _).symm.trans ((congrArg State.heirloom (stepEnd_unQ s i st)).trans (unQ_heirloom s))
@[simp] theorem stepEnd_hwCounts (s : State) (i : Item) (st : Byte) : (s.stepEnd i st).hwCounts = s.hwCounts :=
  (unQ_hwCounts _).symm.trans ((congrArg State.hwCounts (stepEnd_unQ s i st)).trans (unQ_hwCounts s))
@[simp] theorem stepEnd_opTime (s : State) (i : Item) (st : Byte) : (s.stepEnd i st).opTime = s.opTime :=
  (unQ_opTime _).symm.trans ((congrArg State.opTime (stepEnd_unQ s i st)).trans (unQ_opTime s))
@[simp] theorem stepEnd_hwQueue (s : State) (i : Item) (st : Byte) : (s.stepEnd i st).hwQueue = s.hwQueue :=
  (unQ_hwQueue _).symm.trans ((congrArg State.hwQueue (stepEnd_unQ s i st)).trans (unQ_hwQueue s))
@[simp] theorem stepEnd_replaceDue (s : State) (i : Item) (st : Byte) : (s.stepEnd i st).replaceDue = s.replaceDue :=
  (unQ_replaceDue _).symm.trans ((congrArg State.replaceDue (stepEnd_unQ s i st)).trans (unQ_replaceDue s))
@[simp] theorem stepEnd_free (s : State) (i : Item) (st : Byte) : (s.stepEnd i st).free = s.free :=
  (unQ_free _).symm.trans ((congrArg State.free (stepEnd_unQ s i st)).trans (unQ_free s))
@[simp] theorem stepEnd_pending (s : State) (i : Item) (st : Byte) : (s.stepEnd i st).pending = s.pending :=
  (unQ_pending _).symm.trans ((congrArg State.pending (stepEnd_unQ s i st)).trans (unQ_pending s))
@[simp] theorem stepEnd_state (s : State) (i : Item) (st : Byte) : (s.stepEnd i st).gen.state = s.gen.state :=
  (unQ_state _).symm.trans ((congrArg (fun x => x.gen.state) (stepEnd_unQ s i st)).trans (unQ_state s))

/-- The state less cores, fields, strands, Feast, Loupe units, the Almanac, Clasp and messages. -/
def State.unRun (s : State) : State :=
  { s with cores := [], fields := [], strands := [], fst := {}, lou := [], alm := {}, cls := {}, out := [] }

theorem unRun_part (s : State) : s.unRun.part = s.part := rfl
theorem unRun_flash (s : State) : s.unRun.flash = s.flash := rfl
theorem unRun_pins (s : State) : s.unRun.pins = s.pins := rfl
theorem unRun_cal (s : State) : s.unRun.cal = s.cal := rfl
theorem unRun_gen (s : State) : s.unRun.gen = s.gen := rfl
theorem unRun_regsShadow (s : State) : s.unRun.regsShadow = s.regsShadow := rfl
theorem unRun_asy (s : State) : s.unRun.asy = s.asy := rfl
theorem unRun_clk (s : State) : s.unRun.clk = s.clk := rfl
theorem unRun_pwr (s : State) : s.unRun.pwr = s.pwr := rfl
theorem unRun_thm (s : State) : s.unRun.thm = s.thm := rfl
theorem unRun_lkt (s : State) : s.unRun.lkt = s.lkt := rfl
theorem unRun_cxl (s : State) : s.unRun.cxl = s.cxl := rfl
theorem unRun_rng (s : State) : s.unRun.rng = s.rng := rfl
theorem unRun_mgmt (s : State) : s.unRun.mgmt = s.mgmt := rfl
theorem unRun_sec (s : State) : s.unRun.sec = s.sec := rfl
theorem unRun_jobs (s : State) : s.unRun.jobs = s.jobs := rfl
theorem unRun_mem (s : State) : s.unRun.mem = s.mem := rfl
theorem unRun_heirloom (s : State) : s.unRun.heirloom = s.heirloom := rfl
theorem unRun_hwCounts (s : State) : s.unRun.hwCounts = s.hwCounts := rfl
theorem unRun_opTime (s : State) : s.unRun.opTime = s.opTime := rfl
theorem unRun_hwQueue (s : State) : s.unRun.hwQueue = s.hwQueue := rfl
theorem unRun_replaceDue (s : State) : s.unRun.replaceDue = s.replaceDue := rfl
theorem unRun_free (s : State) : s.unRun.free = s.free := rfl
theorem unRun_pending (s : State) : s.unRun.pending = s.pending := rfl

@[simp] theorem putOn_unRun (s : State) (l t : Nat) (x : Output) : (s.putOn l t x).unRun = s.unRun := by
  simp only [State.putOn]
  split <;> rfl

@[simp] theorem modItem_unRun (s : State) (w : W32) (f : Item → Item) : (s.modItem w f).unRun = s.unRun := by
  rfl

@[simp] theorem dropItem_unRun (s : State) (w : W32) : (s.dropItem w).unRun = s.unRun := by
  rfl

@[simp] theorem modCore_unRun (s : State) (n : Nat) (f : CoreSt → CoreSt) : (s.modCore n f).unRun = s.unRun := by
  rfl

@[simp] theorem setCore_unRun (s : State) (n : Nat) (v : CoreSt) : (s.setCore n v).unRun = s.unRun := by
  rfl

@[simp] theorem modField_unRun (s : State) (n : Nat) (f : FieldSt → FieldSt) : (s.modField n f).unRun = s.unRun := by
  rfl

@[simp] theorem queueHallmark_unRun (s : State) (n : Nat) (b : List Byte) : (s.queueHallmark n b).unRun = s.unRun := by
  rfl

@[simp] theorem discardWork_unRun (s : State) (w : W32) : (s.discardWork w).unRun = s.unRun := by
  simp only [State.discardWork]
  rw [foldr_keep State.unRun _ (fun s e => by simp)]
  rfl

@[simp] theorem drawTail_unRun (s : State) (n : Nat) : (s.drawTail n).unRun = s.unRun := by
  simp only [State.drawTail]
  repeat' split
  all_goals rfl

@[simp] theorem overtake_unRun (s : State) (c : Nat) (dead : W32 → Bool) : (s.overtake c dead).unRun = s.unRun := by
  simp only [State.overtake]
  split
  · rfl
  · rw [modCore_unRun]
    exact foldl_keep State.unRun _ (fun s e => by simp) _ _

@[simp] theorem haltRuns_unRun (s : State) (w : W32) : (s.haltRuns w).unRun = s.unRun := by
  simp only [State.haltRuns]
  exact foldl_keep State.unRun _ (fun s e => by simp) _ _
@[simp] theorem haltRuns_part (s : State) (w : W32) : (s.haltRuns w).part = s.part :=
  (unRun_part _).symm.trans ((congrArg State.part (haltRuns_unRun s w)).trans (unRun_part s))
@[simp] theorem haltRuns_flash (s : State) (w : W32) : (s.haltRuns w).flash = s.flash :=
  (unRun_flash _).symm.trans ((congrArg State.flash (haltRuns_unRun s w)).trans (unRun_flash s))
@[simp] theorem haltRuns_pins (s : State) (w : W32) : (s.haltRuns w).pins = s.pins :=
  (unRun_pins _).symm.trans ((congrArg State.pins (haltRuns_unRun s w)).trans (unRun_pins s))
@[simp] theorem haltRuns_cal (s : State) (w : W32) : (s.haltRuns w).cal = s.cal :=
  (unRun_cal _).symm.trans ((congrArg State.cal (haltRuns_unRun s w)).trans (unRun_cal s))
@[simp] theorem haltRuns_gen (s : State) (w : W32) : (s.haltRuns w).gen = s.gen :=
  (unRun_gen _).symm.trans ((congrArg State.gen (haltRuns_unRun s w)).trans (unRun_gen s))
@[simp] theorem haltRuns_regsShadow (s : State) (w : W32) : (s.haltRuns w).regsShadow = s.regsShadow :=
  (unRun_regsShadow _).symm.trans ((congrArg State.regsShadow (haltRuns_unRun s w)).trans (unRun_regsShadow s))
@[simp] theorem haltRuns_asy (s : State) (w : W32) : (s.haltRuns w).asy = s.asy :=
  (unRun_asy _).symm.trans ((congrArg State.asy (haltRuns_unRun s w)).trans (unRun_asy s))
@[simp] theorem haltRuns_clk (s : State) (w : W32) : (s.haltRuns w).clk = s.clk :=
  (unRun_clk _).symm.trans ((congrArg State.clk (haltRuns_unRun s w)).trans (unRun_clk s))
@[simp] theorem haltRuns_pwr (s : State) (w : W32) : (s.haltRuns w).pwr = s.pwr :=
  (unRun_pwr _).symm.trans ((congrArg State.pwr (haltRuns_unRun s w)).trans (unRun_pwr s))
@[simp] theorem haltRuns_thm (s : State) (w : W32) : (s.haltRuns w).thm = s.thm :=
  (unRun_thm _).symm.trans ((congrArg State.thm (haltRuns_unRun s w)).trans (unRun_thm s))
@[simp] theorem haltRuns_lkt (s : State) (w : W32) : (s.haltRuns w).lkt = s.lkt :=
  (unRun_lkt _).symm.trans ((congrArg State.lkt (haltRuns_unRun s w)).trans (unRun_lkt s))
@[simp] theorem haltRuns_cxl (s : State) (w : W32) : (s.haltRuns w).cxl = s.cxl :=
  (unRun_cxl _).symm.trans ((congrArg State.cxl (haltRuns_unRun s w)).trans (unRun_cxl s))
@[simp] theorem haltRuns_rng (s : State) (w : W32) : (s.haltRuns w).rng = s.rng :=
  (unRun_rng _).symm.trans ((congrArg State.rng (haltRuns_unRun s w)).trans (unRun_rng s))
@[simp] theorem haltRuns_mgmt (s : State) (w : W32) : (s.haltRuns w).mgmt = s.mgmt :=
  (unRun_mgmt _).symm.trans ((congrArg State.mgmt (haltRuns_unRun s w)).trans (unRun_mgmt s))
@[simp] theorem haltRuns_sec (s : State) (w : W32) : (s.haltRuns w).sec = s.sec :=
  (unRun_sec _).symm.trans ((congrArg State.sec (haltRuns_unRun s w)).trans (unRun_sec s))
@[simp] theorem haltRuns_jobs (s : State) (w : W32) : (s.haltRuns w).jobs = s.jobs :=
  (unRun_jobs _).symm.trans ((congrArg State.jobs (haltRuns_unRun s w)).trans (unRun_jobs s))
@[simp] theorem haltRuns_mem (s : State) (w : W32) : (s.haltRuns w).mem = s.mem :=
  (unRun_mem _).symm.trans ((congrArg State.mem (haltRuns_unRun s w)).trans (unRun_mem s))
@[simp] theorem haltRuns_heirloom (s : State) (w : W32) : (s.haltRuns w).heirloom = s.heirloom :=
  (unRun_heirloom _).symm.trans ((congrArg State.heirloom (haltRuns_unRun s w)).trans (unRun_heirloom s))
@[simp] theorem haltRuns_hwCounts (s : State) (w : W32) : (s.haltRuns w).hwCounts = s.hwCounts :=
  (unRun_hwCounts _).symm.trans ((congrArg State.hwCounts (haltRuns_unRun s w)).trans (unRun_hwCounts s))
@[simp] theorem haltRuns_opTime (s : State) (w : W32) : (s.haltRuns w).opTime = s.opTime :=
  (unRun_opTime _).symm.trans ((congrArg State.opTime (haltRuns_unRun s w)).trans (unRun_opTime s))
@[simp] theorem haltRuns_hwQueue (s : State) (w : W32) : (s.haltRuns w).hwQueue = s.hwQueue :=
  (unRun_hwQueue _).symm.trans ((congrArg State.hwQueue (haltRuns_unRun s w)).trans (unRun_hwQueue s))
@[simp] theorem haltRuns_replaceDue (s : State) (w : W32) : (s.haltRuns w).replaceDue = s.replaceDue :=
  (unRun_replaceDue _).symm.trans ((congrArg State.replaceDue (haltRuns_unRun s w)).trans (unRun_replaceDue s))
@[simp] theorem haltRuns_free (s : State) (w : W32) : (s.haltRuns w).free = s.free :=
  (unRun_free _).symm.trans ((congrArg State.free (haltRuns_unRun s w)).trans (unRun_free s))
@[simp] theorem haltRuns_pending (s : State) (w : W32) : (s.haltRuns w).pending = s.pending :=
  (unRun_pending _).symm.trans ((congrArg State.pending (haltRuns_unRun s w)).trans (unRun_pending s))

@[simp] theorem endItem_unRun (s : State) (w : W32) (st : Byte) (d : Nat) : (s.endItem w st d).unRun = s.unRun := by
  simp only [State.endItem]
  split
  · split
    · split
      · exact modItem_unRun _ _ _
      · rfl
    · rw [foldl_keep State.unRun _ (fun s e => by simp)]
      simp
  · rfl
@[simp] theorem endItem_part (s : State) (w : W32) (st : Byte) (d : Nat) : (s.endItem w st d).part = s.part :=
  (unRun_part _).symm.trans ((congrArg State.part (endItem_unRun s w st d)).trans (unRun_part s))
@[simp] theorem endItem_flash (s : State) (w : W32) (st : Byte) (d : Nat) : (s.endItem w st d).flash = s.flash :=
  (unRun_flash _).symm.trans ((congrArg State.flash (endItem_unRun s w st d)).trans (unRun_flash s))
@[simp] theorem endItem_pins (s : State) (w : W32) (st : Byte) (d : Nat) : (s.endItem w st d).pins = s.pins :=
  (unRun_pins _).symm.trans ((congrArg State.pins (endItem_unRun s w st d)).trans (unRun_pins s))
@[simp] theorem endItem_cal (s : State) (w : W32) (st : Byte) (d : Nat) : (s.endItem w st d).cal = s.cal :=
  (unRun_cal _).symm.trans ((congrArg State.cal (endItem_unRun s w st d)).trans (unRun_cal s))
@[simp] theorem endItem_gen (s : State) (w : W32) (st : Byte) (d : Nat) : (s.endItem w st d).gen = s.gen :=
  (unRun_gen _).symm.trans ((congrArg State.gen (endItem_unRun s w st d)).trans (unRun_gen s))
@[simp] theorem endItem_regsShadow (s : State) (w : W32) (st : Byte) (d : Nat) : (s.endItem w st d).regsShadow = s.regsShadow :=
  (unRun_regsShadow _).symm.trans ((congrArg State.regsShadow (endItem_unRun s w st d)).trans (unRun_regsShadow s))
@[simp] theorem endItem_asy (s : State) (w : W32) (st : Byte) (d : Nat) : (s.endItem w st d).asy = s.asy :=
  (unRun_asy _).symm.trans ((congrArg State.asy (endItem_unRun s w st d)).trans (unRun_asy s))
@[simp] theorem endItem_clk (s : State) (w : W32) (st : Byte) (d : Nat) : (s.endItem w st d).clk = s.clk :=
  (unRun_clk _).symm.trans ((congrArg State.clk (endItem_unRun s w st d)).trans (unRun_clk s))
@[simp] theorem endItem_pwr (s : State) (w : W32) (st : Byte) (d : Nat) : (s.endItem w st d).pwr = s.pwr :=
  (unRun_pwr _).symm.trans ((congrArg State.pwr (endItem_unRun s w st d)).trans (unRun_pwr s))
@[simp] theorem endItem_thm (s : State) (w : W32) (st : Byte) (d : Nat) : (s.endItem w st d).thm = s.thm :=
  (unRun_thm _).symm.trans ((congrArg State.thm (endItem_unRun s w st d)).trans (unRun_thm s))
@[simp] theorem endItem_lkt (s : State) (w : W32) (st : Byte) (d : Nat) : (s.endItem w st d).lkt = s.lkt :=
  (unRun_lkt _).symm.trans ((congrArg State.lkt (endItem_unRun s w st d)).trans (unRun_lkt s))
@[simp] theorem endItem_cxl (s : State) (w : W32) (st : Byte) (d : Nat) : (s.endItem w st d).cxl = s.cxl :=
  (unRun_cxl _).symm.trans ((congrArg State.cxl (endItem_unRun s w st d)).trans (unRun_cxl s))
@[simp] theorem endItem_rng (s : State) (w : W32) (st : Byte) (d : Nat) : (s.endItem w st d).rng = s.rng :=
  (unRun_rng _).symm.trans ((congrArg State.rng (endItem_unRun s w st d)).trans (unRun_rng s))
@[simp] theorem endItem_mgmt (s : State) (w : W32) (st : Byte) (d : Nat) : (s.endItem w st d).mgmt = s.mgmt :=
  (unRun_mgmt _).symm.trans ((congrArg State.mgmt (endItem_unRun s w st d)).trans (unRun_mgmt s))
@[simp] theorem endItem_sec (s : State) (w : W32) (st : Byte) (d : Nat) : (s.endItem w st d).sec = s.sec :=
  (unRun_sec _).symm.trans ((congrArg State.sec (endItem_unRun s w st d)).trans (unRun_sec s))
@[simp] theorem endItem_jobs (s : State) (w : W32) (st : Byte) (d : Nat) : (s.endItem w st d).jobs = s.jobs :=
  (unRun_jobs _).symm.trans ((congrArg State.jobs (endItem_unRun s w st d)).trans (unRun_jobs s))
@[simp] theorem endItem_mem (s : State) (w : W32) (st : Byte) (d : Nat) : (s.endItem w st d).mem = s.mem :=
  (unRun_mem _).symm.trans ((congrArg State.mem (endItem_unRun s w st d)).trans (unRun_mem s))
@[simp] theorem endItem_heirloom (s : State) (w : W32) (st : Byte) (d : Nat) : (s.endItem w st d).heirloom = s.heirloom :=
  (unRun_heirloom _).symm.trans ((congrArg State.heirloom (endItem_unRun s w st d)).trans (unRun_heirloom s))
@[simp] theorem endItem_hwCounts (s : State) (w : W32) (st : Byte) (d : Nat) : (s.endItem w st d).hwCounts = s.hwCounts :=
  (unRun_hwCounts _).symm.trans ((congrArg State.hwCounts (endItem_unRun s w st d)).trans (unRun_hwCounts s))
@[simp] theorem endItem_opTime (s : State) (w : W32) (st : Byte) (d : Nat) : (s.endItem w st d).opTime = s.opTime :=
  (unRun_opTime _).symm.trans ((congrArg State.opTime (endItem_unRun s w st d)).trans (unRun_opTime s))
@[simp] theorem endItem_hwQueue (s : State) (w : W32) (st : Byte) (d : Nat) : (s.endItem w st d).hwQueue = s.hwQueue :=
  (unRun_hwQueue _).symm.trans ((congrArg State.hwQueue (endItem_unRun s w st d)).trans (unRun_hwQueue s))
@[simp] theorem endItem_replaceDue (s : State) (w : W32) (st : Byte) (d : Nat) : (s.endItem w st d).replaceDue = s.replaceDue :=
  (unRun_replaceDue _).symm.trans ((congrArg State.replaceDue (endItem_unRun s w st d)).trans (unRun_replaceDue s))
@[simp] theorem endItem_free (s : State) (w : W32) (st : Byte) (d : Nat) : (s.endItem w st d).free = s.free :=
  (unRun_free _).symm.trans ((congrArg State.free (endItem_unRun s w st d)).trans (unRun_free s))
@[simp] theorem endItem_pending (s : State) (w : W32) (st : Byte) (d : Nat) : (s.endItem w st d).pending = s.pending :=
  (unRun_pending _).symm.trans ((congrArg State.pending (endItem_unRun s w st d)).trans (unRun_pending s))

@[simp] theorem endItems_unRun (s : State) (p : Item → Bool) (st : Byte) (d : Nat) : (s.endItems p st d).unRun = s.unRun := by
  simp only [State.endItems]
  exact foldl_keep State.unRun _ (fun s e => by simp) _ _
@[simp] theorem endItems_part (s : State) (p : Item → Bool) (st : Byte) (d : Nat) : (s.endItems p st d).part = s.part :=
  (unRun_part _).symm.trans ((congrArg State.part (endItems_unRun s p st d)).trans (unRun_part s))
@[simp] theorem endItems_flash (s : State) (p : Item → Bool) (st : Byte) (d : Nat) : (s.endItems p st d).flash = s.flash :=
  (unRun_flash _).symm.trans ((congrArg State.flash (endItems_unRun s p st d)).trans (unRun_flash s))
@[simp] theorem endItems_pins (s : State) (p : Item → Bool) (st : Byte) (d : Nat) : (s.endItems p st d).pins = s.pins :=
  (unRun_pins _).symm.trans ((congrArg State.pins (endItems_unRun s p st d)).trans (unRun_pins s))
@[simp] theorem endItems_cal (s : State) (p : Item → Bool) (st : Byte) (d : Nat) : (s.endItems p st d).cal = s.cal :=
  (unRun_cal _).symm.trans ((congrArg State.cal (endItems_unRun s p st d)).trans (unRun_cal s))
@[simp] theorem endItems_gen (s : State) (p : Item → Bool) (st : Byte) (d : Nat) : (s.endItems p st d).gen = s.gen :=
  (unRun_gen _).symm.trans ((congrArg State.gen (endItems_unRun s p st d)).trans (unRun_gen s))
@[simp] theorem endItems_regsShadow (s : State) (p : Item → Bool) (st : Byte) (d : Nat) : (s.endItems p st d).regsShadow = s.regsShadow :=
  (unRun_regsShadow _).symm.trans ((congrArg State.regsShadow (endItems_unRun s p st d)).trans (unRun_regsShadow s))
@[simp] theorem endItems_asy (s : State) (p : Item → Bool) (st : Byte) (d : Nat) : (s.endItems p st d).asy = s.asy :=
  (unRun_asy _).symm.trans ((congrArg State.asy (endItems_unRun s p st d)).trans (unRun_asy s))
@[simp] theorem endItems_clk (s : State) (p : Item → Bool) (st : Byte) (d : Nat) : (s.endItems p st d).clk = s.clk :=
  (unRun_clk _).symm.trans ((congrArg State.clk (endItems_unRun s p st d)).trans (unRun_clk s))
@[simp] theorem endItems_pwr (s : State) (p : Item → Bool) (st : Byte) (d : Nat) : (s.endItems p st d).pwr = s.pwr :=
  (unRun_pwr _).symm.trans ((congrArg State.pwr (endItems_unRun s p st d)).trans (unRun_pwr s))
@[simp] theorem endItems_thm (s : State) (p : Item → Bool) (st : Byte) (d : Nat) : (s.endItems p st d).thm = s.thm :=
  (unRun_thm _).symm.trans ((congrArg State.thm (endItems_unRun s p st d)).trans (unRun_thm s))
@[simp] theorem endItems_lkt (s : State) (p : Item → Bool) (st : Byte) (d : Nat) : (s.endItems p st d).lkt = s.lkt :=
  (unRun_lkt _).symm.trans ((congrArg State.lkt (endItems_unRun s p st d)).trans (unRun_lkt s))
@[simp] theorem endItems_cxl (s : State) (p : Item → Bool) (st : Byte) (d : Nat) : (s.endItems p st d).cxl = s.cxl :=
  (unRun_cxl _).symm.trans ((congrArg State.cxl (endItems_unRun s p st d)).trans (unRun_cxl s))
@[simp] theorem endItems_rng (s : State) (p : Item → Bool) (st : Byte) (d : Nat) : (s.endItems p st d).rng = s.rng :=
  (unRun_rng _).symm.trans ((congrArg State.rng (endItems_unRun s p st d)).trans (unRun_rng s))
@[simp] theorem endItems_mgmt (s : State) (p : Item → Bool) (st : Byte) (d : Nat) : (s.endItems p st d).mgmt = s.mgmt :=
  (unRun_mgmt _).symm.trans ((congrArg State.mgmt (endItems_unRun s p st d)).trans (unRun_mgmt s))
@[simp] theorem endItems_sec (s : State) (p : Item → Bool) (st : Byte) (d : Nat) : (s.endItems p st d).sec = s.sec :=
  (unRun_sec _).symm.trans ((congrArg State.sec (endItems_unRun s p st d)).trans (unRun_sec s))
@[simp] theorem endItems_jobs (s : State) (p : Item → Bool) (st : Byte) (d : Nat) : (s.endItems p st d).jobs = s.jobs :=
  (unRun_jobs _).symm.trans ((congrArg State.jobs (endItems_unRun s p st d)).trans (unRun_jobs s))
@[simp] theorem endItems_mem (s : State) (p : Item → Bool) (st : Byte) (d : Nat) : (s.endItems p st d).mem = s.mem :=
  (unRun_mem _).symm.trans ((congrArg State.mem (endItems_unRun s p st d)).trans (unRun_mem s))
@[simp] theorem endItems_heirloom (s : State) (p : Item → Bool) (st : Byte) (d : Nat) : (s.endItems p st d).heirloom = s.heirloom :=
  (unRun_heirloom _).symm.trans ((congrArg State.heirloom (endItems_unRun s p st d)).trans (unRun_heirloom s))
@[simp] theorem endItems_hwCounts (s : State) (p : Item → Bool) (st : Byte) (d : Nat) : (s.endItems p st d).hwCounts = s.hwCounts :=
  (unRun_hwCounts _).symm.trans ((congrArg State.hwCounts (endItems_unRun s p st d)).trans (unRun_hwCounts s))
@[simp] theorem endItems_opTime (s : State) (p : Item → Bool) (st : Byte) (d : Nat) : (s.endItems p st d).opTime = s.opTime :=
  (unRun_opTime _).symm.trans ((congrArg State.opTime (endItems_unRun s p st d)).trans (unRun_opTime s))
@[simp] theorem endItems_hwQueue (s : State) (p : Item → Bool) (st : Byte) (d : Nat) : (s.endItems p st d).hwQueue = s.hwQueue :=
  (unRun_hwQueue _).symm.trans ((congrArg State.hwQueue (endItems_unRun s p st d)).trans (unRun_hwQueue s))
@[simp] theorem endItems_replaceDue (s : State) (p : Item → Bool) (st : Byte) (d : Nat) : (s.endItems p st d).replaceDue = s.replaceDue :=
  (unRun_replaceDue _).symm.trans ((congrArg State.replaceDue (endItems_unRun s p st d)).trans (unRun_replaceDue s))
@[simp] theorem endItems_free (s : State) (p : Item → Bool) (st : Byte) (d : Nat) : (s.endItems p st d).free = s.free :=
  (unRun_free _).symm.trans ((congrArg State.free (endItems_unRun s p st d)).trans (unRun_free s))
@[simp] theorem endItems_pending (s : State) (p : Item → Bool) (st : Byte) (d : Nat) : (s.endItems p st d).pending = s.pending :=
  (unRun_pending _).symm.trans ((congrArg State.pending (endItems_unRun s p st d)).trans (unRun_pending s))

@[simp] theorem killItem_unRun (s : State) (w : W32) (st : Byte) (d : Nat) : (s.killItem w st d).unRun = s.unRun := by
  simp only [State.killItem]
  split
  · split <;> simp
  · rfl
@[simp] theorem killItem_part (s : State) (w : W32) (st : Byte) (d : Nat) : (s.killItem w st d).part = s.part :=
  (unRun_part _).symm.trans ((congrArg State.part (killItem_unRun s w st d)).trans (unRun_part s))
@[simp] theorem killItem_flash (s : State) (w : W32) (st : Byte) (d : Nat) : (s.killItem w st d).flash = s.flash :=
  (unRun_flash _).symm.trans ((congrArg State.flash (killItem_unRun s w st d)).trans (unRun_flash s))
@[simp] theorem killItem_pins (s : State) (w : W32) (st : Byte) (d : Nat) : (s.killItem w st d).pins = s.pins :=
  (unRun_pins _).symm.trans ((congrArg State.pins (killItem_unRun s w st d)).trans (unRun_pins s))
@[simp] theorem killItem_cal (s : State) (w : W32) (st : Byte) (d : Nat) : (s.killItem w st d).cal = s.cal :=
  (unRun_cal _).symm.trans ((congrArg State.cal (killItem_unRun s w st d)).trans (unRun_cal s))
@[simp] theorem killItem_gen (s : State) (w : W32) (st : Byte) (d : Nat) : (s.killItem w st d).gen = s.gen :=
  (unRun_gen _).symm.trans ((congrArg State.gen (killItem_unRun s w st d)).trans (unRun_gen s))
@[simp] theorem killItem_regsShadow (s : State) (w : W32) (st : Byte) (d : Nat) : (s.killItem w st d).regsShadow = s.regsShadow :=
  (unRun_regsShadow _).symm.trans ((congrArg State.regsShadow (killItem_unRun s w st d)).trans (unRun_regsShadow s))
@[simp] theorem killItem_asy (s : State) (w : W32) (st : Byte) (d : Nat) : (s.killItem w st d).asy = s.asy :=
  (unRun_asy _).symm.trans ((congrArg State.asy (killItem_unRun s w st d)).trans (unRun_asy s))
@[simp] theorem killItem_clk (s : State) (w : W32) (st : Byte) (d : Nat) : (s.killItem w st d).clk = s.clk :=
  (unRun_clk _).symm.trans ((congrArg State.clk (killItem_unRun s w st d)).trans (unRun_clk s))
@[simp] theorem killItem_pwr (s : State) (w : W32) (st : Byte) (d : Nat) : (s.killItem w st d).pwr = s.pwr :=
  (unRun_pwr _).symm.trans ((congrArg State.pwr (killItem_unRun s w st d)).trans (unRun_pwr s))
@[simp] theorem killItem_thm (s : State) (w : W32) (st : Byte) (d : Nat) : (s.killItem w st d).thm = s.thm :=
  (unRun_thm _).symm.trans ((congrArg State.thm (killItem_unRun s w st d)).trans (unRun_thm s))
@[simp] theorem killItem_lkt (s : State) (w : W32) (st : Byte) (d : Nat) : (s.killItem w st d).lkt = s.lkt :=
  (unRun_lkt _).symm.trans ((congrArg State.lkt (killItem_unRun s w st d)).trans (unRun_lkt s))
@[simp] theorem killItem_cxl (s : State) (w : W32) (st : Byte) (d : Nat) : (s.killItem w st d).cxl = s.cxl :=
  (unRun_cxl _).symm.trans ((congrArg State.cxl (killItem_unRun s w st d)).trans (unRun_cxl s))
@[simp] theorem killItem_rng (s : State) (w : W32) (st : Byte) (d : Nat) : (s.killItem w st d).rng = s.rng :=
  (unRun_rng _).symm.trans ((congrArg State.rng (killItem_unRun s w st d)).trans (unRun_rng s))
@[simp] theorem killItem_mgmt (s : State) (w : W32) (st : Byte) (d : Nat) : (s.killItem w st d).mgmt = s.mgmt :=
  (unRun_mgmt _).symm.trans ((congrArg State.mgmt (killItem_unRun s w st d)).trans (unRun_mgmt s))
@[simp] theorem killItem_sec (s : State) (w : W32) (st : Byte) (d : Nat) : (s.killItem w st d).sec = s.sec :=
  (unRun_sec _).symm.trans ((congrArg State.sec (killItem_unRun s w st d)).trans (unRun_sec s))
@[simp] theorem killItem_jobs (s : State) (w : W32) (st : Byte) (d : Nat) : (s.killItem w st d).jobs = s.jobs :=
  (unRun_jobs _).symm.trans ((congrArg State.jobs (killItem_unRun s w st d)).trans (unRun_jobs s))
@[simp] theorem killItem_mem (s : State) (w : W32) (st : Byte) (d : Nat) : (s.killItem w st d).mem = s.mem :=
  (unRun_mem _).symm.trans ((congrArg State.mem (killItem_unRun s w st d)).trans (unRun_mem s))
@[simp] theorem killItem_heirloom (s : State) (w : W32) (st : Byte) (d : Nat) : (s.killItem w st d).heirloom = s.heirloom :=
  (unRun_heirloom _).symm.trans ((congrArg State.heirloom (killItem_unRun s w st d)).trans (unRun_heirloom s))
@[simp] theorem killItem_hwCounts (s : State) (w : W32) (st : Byte) (d : Nat) : (s.killItem w st d).hwCounts = s.hwCounts :=
  (unRun_hwCounts _).symm.trans ((congrArg State.hwCounts (killItem_unRun s w st d)).trans (unRun_hwCounts s))
@[simp] theorem killItem_opTime (s : State) (w : W32) (st : Byte) (d : Nat) : (s.killItem w st d).opTime = s.opTime :=
  (unRun_opTime _).symm.trans ((congrArg State.opTime (killItem_unRun s w st d)).trans (unRun_opTime s))
@[simp] theorem killItem_hwQueue (s : State) (w : W32) (st : Byte) (d : Nat) : (s.killItem w st d).hwQueue = s.hwQueue :=
  (unRun_hwQueue _).symm.trans ((congrArg State.hwQueue (killItem_unRun s w st d)).trans (unRun_hwQueue s))
@[simp] theorem killItem_replaceDue (s : State) (w : W32) (st : Byte) (d : Nat) : (s.killItem w st d).replaceDue = s.replaceDue :=
  (unRun_replaceDue _).symm.trans ((congrArg State.replaceDue (killItem_unRun s w st d)).trans (unRun_replaceDue s))
@[simp] theorem killItem_free (s : State) (w : W32) (st : Byte) (d : Nat) : (s.killItem w st d).free = s.free :=
  (unRun_free _).symm.trans ((congrArg State.free (killItem_unRun s w st d)).trans (unRun_free s))
@[simp] theorem killItem_pending (s : State) (w : W32) (st : Byte) (d : Nat) : (s.killItem w st d).pending = s.pending :=
  (unRun_pending _).symm.trans ((congrArg State.pending (killItem_unRun s w st d)).trans (unRun_pending s))

/-- The state less what the settling of an item may change. -/
def State.unSet (s : State) : State :=
  { s with alm := {}, lkt := {}, fst := {}, rng := {}, out := [], gen.suspects := 0, gen.eventStatus := 0, cxl.haltCount := 0 }

theorem unSet_part (s : State) : s.unSet.part = s.part := rfl
theorem unSet_flash (s : State) : s.unSet.flash = s.flash := rfl
theorem unSet_pins (s : State) : s.unSet.pins = s.pins := rfl
theorem unSet_cal (s : State) : s.unSet.cal = s.cal := rfl
theorem unSet_regsShadow (s : State) : s.unSet.regsShadow = s.regsShadow := rfl
theorem unSet_asy (s : State) : s.unSet.asy = s.asy := rfl
theorem unSet_clk (s : State) : s.unSet.clk = s.clk := rfl
theorem unSet_pwr (s : State) : s.unSet.pwr = s.pwr := rfl
theorem unSet_thm (s : State) : s.unSet.thm = s.thm := rfl
theorem unSet_lou (s : State) : s.unSet.lou = s.lou := rfl
theorem unSet_cls (s : State) : s.unSet.cls = s.cls := rfl
theorem unSet_mgmt (s : State) : s.unSet.mgmt = s.mgmt := rfl
theorem unSet_sec (s : State) : s.unSet.sec = s.sec := rfl
theorem unSet_cores (s : State) : s.unSet.cores = s.cores := rfl
theorem unSet_fields (s : State) : s.unSet.fields = s.fields := rfl
theorem unSet_jobs (s : State) : s.unSet.jobs = s.jobs := rfl
theorem unSet_strands (s : State) : s.unSet.strands = s.strands := rfl
theorem unSet_mem (s : State) : s.unSet.mem = s.mem := rfl
theorem unSet_heirloom (s : State) : s.unSet.heirloom = s.heirloom := rfl
theorem unSet_hwCounts (s : State) : s.unSet.hwCounts = s.hwCounts := rfl
theorem unSet_opTime (s : State) : s.unSet.opTime = s.opTime := rfl
theorem unSet_hwQueue (s : State) : s.unSet.hwQueue = s.hwQueue := rfl
theorem unSet_replaceDue (s : State) : s.unSet.replaceDue = s.replaceDue := rfl
theorem unSet_free (s : State) : s.unSet.free = s.free := rfl
theorem unSet_pending (s : State) : s.unSet.pending = s.pending := rfl
theorem unSet_state (s : State) : s.unSet.gen.state = s.gen.state := rfl

/-- The state less what the end of items and the halt of rings may change. -/
def State.unEnd (s : State) : State :=
  { s with cores := [], fields := [], strands := [], fst := {}, lou := [], alm := {}, cls := {}, lkt := {}, rng := {}, out := [], gen.suspects := 0, gen.eventStatus := 0, cxl.haltCount := 0 }

theorem unEnd_part (s : State) : s.unEnd.part = s.part := rfl
theorem unEnd_flash (s : State) : s.unEnd.flash = s.flash := rfl
theorem unEnd_pins (s : State) : s.unEnd.pins = s.pins := rfl
theorem unEnd_cal (s : State) : s.unEnd.cal = s.cal := rfl
theorem unEnd_regsShadow (s : State) : s.unEnd.regsShadow = s.regsShadow := rfl
theorem unEnd_asy (s : State) : s.unEnd.asy = s.asy := rfl
theorem unEnd_clk (s : State) : s.unEnd.clk = s.clk := rfl
theorem unEnd_pwr (s : State) : s.unEnd.pwr = s.pwr := rfl
theorem unEnd_thm (s : State) : s.unEnd.thm = s.thm := rfl
theorem unEnd_mgmt (s : State) : s.unEnd.mgmt = s.mgmt := rfl
theorem unEnd_sec (s : State) : s.unEnd.sec = s.sec := rfl
theorem unEnd_jobs (s : State) : s.unEnd.jobs = s.jobs := rfl
theorem unEnd_mem (s : State) : s.unEnd.mem = s.mem := rfl
theorem unEnd_heirloom (s : State) : s.unEnd.heirloom = s.heirloom := rfl
theorem unEnd_hwCounts (s : State) : s.unEnd.hwCounts = s.hwCounts := rfl
theorem unEnd_opTime (s : State) : s.unEnd.opTime = s.opTime := rfl
theorem unEnd_hwQueue (s : State) : s.unEnd.hwQueue = s.hwQueue := rfl
theorem unEnd_replaceDue (s : State) : s.unEnd.replaceDue = s.replaceDue := rfl
theorem unEnd_free (s : State) : s.unEnd.free = s.free := rfl
theorem unEnd_pending (s : State) : s.unEnd.pending = s.pending := rfl
theorem unEnd_state (s : State) : s.unEnd.gen.state = s.gen.state := rfl

theorem unSet_of_unQ {s t : State} (h : s.unQ = t.unQ) : s.unSet = t.unSet := by
  have e : ∀ x : State, x.unSet = x.unQ.unSet := fun _ => rfl
  rw [e s, e t, h]
theorem unEnd_of_unSet {s t : State} (h : s.unSet = t.unSet) : s.unEnd = t.unEnd := by
  have e : ∀ x : State, x.unEnd = x.unSet.unEnd := fun _ => rfl
  rw [e s, e t, h]
@[simp] theorem stepEnd_unSet (s : State) (i : Item) (st : Byte) : (s.stepEnd i st).unSet = s.unSet :=
  unSet_of_unQ (stepEnd_unQ s i st)
@[simp] theorem settleRing_unSet (s : State) (n : Nat) : (s.settleRing n).unSet = s.unSet := by
  simp only [State.settleRing]; split <;> rfl
theorem unEnd_of_unRun {s t : State} (h : s.unRun = t.unRun) : s.unEnd = t.unEnd := by
  have e : ∀ x : State, x.unEnd = x.unRun.unEnd := fun _ => rfl
  rw [e s, e t, h]
theorem unEnd_of_unQ {s t : State} (h : s.unQ = t.unQ) : s.unEnd = t.unEnd := by
  have e : ∀ x : State, x.unEnd = x.unQ.unEnd := fun _ => rfl
  rw [e s, e t, h]
@[simp] theorem endItem_unEnd (s : State) (w : W32) (st : Byte) (d : Nat) : (s.endItem w st d).unEnd = s.unEnd :=
  unEnd_of_unRun (endItem_unRun s w st d)
@[simp] theorem endItems_unEnd (s : State) (p : Item → Bool) (st : Byte) (d : Nat) : (s.endItems p st d).unEnd = s.unEnd :=
  unEnd_of_unRun (endItems_unRun s p st d)
@[simp] theorem unbind_unEnd (s : State) (n : Nat) (b : Option PendDesc) : (s.unbind n b).unEnd = s.unEnd :=
  unEnd_of_unQ (unbind_unQ s n b)
@[simp] theorem stepEnd_unEnd (s : State) (i : Item) (st : Byte) : (s.stepEnd i st).unEnd = s.unEnd :=
  unEnd_of_unQ (stepEnd_unQ s i st)
@[simp] theorem modRing_unEnd (s : State) (n : Nat) (f : RingSt → RingSt) : (s.modRing n f).unEnd = s.unEnd := rfl
@[simp] theorem setRing_unEnd (s : State) (n : Nat) (v : RingSt) : (s.setRing n v).unEnd = s.unEnd := rfl
@[simp] theorem settleRing_unEnd (s : State) (n : Nat) : (s.settleRing n).unEnd = s.unEnd := by
  simp only [State.settleRing]; split <;> rfl
@[simp] theorem interrupt_unEnd (s : State) (v : Nat) : (s.interrupt v).unEnd = s.unEnd := by
  simp [State.unEnd]
@[simp] theorem event_unEnd (s : State) (i : Nat) : (s.event i).unEnd = s.unEnd := by
  simp only [State.unEnd]
  rw [event_gen]
  simp
@[simp] theorem markHalt_unEnd (s : State) (n c : Nat) : (s.markHalt n c).unEnd = s.unEnd := by
  simp only [State.unEnd]
  rw [markHalt_gen, markHalt_cxl]
  simp
@[simp] theorem loseCpl_unEnd (s : State) (n : Nat) (r : Rec32) : (s.loseCpl n r).unEnd = s.unEnd := rfl
@[simp] theorem writeCpl_unEnd (s : State) (n : Nat) (r : Rec32) : (s.writeCpl n r).unEnd = s.unEnd := by
  simp [State.unEnd]

@[simp] theorem settleItem_unSet (s : State) (w : W32) (st : Byte) : (s.settleItem w st).unSet = s.unSet := by
  simp only [State.settleItem]
  split
  · rw [settleRing_unSet, stepEnd_unSet]
    split <;> rfl
  · rfl
@[simp] theorem settleItem_part (s : State) (w : W32) (st : Byte) : (s.settleItem w st).part = s.part :=
  (unSet_part _).symm.trans ((congrArg State.part (settleItem_unSet s w st)).trans (unSet_part s))
@[simp] theorem settleItem_flash (s : State) (w : W32) (st : Byte) : (s.settleItem w st).flash = s.flash :=
  (unSet_flash _).symm.trans ((congrArg State.flash (settleItem_unSet s w st)).trans (unSet_flash s))
@[simp] theorem settleItem_pins (s : State) (w : W32) (st : Byte) : (s.settleItem w st).pins = s.pins :=
  (unSet_pins _).symm.trans ((congrArg State.pins (settleItem_unSet s w st)).trans (unSet_pins s))
@[simp] theorem settleItem_cal (s : State) (w : W32) (st : Byte) : (s.settleItem w st).cal = s.cal :=
  (unSet_cal _).symm.trans ((congrArg State.cal (settleItem_unSet s w st)).trans (unSet_cal s))
@[simp] theorem settleItem_regsShadow (s : State) (w : W32) (st : Byte) : (s.settleItem w st).regsShadow = s.regsShadow :=
  (unSet_regsShadow _).symm.trans ((congrArg State.regsShadow (settleItem_unSet s w st)).trans (unSet_regsShadow s))
@[simp] theorem settleItem_asy (s : State) (w : W32) (st : Byte) : (s.settleItem w st).asy = s.asy :=
  (unSet_asy _).symm.trans ((congrArg State.asy (settleItem_unSet s w st)).trans (unSet_asy s))
@[simp] theorem settleItem_clk (s : State) (w : W32) (st : Byte) : (s.settleItem w st).clk = s.clk :=
  (unSet_clk _).symm.trans ((congrArg State.clk (settleItem_unSet s w st)).trans (unSet_clk s))
@[simp] theorem settleItem_pwr (s : State) (w : W32) (st : Byte) : (s.settleItem w st).pwr = s.pwr :=
  (unSet_pwr _).symm.trans ((congrArg State.pwr (settleItem_unSet s w st)).trans (unSet_pwr s))
@[simp] theorem settleItem_thm (s : State) (w : W32) (st : Byte) : (s.settleItem w st).thm = s.thm :=
  (unSet_thm _).symm.trans ((congrArg State.thm (settleItem_unSet s w st)).trans (unSet_thm s))
@[simp] theorem settleItem_lou (s : State) (w : W32) (st : Byte) : (s.settleItem w st).lou = s.lou :=
  (unSet_lou _).symm.trans ((congrArg State.lou (settleItem_unSet s w st)).trans (unSet_lou s))
@[simp] theorem settleItem_cls (s : State) (w : W32) (st : Byte) : (s.settleItem w st).cls = s.cls :=
  (unSet_cls _).symm.trans ((congrArg State.cls (settleItem_unSet s w st)).trans (unSet_cls s))
@[simp] theorem settleItem_mgmt (s : State) (w : W32) (st : Byte) : (s.settleItem w st).mgmt = s.mgmt :=
  (unSet_mgmt _).symm.trans ((congrArg State.mgmt (settleItem_unSet s w st)).trans (unSet_mgmt s))
@[simp] theorem settleItem_sec (s : State) (w : W32) (st : Byte) : (s.settleItem w st).sec = s.sec :=
  (unSet_sec _).symm.trans ((congrArg State.sec (settleItem_unSet s w st)).trans (unSet_sec s))
@[simp] theorem settleItem_cores (s : State) (w : W32) (st : Byte) : (s.settleItem w st).cores = s.cores :=
  (unSet_cores _).symm.trans ((congrArg State.cores (settleItem_unSet s w st)).trans (unSet_cores s))
@[simp] theorem settleItem_fields (s : State) (w : W32) (st : Byte) : (s.settleItem w st).fields = s.fields :=
  (unSet_fields _).symm.trans ((congrArg State.fields (settleItem_unSet s w st)).trans (unSet_fields s))
@[simp] theorem settleItem_jobs (s : State) (w : W32) (st : Byte) : (s.settleItem w st).jobs = s.jobs :=
  (unSet_jobs _).symm.trans ((congrArg State.jobs (settleItem_unSet s w st)).trans (unSet_jobs s))
@[simp] theorem settleItem_strands (s : State) (w : W32) (st : Byte) : (s.settleItem w st).strands = s.strands :=
  (unSet_strands _).symm.trans ((congrArg State.strands (settleItem_unSet s w st)).trans (unSet_strands s))
@[simp] theorem settleItem_mem (s : State) (w : W32) (st : Byte) : (s.settleItem w st).mem = s.mem :=
  (unSet_mem _).symm.trans ((congrArg State.mem (settleItem_unSet s w st)).trans (unSet_mem s))
@[simp] theorem settleItem_heirloom (s : State) (w : W32) (st : Byte) : (s.settleItem w st).heirloom = s.heirloom :=
  (unSet_heirloom _).symm.trans ((congrArg State.heirloom (settleItem_unSet s w st)).trans (unSet_heirloom s))
@[simp] theorem settleItem_hwCounts (s : State) (w : W32) (st : Byte) : (s.settleItem w st).hwCounts = s.hwCounts :=
  (unSet_hwCounts _).symm.trans ((congrArg State.hwCounts (settleItem_unSet s w st)).trans (unSet_hwCounts s))
@[simp] theorem settleItem_opTime (s : State) (w : W32) (st : Byte) : (s.settleItem w st).opTime = s.opTime :=
  (unSet_opTime _).symm.trans ((congrArg State.opTime (settleItem_unSet s w st)).trans (unSet_opTime s))
@[simp] theorem settleItem_hwQueue (s : State) (w : W32) (st : Byte) : (s.settleItem w st).hwQueue = s.hwQueue :=
  (unSet_hwQueue _).symm.trans ((congrArg State.hwQueue (settleItem_unSet s w st)).trans (unSet_hwQueue s))
@[simp] theorem settleItem_replaceDue (s : State) (w : W32) (st : Byte) : (s.settleItem w st).replaceDue = s.replaceDue :=
  (unSet_replaceDue _).symm.trans ((congrArg State.replaceDue (settleItem_unSet s w st)).trans (unSet_replaceDue s))
@[simp] theorem settleItem_free (s : State) (w : W32) (st : Byte) : (s.settleItem w st).free = s.free :=
  (unSet_free _).symm.trans ((congrArg State.free (settleItem_unSet s w st)).trans (unSet_free s))
@[simp] theorem settleItem_pending (s : State) (w : W32) (st : Byte) : (s.settleItem w st).pending = s.pending :=
  (unSet_pending _).symm.trans ((congrArg State.pending (settleItem_unSet s w st)).trans (unSet_pending s))
@[simp] theorem settleItem_state (s : State) (w : W32) (st : Byte) : (s.settleItem w st).gen.state = s.gen.state :=
  (unSet_state _).symm.trans ((congrArg (fun x => x.gen.state) (settleItem_unSet s w st)).trans (unSet_state s))

@[simp] theorem settleItem_unEnd (s : State) (w : W32) (st : Byte) : (s.settleItem w st).unEnd = s.unEnd :=
  unEnd_of_unSet (settleItem_unSet s w st)

@[simp] theorem loseItem_unEnd (s : State) (n : Nat) (w : W32) : (s.loseItem n w).unEnd = s.unEnd := by
  simp only [State.loseItem]
  split
  · rw [settleItem_unEnd, loseCpl_unEnd]
  · rfl
@[simp] theorem loseItem_part (s : State) (n : Nat) (w : W32) : (s.loseItem n w).part = s.part :=
  (unEnd_part _).symm.trans ((congrArg State.part (loseItem_unEnd s n w)).trans (unEnd_part s))
@[simp] theorem loseItem_flash (s : State) (n : Nat) (w : W32) : (s.loseItem n w).flash = s.flash :=
  (unEnd_flash _).symm.trans ((congrArg State.flash (loseItem_unEnd s n w)).trans (unEnd_flash s))
@[simp] theorem loseItem_pins (s : State) (n : Nat) (w : W32) : (s.loseItem n w).pins = s.pins :=
  (unEnd_pins _).symm.trans ((congrArg State.pins (loseItem_unEnd s n w)).trans (unEnd_pins s))
@[simp] theorem loseItem_cal (s : State) (n : Nat) (w : W32) : (s.loseItem n w).cal = s.cal :=
  (unEnd_cal _).symm.trans ((congrArg State.cal (loseItem_unEnd s n w)).trans (unEnd_cal s))
@[simp] theorem loseItem_regsShadow (s : State) (n : Nat) (w : W32) : (s.loseItem n w).regsShadow = s.regsShadow :=
  (unEnd_regsShadow _).symm.trans ((congrArg State.regsShadow (loseItem_unEnd s n w)).trans (unEnd_regsShadow s))
@[simp] theorem loseItem_asy (s : State) (n : Nat) (w : W32) : (s.loseItem n w).asy = s.asy :=
  (unEnd_asy _).symm.trans ((congrArg State.asy (loseItem_unEnd s n w)).trans (unEnd_asy s))
@[simp] theorem loseItem_clk (s : State) (n : Nat) (w : W32) : (s.loseItem n w).clk = s.clk :=
  (unEnd_clk _).symm.trans ((congrArg State.clk (loseItem_unEnd s n w)).trans (unEnd_clk s))
@[simp] theorem loseItem_pwr (s : State) (n : Nat) (w : W32) : (s.loseItem n w).pwr = s.pwr :=
  (unEnd_pwr _).symm.trans ((congrArg State.pwr (loseItem_unEnd s n w)).trans (unEnd_pwr s))
@[simp] theorem loseItem_thm (s : State) (n : Nat) (w : W32) : (s.loseItem n w).thm = s.thm :=
  (unEnd_thm _).symm.trans ((congrArg State.thm (loseItem_unEnd s n w)).trans (unEnd_thm s))
@[simp] theorem loseItem_mgmt (s : State) (n : Nat) (w : W32) : (s.loseItem n w).mgmt = s.mgmt :=
  (unEnd_mgmt _).symm.trans ((congrArg State.mgmt (loseItem_unEnd s n w)).trans (unEnd_mgmt s))
@[simp] theorem loseItem_sec (s : State) (n : Nat) (w : W32) : (s.loseItem n w).sec = s.sec :=
  (unEnd_sec _).symm.trans ((congrArg State.sec (loseItem_unEnd s n w)).trans (unEnd_sec s))
@[simp] theorem loseItem_jobs (s : State) (n : Nat) (w : W32) : (s.loseItem n w).jobs = s.jobs :=
  (unEnd_jobs _).symm.trans ((congrArg State.jobs (loseItem_unEnd s n w)).trans (unEnd_jobs s))
@[simp] theorem loseItem_mem (s : State) (n : Nat) (w : W32) : (s.loseItem n w).mem = s.mem :=
  (unEnd_mem _).symm.trans ((congrArg State.mem (loseItem_unEnd s n w)).trans (unEnd_mem s))
@[simp] theorem loseItem_heirloom (s : State) (n : Nat) (w : W32) : (s.loseItem n w).heirloom = s.heirloom :=
  (unEnd_heirloom _).symm.trans ((congrArg State.heirloom (loseItem_unEnd s n w)).trans (unEnd_heirloom s))
@[simp] theorem loseItem_hwCounts (s : State) (n : Nat) (w : W32) : (s.loseItem n w).hwCounts = s.hwCounts :=
  (unEnd_hwCounts _).symm.trans ((congrArg State.hwCounts (loseItem_unEnd s n w)).trans (unEnd_hwCounts s))
@[simp] theorem loseItem_opTime (s : State) (n : Nat) (w : W32) : (s.loseItem n w).opTime = s.opTime :=
  (unEnd_opTime _).symm.trans ((congrArg State.opTime (loseItem_unEnd s n w)).trans (unEnd_opTime s))
@[simp] theorem loseItem_hwQueue (s : State) (n : Nat) (w : W32) : (s.loseItem n w).hwQueue = s.hwQueue :=
  (unEnd_hwQueue _).symm.trans ((congrArg State.hwQueue (loseItem_unEnd s n w)).trans (unEnd_hwQueue s))
@[simp] theorem loseItem_replaceDue (s : State) (n : Nat) (w : W32) : (s.loseItem n w).replaceDue = s.replaceDue :=
  (unEnd_replaceDue _).symm.trans ((congrArg State.replaceDue (loseItem_unEnd s n w)).trans (unEnd_replaceDue s))
@[simp] theorem loseItem_free (s : State) (n : Nat) (w : W32) : (s.loseItem n w).free = s.free :=
  (unEnd_free _).symm.trans ((congrArg State.free (loseItem_unEnd s n w)).trans (unEnd_free s))
@[simp] theorem loseItem_pending (s : State) (n : Nat) (w : W32) : (s.loseItem n w).pending = s.pending :=
  (unEnd_pending _).symm.trans ((congrArg State.pending (loseItem_unEnd s n w)).trans (unEnd_pending s))
@[simp] theorem loseItem_state (s : State) (n : Nat) (w : W32) : (s.loseItem n w).gen.state = s.gen.state :=
  (unEnd_state _).symm.trans ((congrArg (fun x => x.gen.state) (loseItem_unEnd s n w)).trans (unEnd_state s))

@[simp] theorem haltEnds_unEnd (s : State) (n : Nat) : (s.haltEnds n).unEnd = s.unEnd := by
  unfold State.haltEnds
  lift_lets
  intro held s1 s2 s3 toRing works s4 s5
  have h1 : s1.unEnd = s.unEnd := rfl
  have h2 : s2.unEnd = s1.unEnd := endItems_unEnd _ _ _ _
  have h3 : s3.unEnd = s2.unEnd := foldl_keep State.unEnd _ (fun s e => by simp) _ _
  have h4 : s4.unEnd = s3.unEnd := foldl_keep State.unEnd _ (fun s e => by simp) _ _
  have h5 : s5.unEnd = s4.unEnd := foldl_keep State.unEnd _ (fun s e => by simp) _ _
  rw [settleRing_unEnd, h5, h4, h3, h2, h1]
@[simp] theorem haltEnds_part (s : State) (n : Nat) : (s.haltEnds n).part = s.part :=
  (unEnd_part _).symm.trans ((congrArg State.part (haltEnds_unEnd s n)).trans (unEnd_part s))
@[simp] theorem haltEnds_flash (s : State) (n : Nat) : (s.haltEnds n).flash = s.flash :=
  (unEnd_flash _).symm.trans ((congrArg State.flash (haltEnds_unEnd s n)).trans (unEnd_flash s))
@[simp] theorem haltEnds_pins (s : State) (n : Nat) : (s.haltEnds n).pins = s.pins :=
  (unEnd_pins _).symm.trans ((congrArg State.pins (haltEnds_unEnd s n)).trans (unEnd_pins s))
@[simp] theorem haltEnds_cal (s : State) (n : Nat) : (s.haltEnds n).cal = s.cal :=
  (unEnd_cal _).symm.trans ((congrArg State.cal (haltEnds_unEnd s n)).trans (unEnd_cal s))
@[simp] theorem haltEnds_regsShadow (s : State) (n : Nat) : (s.haltEnds n).regsShadow = s.regsShadow :=
  (unEnd_regsShadow _).symm.trans ((congrArg State.regsShadow (haltEnds_unEnd s n)).trans (unEnd_regsShadow s))
@[simp] theorem haltEnds_asy (s : State) (n : Nat) : (s.haltEnds n).asy = s.asy :=
  (unEnd_asy _).symm.trans ((congrArg State.asy (haltEnds_unEnd s n)).trans (unEnd_asy s))
@[simp] theorem haltEnds_clk (s : State) (n : Nat) : (s.haltEnds n).clk = s.clk :=
  (unEnd_clk _).symm.trans ((congrArg State.clk (haltEnds_unEnd s n)).trans (unEnd_clk s))
@[simp] theorem haltEnds_pwr (s : State) (n : Nat) : (s.haltEnds n).pwr = s.pwr :=
  (unEnd_pwr _).symm.trans ((congrArg State.pwr (haltEnds_unEnd s n)).trans (unEnd_pwr s))
@[simp] theorem haltEnds_thm (s : State) (n : Nat) : (s.haltEnds n).thm = s.thm :=
  (unEnd_thm _).symm.trans ((congrArg State.thm (haltEnds_unEnd s n)).trans (unEnd_thm s))
@[simp] theorem haltEnds_mgmt (s : State) (n : Nat) : (s.haltEnds n).mgmt = s.mgmt :=
  (unEnd_mgmt _).symm.trans ((congrArg State.mgmt (haltEnds_unEnd s n)).trans (unEnd_mgmt s))
@[simp] theorem haltEnds_sec (s : State) (n : Nat) : (s.haltEnds n).sec = s.sec :=
  (unEnd_sec _).symm.trans ((congrArg State.sec (haltEnds_unEnd s n)).trans (unEnd_sec s))
@[simp] theorem haltEnds_jobs (s : State) (n : Nat) : (s.haltEnds n).jobs = s.jobs :=
  (unEnd_jobs _).symm.trans ((congrArg State.jobs (haltEnds_unEnd s n)).trans (unEnd_jobs s))
@[simp] theorem haltEnds_mem (s : State) (n : Nat) : (s.haltEnds n).mem = s.mem :=
  (unEnd_mem _).symm.trans ((congrArg State.mem (haltEnds_unEnd s n)).trans (unEnd_mem s))
@[simp] theorem haltEnds_heirloom (s : State) (n : Nat) : (s.haltEnds n).heirloom = s.heirloom :=
  (unEnd_heirloom _).symm.trans ((congrArg State.heirloom (haltEnds_unEnd s n)).trans (unEnd_heirloom s))
@[simp] theorem haltEnds_hwCounts (s : State) (n : Nat) : (s.haltEnds n).hwCounts = s.hwCounts :=
  (unEnd_hwCounts _).symm.trans ((congrArg State.hwCounts (haltEnds_unEnd s n)).trans (unEnd_hwCounts s))
@[simp] theorem haltEnds_opTime (s : State) (n : Nat) : (s.haltEnds n).opTime = s.opTime :=
  (unEnd_opTime _).symm.trans ((congrArg State.opTime (haltEnds_unEnd s n)).trans (unEnd_opTime s))
@[simp] theorem haltEnds_hwQueue (s : State) (n : Nat) : (s.haltEnds n).hwQueue = s.hwQueue :=
  (unEnd_hwQueue _).symm.trans ((congrArg State.hwQueue (haltEnds_unEnd s n)).trans (unEnd_hwQueue s))
@[simp] theorem haltEnds_replaceDue (s : State) (n : Nat) : (s.haltEnds n).replaceDue = s.replaceDue :=
  (unEnd_replaceDue _).symm.trans ((congrArg State.replaceDue (haltEnds_unEnd s n)).trans (unEnd_replaceDue s))
@[simp] theorem haltEnds_free (s : State) (n : Nat) : (s.haltEnds n).free = s.free :=
  (unEnd_free _).symm.trans ((congrArg State.free (haltEnds_unEnd s n)).trans (unEnd_free s))
@[simp] theorem haltEnds_pending (s : State) (n : Nat) : (s.haltEnds n).pending = s.pending :=
  (unEnd_pending _).symm.trans ((congrArg State.pending (haltEnds_unEnd s n)).trans (unEnd_pending s))
@[simp] theorem haltEnds_state (s : State) (n : Nat) : (s.haltEnds n).gen.state = s.gen.state :=
  (unEnd_state _).symm.trans ((congrArg (fun x => x.gen.state) (haltEnds_unEnd s n)).trans (unEnd_state s))

theorem runHalts_unEnd (k : Nat) (s : State) : (State.runHalts k s).unEnd = s.unEnd := by
  induction k generalizing s with
  | zero => rfl
  | succ k ih =>
    simp only [State.runHalts]
    split
    · rfl
    · rw [ih, haltEnds_unEnd]
      rfl

@[simp] theorem finishHalts_unEnd (s : State)  : (s.finishHalts).unEnd = s.unEnd := by
  exact runHalts_unEnd _ _
@[simp] theorem finishHalts_part (s : State)  : (s.finishHalts).part = s.part :=
  (unEnd_part _).symm.trans ((congrArg State.part (finishHalts_unEnd s)).trans (unEnd_part s))
@[simp] theorem finishHalts_flash (s : State)  : (s.finishHalts).flash = s.flash :=
  (unEnd_flash _).symm.trans ((congrArg State.flash (finishHalts_unEnd s)).trans (unEnd_flash s))
@[simp] theorem finishHalts_pins (s : State)  : (s.finishHalts).pins = s.pins :=
  (unEnd_pins _).symm.trans ((congrArg State.pins (finishHalts_unEnd s)).trans (unEnd_pins s))
@[simp] theorem finishHalts_cal (s : State)  : (s.finishHalts).cal = s.cal :=
  (unEnd_cal _).symm.trans ((congrArg State.cal (finishHalts_unEnd s)).trans (unEnd_cal s))
@[simp] theorem finishHalts_regsShadow (s : State)  : (s.finishHalts).regsShadow = s.regsShadow :=
  (unEnd_regsShadow _).symm.trans ((congrArg State.regsShadow (finishHalts_unEnd s)).trans (unEnd_regsShadow s))
@[simp] theorem finishHalts_asy (s : State)  : (s.finishHalts).asy = s.asy :=
  (unEnd_asy _).symm.trans ((congrArg State.asy (finishHalts_unEnd s)).trans (unEnd_asy s))
@[simp] theorem finishHalts_clk (s : State)  : (s.finishHalts).clk = s.clk :=
  (unEnd_clk _).symm.trans ((congrArg State.clk (finishHalts_unEnd s)).trans (unEnd_clk s))
@[simp] theorem finishHalts_pwr (s : State)  : (s.finishHalts).pwr = s.pwr :=
  (unEnd_pwr _).symm.trans ((congrArg State.pwr (finishHalts_unEnd s)).trans (unEnd_pwr s))
@[simp] theorem finishHalts_thm (s : State)  : (s.finishHalts).thm = s.thm :=
  (unEnd_thm _).symm.trans ((congrArg State.thm (finishHalts_unEnd s)).trans (unEnd_thm s))
@[simp] theorem finishHalts_mgmt (s : State)  : (s.finishHalts).mgmt = s.mgmt :=
  (unEnd_mgmt _).symm.trans ((congrArg State.mgmt (finishHalts_unEnd s)).trans (unEnd_mgmt s))
@[simp] theorem finishHalts_sec (s : State)  : (s.finishHalts).sec = s.sec :=
  (unEnd_sec _).symm.trans ((congrArg State.sec (finishHalts_unEnd s)).trans (unEnd_sec s))
@[simp] theorem finishHalts_jobs (s : State)  : (s.finishHalts).jobs = s.jobs :=
  (unEnd_jobs _).symm.trans ((congrArg State.jobs (finishHalts_unEnd s)).trans (unEnd_jobs s))
@[simp] theorem finishHalts_mem (s : State)  : (s.finishHalts).mem = s.mem :=
  (unEnd_mem _).symm.trans ((congrArg State.mem (finishHalts_unEnd s)).trans (unEnd_mem s))
@[simp] theorem finishHalts_heirloom (s : State)  : (s.finishHalts).heirloom = s.heirloom :=
  (unEnd_heirloom _).symm.trans ((congrArg State.heirloom (finishHalts_unEnd s)).trans (unEnd_heirloom s))
@[simp] theorem finishHalts_hwCounts (s : State)  : (s.finishHalts).hwCounts = s.hwCounts :=
  (unEnd_hwCounts _).symm.trans ((congrArg State.hwCounts (finishHalts_unEnd s)).trans (unEnd_hwCounts s))
@[simp] theorem finishHalts_opTime (s : State)  : (s.finishHalts).opTime = s.opTime :=
  (unEnd_opTime _).symm.trans ((congrArg State.opTime (finishHalts_unEnd s)).trans (unEnd_opTime s))
@[simp] theorem finishHalts_hwQueue (s : State)  : (s.finishHalts).hwQueue = s.hwQueue :=
  (unEnd_hwQueue _).symm.trans ((congrArg State.hwQueue (finishHalts_unEnd s)).trans (unEnd_hwQueue s))
@[simp] theorem finishHalts_replaceDue (s : State)  : (s.finishHalts).replaceDue = s.replaceDue :=
  (unEnd_replaceDue _).symm.trans ((congrArg State.replaceDue (finishHalts_unEnd s)).trans (unEnd_replaceDue s))
@[simp] theorem finishHalts_free (s : State)  : (s.finishHalts).free = s.free :=
  (unEnd_free _).symm.trans ((congrArg State.free (finishHalts_unEnd s)).trans (unEnd_free s))
@[simp] theorem finishHalts_pending (s : State)  : (s.finishHalts).pending = s.pending :=
  (unEnd_pending _).symm.trans ((congrArg State.pending (finishHalts_unEnd s)).trans (unEnd_pending s))
@[simp] theorem finishHalts_state (s : State)  : (s.finishHalts).gen.state = s.gen.state :=
  (unEnd_state _).symm.trans ((congrArg (fun x => x.gen.state) (finishHalts_unEnd s)).trans (unEnd_state s))

@[simp] theorem ringHalt_unEnd (s : State) (n c : Nat) : (s.ringHalt n c).unEnd = s.unEnd := by
  simp [State.ringHalt]
@[simp] theorem ringHalt_part (s : State) (n c : Nat) : (s.ringHalt n c).part = s.part :=
  (unEnd_part _).symm.trans ((congrArg State.part (ringHalt_unEnd s n c)).trans (unEnd_part s))
@[simp] theorem ringHalt_flash (s : State) (n c : Nat) : (s.ringHalt n c).flash = s.flash :=
  (unEnd_flash _).symm.trans ((congrArg State.flash (ringHalt_unEnd s n c)).trans (unEnd_flash s))
@[simp] theorem ringHalt_pins (s : State) (n c : Nat) : (s.ringHalt n c).pins = s.pins :=
  (unEnd_pins _).symm.trans ((congrArg State.pins (ringHalt_unEnd s n c)).trans (unEnd_pins s))
@[simp] theorem ringHalt_cal (s : State) (n c : Nat) : (s.ringHalt n c).cal = s.cal :=
  (unEnd_cal _).symm.trans ((congrArg State.cal (ringHalt_unEnd s n c)).trans (unEnd_cal s))
@[simp] theorem ringHalt_regsShadow (s : State) (n c : Nat) : (s.ringHalt n c).regsShadow = s.regsShadow :=
  (unEnd_regsShadow _).symm.trans ((congrArg State.regsShadow (ringHalt_unEnd s n c)).trans (unEnd_regsShadow s))
@[simp] theorem ringHalt_asy (s : State) (n c : Nat) : (s.ringHalt n c).asy = s.asy :=
  (unEnd_asy _).symm.trans ((congrArg State.asy (ringHalt_unEnd s n c)).trans (unEnd_asy s))
@[simp] theorem ringHalt_clk (s : State) (n c : Nat) : (s.ringHalt n c).clk = s.clk :=
  (unEnd_clk _).symm.trans ((congrArg State.clk (ringHalt_unEnd s n c)).trans (unEnd_clk s))
@[simp] theorem ringHalt_pwr (s : State) (n c : Nat) : (s.ringHalt n c).pwr = s.pwr :=
  (unEnd_pwr _).symm.trans ((congrArg State.pwr (ringHalt_unEnd s n c)).trans (unEnd_pwr s))
@[simp] theorem ringHalt_thm (s : State) (n c : Nat) : (s.ringHalt n c).thm = s.thm :=
  (unEnd_thm _).symm.trans ((congrArg State.thm (ringHalt_unEnd s n c)).trans (unEnd_thm s))
@[simp] theorem ringHalt_mgmt (s : State) (n c : Nat) : (s.ringHalt n c).mgmt = s.mgmt :=
  (unEnd_mgmt _).symm.trans ((congrArg State.mgmt (ringHalt_unEnd s n c)).trans (unEnd_mgmt s))
@[simp] theorem ringHalt_sec (s : State) (n c : Nat) : (s.ringHalt n c).sec = s.sec :=
  (unEnd_sec _).symm.trans ((congrArg State.sec (ringHalt_unEnd s n c)).trans (unEnd_sec s))
@[simp] theorem ringHalt_jobs (s : State) (n c : Nat) : (s.ringHalt n c).jobs = s.jobs :=
  (unEnd_jobs _).symm.trans ((congrArg State.jobs (ringHalt_unEnd s n c)).trans (unEnd_jobs s))
@[simp] theorem ringHalt_mem (s : State) (n c : Nat) : (s.ringHalt n c).mem = s.mem :=
  (unEnd_mem _).symm.trans ((congrArg State.mem (ringHalt_unEnd s n c)).trans (unEnd_mem s))
@[simp] theorem ringHalt_heirloom (s : State) (n c : Nat) : (s.ringHalt n c).heirloom = s.heirloom :=
  (unEnd_heirloom _).symm.trans ((congrArg State.heirloom (ringHalt_unEnd s n c)).trans (unEnd_heirloom s))
@[simp] theorem ringHalt_hwCounts (s : State) (n c : Nat) : (s.ringHalt n c).hwCounts = s.hwCounts :=
  (unEnd_hwCounts _).symm.trans ((congrArg State.hwCounts (ringHalt_unEnd s n c)).trans (unEnd_hwCounts s))
@[simp] theorem ringHalt_opTime (s : State) (n c : Nat) : (s.ringHalt n c).opTime = s.opTime :=
  (unEnd_opTime _).symm.trans ((congrArg State.opTime (ringHalt_unEnd s n c)).trans (unEnd_opTime s))
@[simp] theorem ringHalt_hwQueue (s : State) (n c : Nat) : (s.ringHalt n c).hwQueue = s.hwQueue :=
  (unEnd_hwQueue _).symm.trans ((congrArg State.hwQueue (ringHalt_unEnd s n c)).trans (unEnd_hwQueue s))
@[simp] theorem ringHalt_replaceDue (s : State) (n c : Nat) : (s.ringHalt n c).replaceDue = s.replaceDue :=
  (unEnd_replaceDue _).symm.trans ((congrArg State.replaceDue (ringHalt_unEnd s n c)).trans (unEnd_replaceDue s))
@[simp] theorem ringHalt_free (s : State) (n c : Nat) : (s.ringHalt n c).free = s.free :=
  (unEnd_free _).symm.trans ((congrArg State.free (ringHalt_unEnd s n c)).trans (unEnd_free s))
@[simp] theorem ringHalt_pending (s : State) (n c : Nat) : (s.ringHalt n c).pending = s.pending :=
  (unEnd_pending _).symm.trans ((congrArg State.pending (ringHalt_unEnd s n c)).trans (unEnd_pending s))
@[simp] theorem ringHalt_state (s : State) (n c : Nat) : (s.ringHalt n c).gen.state = s.gen.state :=
  (unEnd_state _).symm.trans ((congrArg (fun x => x.gen.state) (ringHalt_unEnd s n c)).trans (unEnd_state s))

/-- The state less the GEN_ registers, the rings and messages. -/
def State.unGen (s : State) : State :=
  { s with gen := {}, rng := {}, out := [] }

theorem unGen_part (s : State) : s.unGen.part = s.part := rfl
theorem unGen_flash (s : State) : s.unGen.flash = s.flash := rfl
theorem unGen_pins (s : State) : s.unGen.pins = s.pins := rfl
theorem unGen_cal (s : State) : s.unGen.cal = s.cal := rfl
theorem unGen_regsShadow (s : State) : s.unGen.regsShadow = s.regsShadow := rfl
theorem unGen_asy (s : State) : s.unGen.asy = s.asy := rfl
theorem unGen_clk (s : State) : s.unGen.clk = s.clk := rfl
theorem unGen_pwr (s : State) : s.unGen.pwr = s.pwr := rfl
theorem unGen_thm (s : State) : s.unGen.thm = s.thm := rfl
theorem unGen_alm (s : State) : s.unGen.alm = s.alm := rfl
theorem unGen_lkt (s : State) : s.unGen.lkt = s.lkt := rfl
theorem unGen_fst (s : State) : s.unGen.fst = s.fst := rfl
theorem unGen_lou (s : State) : s.unGen.lou = s.lou := rfl
theorem unGen_cxl (s : State) : s.unGen.cxl = s.cxl := rfl
theorem unGen_cls (s : State) : s.unGen.cls = s.cls := rfl
theorem unGen_mgmt (s : State) : s.unGen.mgmt = s.mgmt := rfl
theorem unGen_sec (s : State) : s.unGen.sec = s.sec := rfl
theorem unGen_cores (s : State) : s.unGen.cores = s.cores := rfl
theorem unGen_fields (s : State) : s.unGen.fields = s.fields := rfl
theorem unGen_jobs (s : State) : s.unGen.jobs = s.jobs := rfl
theorem unGen_strands (s : State) : s.unGen.strands = s.strands := rfl
theorem unGen_mem (s : State) : s.unGen.mem = s.mem := rfl
theorem unGen_heirloom (s : State) : s.unGen.heirloom = s.heirloom := rfl
theorem unGen_hwCounts (s : State) : s.unGen.hwCounts = s.hwCounts := rfl
theorem unGen_opTime (s : State) : s.unGen.opTime = s.opTime := rfl
theorem unGen_hwQueue (s : State) : s.unGen.hwQueue = s.hwQueue := rfl
theorem unGen_replaceDue (s : State) : s.unGen.replaceDue = s.replaceDue := rfl
theorem unGen_free (s : State) : s.unGen.free = s.free := rfl
theorem unGen_pending (s : State) : s.unGen.pending = s.pending := rfl

@[simp] theorem event_unGen (s : State) (i : Nat) : (s.event i).unGen = s.unGen := by
  simp [State.unGen]

@[simp] theorem enter_unGen (s : State) (d : DevState) : (s.enter d).unGen = s.unGen := by
  simp only [State.enter]
  repeat' split
  · rfl
  · rw [event_unGen]; rfl
  · show (State.event _ 0).unGen = _
    rw [event_unGen]; rfl
@[simp] theorem enter_part (s : State) (d : DevState) : (s.enter d).part = s.part :=
  (unGen_part _).symm.trans ((congrArg State.part (enter_unGen s d)).trans (unGen_part s))
@[simp] theorem enter_flash (s : State) (d : DevState) : (s.enter d).flash = s.flash :=
  (unGen_flash _).symm.trans ((congrArg State.flash (enter_unGen s d)).trans (unGen_flash s))
@[simp] theorem enter_pins (s : State) (d : DevState) : (s.enter d).pins = s.pins :=
  (unGen_pins _).symm.trans ((congrArg State.pins (enter_unGen s d)).trans (unGen_pins s))
@[simp] theorem enter_cal (s : State) (d : DevState) : (s.enter d).cal = s.cal :=
  (unGen_cal _).symm.trans ((congrArg State.cal (enter_unGen s d)).trans (unGen_cal s))
@[simp] theorem enter_regsShadow (s : State) (d : DevState) : (s.enter d).regsShadow = s.regsShadow :=
  (unGen_regsShadow _).symm.trans ((congrArg State.regsShadow (enter_unGen s d)).trans (unGen_regsShadow s))
@[simp] theorem enter_asy (s : State) (d : DevState) : (s.enter d).asy = s.asy :=
  (unGen_asy _).symm.trans ((congrArg State.asy (enter_unGen s d)).trans (unGen_asy s))
@[simp] theorem enter_clk (s : State) (d : DevState) : (s.enter d).clk = s.clk :=
  (unGen_clk _).symm.trans ((congrArg State.clk (enter_unGen s d)).trans (unGen_clk s))
@[simp] theorem enter_pwr (s : State) (d : DevState) : (s.enter d).pwr = s.pwr :=
  (unGen_pwr _).symm.trans ((congrArg State.pwr (enter_unGen s d)).trans (unGen_pwr s))
@[simp] theorem enter_thm (s : State) (d : DevState) : (s.enter d).thm = s.thm :=
  (unGen_thm _).symm.trans ((congrArg State.thm (enter_unGen s d)).trans (unGen_thm s))
@[simp] theorem enter_alm (s : State) (d : DevState) : (s.enter d).alm = s.alm :=
  (unGen_alm _).symm.trans ((congrArg State.alm (enter_unGen s d)).trans (unGen_alm s))
@[simp] theorem enter_lkt (s : State) (d : DevState) : (s.enter d).lkt = s.lkt :=
  (unGen_lkt _).symm.trans ((congrArg State.lkt (enter_unGen s d)).trans (unGen_lkt s))
@[simp] theorem enter_fst (s : State) (d : DevState) : (s.enter d).fst = s.fst :=
  (unGen_fst _).symm.trans ((congrArg State.fst (enter_unGen s d)).trans (unGen_fst s))
@[simp] theorem enter_lou (s : State) (d : DevState) : (s.enter d).lou = s.lou :=
  (unGen_lou _).symm.trans ((congrArg State.lou (enter_unGen s d)).trans (unGen_lou s))
@[simp] theorem enter_cxl (s : State) (d : DevState) : (s.enter d).cxl = s.cxl :=
  (unGen_cxl _).symm.trans ((congrArg State.cxl (enter_unGen s d)).trans (unGen_cxl s))
@[simp] theorem enter_cls (s : State) (d : DevState) : (s.enter d).cls = s.cls :=
  (unGen_cls _).symm.trans ((congrArg State.cls (enter_unGen s d)).trans (unGen_cls s))
@[simp] theorem enter_mgmt (s : State) (d : DevState) : (s.enter d).mgmt = s.mgmt :=
  (unGen_mgmt _).symm.trans ((congrArg State.mgmt (enter_unGen s d)).trans (unGen_mgmt s))
@[simp] theorem enter_sec (s : State) (d : DevState) : (s.enter d).sec = s.sec :=
  (unGen_sec _).symm.trans ((congrArg State.sec (enter_unGen s d)).trans (unGen_sec s))
@[simp] theorem enter_cores (s : State) (d : DevState) : (s.enter d).cores = s.cores :=
  (unGen_cores _).symm.trans ((congrArg State.cores (enter_unGen s d)).trans (unGen_cores s))
@[simp] theorem enter_fields (s : State) (d : DevState) : (s.enter d).fields = s.fields :=
  (unGen_fields _).symm.trans ((congrArg State.fields (enter_unGen s d)).trans (unGen_fields s))
@[simp] theorem enter_jobs (s : State) (d : DevState) : (s.enter d).jobs = s.jobs :=
  (unGen_jobs _).symm.trans ((congrArg State.jobs (enter_unGen s d)).trans (unGen_jobs s))
@[simp] theorem enter_strands (s : State) (d : DevState) : (s.enter d).strands = s.strands :=
  (unGen_strands _).symm.trans ((congrArg State.strands (enter_unGen s d)).trans (unGen_strands s))
@[simp] theorem enter_mem (s : State) (d : DevState) : (s.enter d).mem = s.mem :=
  (unGen_mem _).symm.trans ((congrArg State.mem (enter_unGen s d)).trans (unGen_mem s))
@[simp] theorem enter_heirloom (s : State) (d : DevState) : (s.enter d).heirloom = s.heirloom :=
  (unGen_heirloom _).symm.trans ((congrArg State.heirloom (enter_unGen s d)).trans (unGen_heirloom s))
@[simp] theorem enter_hwCounts (s : State) (d : DevState) : (s.enter d).hwCounts = s.hwCounts :=
  (unGen_hwCounts _).symm.trans ((congrArg State.hwCounts (enter_unGen s d)).trans (unGen_hwCounts s))
@[simp] theorem enter_opTime (s : State) (d : DevState) : (s.enter d).opTime = s.opTime :=
  (unGen_opTime _).symm.trans ((congrArg State.opTime (enter_unGen s d)).trans (unGen_opTime s))
@[simp] theorem enter_hwQueue (s : State) (d : DevState) : (s.enter d).hwQueue = s.hwQueue :=
  (unGen_hwQueue _).symm.trans ((congrArg State.hwQueue (enter_unGen s d)).trans (unGen_hwQueue s))
@[simp] theorem enter_replaceDue (s : State) (d : DevState) : (s.enter d).replaceDue = s.replaceDue :=
  (unGen_replaceDue _).symm.trans ((congrArg State.replaceDue (enter_unGen s d)).trans (unGen_replaceDue s))
@[simp] theorem enter_free (s : State) (d : DevState) : (s.enter d).free = s.free :=
  (unGen_free _).symm.trans ((congrArg State.free (enter_unGen s d)).trans (unGen_free s))
@[simp] theorem enter_pending (s : State) (d : DevState) : (s.enter d).pending = s.pending :=
  (unGen_pending _).symm.trans ((congrArg State.pending (enter_unGen s d)).trans (unGen_pending s))

@[simp] theorem refresh_unGen (s : State)  : (s.refresh).unGen = s.unGen := by
  simp only [State.refresh]
  split <;> simp
@[simp] theorem refresh_part (s : State)  : (s.refresh).part = s.part :=
  (unGen_part _).symm.trans ((congrArg State.part (refresh_unGen s)).trans (unGen_part s))
@[simp] theorem refresh_flash (s : State)  : (s.refresh).flash = s.flash :=
  (unGen_flash _).symm.trans ((congrArg State.flash (refresh_unGen s)).trans (unGen_flash s))
@[simp] theorem refresh_pins (s : State)  : (s.refresh).pins = s.pins :=
  (unGen_pins _).symm.trans ((congrArg State.pins (refresh_unGen s)).trans (unGen_pins s))
@[simp] theorem refresh_cal (s : State)  : (s.refresh).cal = s.cal :=
  (unGen_cal _).symm.trans ((congrArg State.cal (refresh_unGen s)).trans (unGen_cal s))
@[simp] theorem refresh_regsShadow (s : State)  : (s.refresh).regsShadow = s.regsShadow :=
  (unGen_regsShadow _).symm.trans ((congrArg State.regsShadow (refresh_unGen s)).trans (unGen_regsShadow s))
@[simp] theorem refresh_asy (s : State)  : (s.refresh).asy = s.asy :=
  (unGen_asy _).symm.trans ((congrArg State.asy (refresh_unGen s)).trans (unGen_asy s))
@[simp] theorem refresh_clk (s : State)  : (s.refresh).clk = s.clk :=
  (unGen_clk _).symm.trans ((congrArg State.clk (refresh_unGen s)).trans (unGen_clk s))
@[simp] theorem refresh_pwr (s : State)  : (s.refresh).pwr = s.pwr :=
  (unGen_pwr _).symm.trans ((congrArg State.pwr (refresh_unGen s)).trans (unGen_pwr s))
@[simp] theorem refresh_thm (s : State)  : (s.refresh).thm = s.thm :=
  (unGen_thm _).symm.trans ((congrArg State.thm (refresh_unGen s)).trans (unGen_thm s))
@[simp] theorem refresh_alm (s : State)  : (s.refresh).alm = s.alm :=
  (unGen_alm _).symm.trans ((congrArg State.alm (refresh_unGen s)).trans (unGen_alm s))
@[simp] theorem refresh_lkt (s : State)  : (s.refresh).lkt = s.lkt :=
  (unGen_lkt _).symm.trans ((congrArg State.lkt (refresh_unGen s)).trans (unGen_lkt s))
@[simp] theorem refresh_fst (s : State)  : (s.refresh).fst = s.fst :=
  (unGen_fst _).symm.trans ((congrArg State.fst (refresh_unGen s)).trans (unGen_fst s))
@[simp] theorem refresh_lou (s : State)  : (s.refresh).lou = s.lou :=
  (unGen_lou _).symm.trans ((congrArg State.lou (refresh_unGen s)).trans (unGen_lou s))
@[simp] theorem refresh_cxl (s : State)  : (s.refresh).cxl = s.cxl :=
  (unGen_cxl _).symm.trans ((congrArg State.cxl (refresh_unGen s)).trans (unGen_cxl s))
@[simp] theorem refresh_cls (s : State)  : (s.refresh).cls = s.cls :=
  (unGen_cls _).symm.trans ((congrArg State.cls (refresh_unGen s)).trans (unGen_cls s))
@[simp] theorem refresh_mgmt (s : State)  : (s.refresh).mgmt = s.mgmt :=
  (unGen_mgmt _).symm.trans ((congrArg State.mgmt (refresh_unGen s)).trans (unGen_mgmt s))
@[simp] theorem refresh_sec (s : State)  : (s.refresh).sec = s.sec :=
  (unGen_sec _).symm.trans ((congrArg State.sec (refresh_unGen s)).trans (unGen_sec s))
@[simp] theorem refresh_cores (s : State)  : (s.refresh).cores = s.cores :=
  (unGen_cores _).symm.trans ((congrArg State.cores (refresh_unGen s)).trans (unGen_cores s))
@[simp] theorem refresh_fields (s : State)  : (s.refresh).fields = s.fields :=
  (unGen_fields _).symm.trans ((congrArg State.fields (refresh_unGen s)).trans (unGen_fields s))
@[simp] theorem refresh_jobs (s : State)  : (s.refresh).jobs = s.jobs :=
  (unGen_jobs _).symm.trans ((congrArg State.jobs (refresh_unGen s)).trans (unGen_jobs s))
@[simp] theorem refresh_strands (s : State)  : (s.refresh).strands = s.strands :=
  (unGen_strands _).symm.trans ((congrArg State.strands (refresh_unGen s)).trans (unGen_strands s))
@[simp] theorem refresh_mem (s : State)  : (s.refresh).mem = s.mem :=
  (unGen_mem _).symm.trans ((congrArg State.mem (refresh_unGen s)).trans (unGen_mem s))
@[simp] theorem refresh_heirloom (s : State)  : (s.refresh).heirloom = s.heirloom :=
  (unGen_heirloom _).symm.trans ((congrArg State.heirloom (refresh_unGen s)).trans (unGen_heirloom s))
@[simp] theorem refresh_hwCounts (s : State)  : (s.refresh).hwCounts = s.hwCounts :=
  (unGen_hwCounts _).symm.trans ((congrArg State.hwCounts (refresh_unGen s)).trans (unGen_hwCounts s))
@[simp] theorem refresh_opTime (s : State)  : (s.refresh).opTime = s.opTime :=
  (unGen_opTime _).symm.trans ((congrArg State.opTime (refresh_unGen s)).trans (unGen_opTime s))
@[simp] theorem refresh_hwQueue (s : State)  : (s.refresh).hwQueue = s.hwQueue :=
  (unGen_hwQueue _).symm.trans ((congrArg State.hwQueue (refresh_unGen s)).trans (unGen_hwQueue s))
@[simp] theorem refresh_replaceDue (s : State)  : (s.refresh).replaceDue = s.replaceDue :=
  (unGen_replaceDue _).symm.trans ((congrArg State.replaceDue (refresh_unGen s)).trans (unGen_replaceDue s))
@[simp] theorem refresh_free (s : State)  : (s.refresh).free = s.free :=
  (unGen_free _).symm.trans ((congrArg State.free (refresh_unGen s)).trans (unGen_free s))
@[simp] theorem refresh_pending (s : State)  : (s.refresh).pending = s.pending :=
  (unGen_pending _).symm.trans ((congrArg State.pending (refresh_unGen s)).trans (unGen_pending s))


end Sys2Proof.Machine
end

