-- ==== Sys2Proof/Laws/Boundary.lean ====
section
/-! SUPPORT. What a job boundary and the loss of a core leave alone: jobs, strands, items, Locket, Feast, the memories behind them and
every block but GEN_, PWR_ and the rings that an interrupt reaches. -/

namespace Sys2Proof.Machine

/-- The state less cores, power regions, GEN_ registers, Heirloom and what a device event reaches. -/
def State.unCore (s : State) : State :=
  { s with cores := [], pwr := {}, gen := {}, flash := {}, heirloom := [], hwQueue := [], hwCounts := [], replaceDue := [], out := [], rng := {}, free := 0 }

theorem unCore_part (s : State) : s.unCore.part = s.part := rfl
theorem unCore_pins (s : State) : s.unCore.pins = s.pins := rfl
theorem unCore_cal (s : State) : s.unCore.cal = s.cal := rfl
theorem unCore_regsShadow (s : State) : s.unCore.regsShadow = s.regsShadow := rfl
theorem unCore_asy (s : State) : s.unCore.asy = s.asy := rfl
theorem unCore_clk (s : State) : s.unCore.clk = s.clk := rfl
theorem unCore_thm (s : State) : s.unCore.thm = s.thm := rfl
theorem unCore_alm (s : State) : s.unCore.alm = s.alm := rfl
theorem unCore_lkt (s : State) : s.unCore.lkt = s.lkt := rfl
theorem unCore_fst (s : State) : s.unCore.fst = s.fst := rfl
theorem unCore_lou (s : State) : s.unCore.lou = s.lou := rfl
theorem unCore_cxl (s : State) : s.unCore.cxl = s.cxl := rfl
theorem unCore_cls (s : State) : s.unCore.cls = s.cls := rfl
theorem unCore_mgmt (s : State) : s.unCore.mgmt = s.mgmt := rfl
theorem unCore_sec (s : State) : s.unCore.sec = s.sec := rfl
theorem unCore_fields (s : State) : s.unCore.fields = s.fields := rfl
theorem unCore_jobs (s : State) : s.unCore.jobs = s.jobs := rfl
theorem unCore_strands (s : State) : s.unCore.strands = s.strands := rfl
theorem unCore_mem (s : State) : s.unCore.mem = s.mem := rfl
theorem unCore_opTime (s : State) : s.unCore.opTime = s.opTime := rfl
theorem unCore_pending (s : State) : s.unCore.pending = s.pending := rfl

@[simp] theorem setCore_unCore (s : State) (n : Nat) (v : CoreSt) : (s.setCore n v).unCore = s.unCore := by
  rfl

@[simp] theorem modCore_unCore (s : State) (n : Nat) (f : CoreSt → CoreSt) : (s.modCore n f).unCore = s.unCore := by
  rfl

@[simp] theorem setRegion_unCore (s : State) (n : Nat) (v : RegionSt) : (s.setRegion n v).unCore = s.unCore := by
  rfl

@[simp] theorem modRegion_unCore (s : State) (n : Nat) (f : RegionSt → RegionSt) : (s.modRegion n f).unCore = s.unCore := by
  rfl

@[simp] theorem put_unCore (s : State) (o : Output) : (s.put o).unCore = s.unCore := by
  rfl

@[simp] theorem event_unCore (s : State) (i : Nat) : (s.event i).unCore = s.unCore := by
  simp [State.unCore]

@[simp] theorem publish_unCore (s : State) : (s.publish).unCore = s.unCore := by
  rfl
@[simp] theorem publish_part (s : State) : (s.publish).part = s.part :=
  (unCore_part _).symm.trans ((congrArg State.part (publish_unCore s)).trans (unCore_part s))
@[simp] theorem publish_pins (s : State) : (s.publish).pins = s.pins :=
  (unCore_pins _).symm.trans ((congrArg State.pins (publish_unCore s)).trans (unCore_pins s))
@[simp] theorem publish_cal (s : State) : (s.publish).cal = s.cal :=
  (unCore_cal _).symm.trans ((congrArg State.cal (publish_unCore s)).trans (unCore_cal s))
@[simp] theorem publish_regsShadow (s : State) : (s.publish).regsShadow = s.regsShadow :=
  (unCore_regsShadow _).symm.trans ((congrArg State.regsShadow (publish_unCore s)).trans (unCore_regsShadow s))
@[simp] theorem publish_asy (s : State) : (s.publish).asy = s.asy :=
  (unCore_asy _).symm.trans ((congrArg State.asy (publish_unCore s)).trans (unCore_asy s))
@[simp] theorem publish_clk (s : State) : (s.publish).clk = s.clk :=
  (unCore_clk _).symm.trans ((congrArg State.clk (publish_unCore s)).trans (unCore_clk s))
@[simp] theorem publish_thm (s : State) : (s.publish).thm = s.thm :=
  (unCore_thm _).symm.trans ((congrArg State.thm (publish_unCore s)).trans (unCore_thm s))
@[simp] theorem publish_alm (s : State) : (s.publish).alm = s.alm :=
  (unCore_alm _).symm.trans ((congrArg State.alm (publish_unCore s)).trans (unCore_alm s))
@[simp] theorem publish_lkt (s : State) : (s.publish).lkt = s.lkt :=
  (unCore_lkt _).symm.trans ((congrArg State.lkt (publish_unCore s)).trans (unCore_lkt s))
@[simp] theorem publish_fst (s : State) : (s.publish).fst = s.fst :=
  (unCore_fst _).symm.trans ((congrArg State.fst (publish_unCore s)).trans (unCore_fst s))
@[simp] theorem publish_lou (s : State) : (s.publish).lou = s.lou :=
  (unCore_lou _).symm.trans ((congrArg State.lou (publish_unCore s)).trans (unCore_lou s))
@[simp] theorem publish_cxl (s : State) : (s.publish).cxl = s.cxl :=
  (unCore_cxl _).symm.trans ((congrArg State.cxl (publish_unCore s)).trans (unCore_cxl s))
@[simp] theorem publish_cls (s : State) : (s.publish).cls = s.cls :=
  (unCore_cls _).symm.trans ((congrArg State.cls (publish_unCore s)).trans (unCore_cls s))
@[simp] theorem publish_mgmt (s : State) : (s.publish).mgmt = s.mgmt :=
  (unCore_mgmt _).symm.trans ((congrArg State.mgmt (publish_unCore s)).trans (unCore_mgmt s))
@[simp] theorem publish_sec (s : State) : (s.publish).sec = s.sec :=
  (unCore_sec _).symm.trans ((congrArg State.sec (publish_unCore s)).trans (unCore_sec s))
@[simp] theorem publish_fields (s : State) : (s.publish).fields = s.fields :=
  (unCore_fields _).symm.trans ((congrArg State.fields (publish_unCore s)).trans (unCore_fields s))
@[simp] theorem publish_jobs (s : State) : (s.publish).jobs = s.jobs :=
  (unCore_jobs _).symm.trans ((congrArg State.jobs (publish_unCore s)).trans (unCore_jobs s))
@[simp] theorem publish_strands (s : State) : (s.publish).strands = s.strands :=
  (unCore_strands _).symm.trans ((congrArg State.strands (publish_unCore s)).trans (unCore_strands s))
@[simp] theorem publish_mem (s : State) : (s.publish).mem = s.mem :=
  (unCore_mem _).symm.trans ((congrArg State.mem (publish_unCore s)).trans (unCore_mem s))
@[simp] theorem publish_opTime (s : State) : (s.publish).opTime = s.opTime :=
  (unCore_opTime _).symm.trans ((congrArg State.opTime (publish_unCore s)).trans (unCore_opTime s))
@[simp] theorem publish_pending (s : State) : (s.publish).pending = s.pending :=
  (unCore_pending _).symm.trans ((congrArg State.pending (publish_unCore s)).trans (unCore_pending s))

@[simp] theorem setHeir_unCore (s : State) (r : HRec) : (s.setHeir r).unCore = s.unCore := by
  simp only [State.setHeir]
  repeat' split
  all_goals rfl
@[simp] theorem setHeir_part (s : State) (r : HRec) : (s.setHeir r).part = s.part :=
  (unCore_part _).symm.trans ((congrArg State.part (setHeir_unCore s r)).trans (unCore_part s))
@[simp] theorem setHeir_pins (s : State) (r : HRec) : (s.setHeir r).pins = s.pins :=
  (unCore_pins _).symm.trans ((congrArg State.pins (setHeir_unCore s r)).trans (unCore_pins s))
@[simp] theorem setHeir_cal (s : State) (r : HRec) : (s.setHeir r).cal = s.cal :=
  (unCore_cal _).symm.trans ((congrArg State.cal (setHeir_unCore s r)).trans (unCore_cal s))
@[simp] theorem setHeir_regsShadow (s : State) (r : HRec) : (s.setHeir r).regsShadow = s.regsShadow :=
  (unCore_regsShadow _).symm.trans ((congrArg State.regsShadow (setHeir_unCore s r)).trans (unCore_regsShadow s))
@[simp] theorem setHeir_asy (s : State) (r : HRec) : (s.setHeir r).asy = s.asy :=
  (unCore_asy _).symm.trans ((congrArg State.asy (setHeir_unCore s r)).trans (unCore_asy s))
@[simp] theorem setHeir_clk (s : State) (r : HRec) : (s.setHeir r).clk = s.clk :=
  (unCore_clk _).symm.trans ((congrArg State.clk (setHeir_unCore s r)).trans (unCore_clk s))
@[simp] theorem setHeir_thm (s : State) (r : HRec) : (s.setHeir r).thm = s.thm :=
  (unCore_thm _).symm.trans ((congrArg State.thm (setHeir_unCore s r)).trans (unCore_thm s))
@[simp] theorem setHeir_alm (s : State) (r : HRec) : (s.setHeir r).alm = s.alm :=
  (unCore_alm _).symm.trans ((congrArg State.alm (setHeir_unCore s r)).trans (unCore_alm s))
@[simp] theorem setHeir_lkt (s : State) (r : HRec) : (s.setHeir r).lkt = s.lkt :=
  (unCore_lkt _).symm.trans ((congrArg State.lkt (setHeir_unCore s r)).trans (unCore_lkt s))
@[simp] theorem setHeir_fst (s : State) (r : HRec) : (s.setHeir r).fst = s.fst :=
  (unCore_fst _).symm.trans ((congrArg State.fst (setHeir_unCore s r)).trans (unCore_fst s))
@[simp] theorem setHeir_lou (s : State) (r : HRec) : (s.setHeir r).lou = s.lou :=
  (unCore_lou _).symm.trans ((congrArg State.lou (setHeir_unCore s r)).trans (unCore_lou s))
@[simp] theorem setHeir_cxl (s : State) (r : HRec) : (s.setHeir r).cxl = s.cxl :=
  (unCore_cxl _).symm.trans ((congrArg State.cxl (setHeir_unCore s r)).trans (unCore_cxl s))
@[simp] theorem setHeir_cls (s : State) (r : HRec) : (s.setHeir r).cls = s.cls :=
  (unCore_cls _).symm.trans ((congrArg State.cls (setHeir_unCore s r)).trans (unCore_cls s))
@[simp] theorem setHeir_mgmt (s : State) (r : HRec) : (s.setHeir r).mgmt = s.mgmt :=
  (unCore_mgmt _).symm.trans ((congrArg State.mgmt (setHeir_unCore s r)).trans (unCore_mgmt s))
@[simp] theorem setHeir_sec (s : State) (r : HRec) : (s.setHeir r).sec = s.sec :=
  (unCore_sec _).symm.trans ((congrArg State.sec (setHeir_unCore s r)).trans (unCore_sec s))
@[simp] theorem setHeir_fields (s : State) (r : HRec) : (s.setHeir r).fields = s.fields :=
  (unCore_fields _).symm.trans ((congrArg State.fields (setHeir_unCore s r)).trans (unCore_fields s))
@[simp] theorem setHeir_jobs (s : State) (r : HRec) : (s.setHeir r).jobs = s.jobs :=
  (unCore_jobs _).symm.trans ((congrArg State.jobs (setHeir_unCore s r)).trans (unCore_jobs s))
@[simp] theorem setHeir_strands (s : State) (r : HRec) : (s.setHeir r).strands = s.strands :=
  (unCore_strands _).symm.trans ((congrArg State.strands (setHeir_unCore s r)).trans (unCore_strands s))
@[simp] theorem setHeir_mem (s : State) (r : HRec) : (s.setHeir r).mem = s.mem :=
  (unCore_mem _).symm.trans ((congrArg State.mem (setHeir_unCore s r)).trans (unCore_mem s))
@[simp] theorem setHeir_opTime (s : State) (r : HRec) : (s.setHeir r).opTime = s.opTime :=
  (unCore_opTime _).symm.trans ((congrArg State.opTime (setHeir_unCore s r)).trans (unCore_opTime s))
@[simp] theorem setHeir_pending (s : State) (r : HRec) : (s.setHeir r).pending = s.pending :=
  (unCore_pending _).symm.trans ((congrArg State.pending (setHeir_unCore s r)).trans (unCore_pending s))

@[simp] theorem makePermanent_unCore (s : State) (k i c : Nat) : (s.makePermanent k i c).unCore = s.unCore := by
  simp only [State.makePermanent]
  split <;> simp
@[simp] theorem makePermanent_part (s : State) (k i c : Nat) : (s.makePermanent k i c).part = s.part :=
  (unCore_part _).symm.trans ((congrArg State.part (makePermanent_unCore s k i c)).trans (unCore_part s))
@[simp] theorem makePermanent_pins (s : State) (k i c : Nat) : (s.makePermanent k i c).pins = s.pins :=
  (unCore_pins _).symm.trans ((congrArg State.pins (makePermanent_unCore s k i c)).trans (unCore_pins s))
@[simp] theorem makePermanent_cal (s : State) (k i c : Nat) : (s.makePermanent k i c).cal = s.cal :=
  (unCore_cal _).symm.trans ((congrArg State.cal (makePermanent_unCore s k i c)).trans (unCore_cal s))
@[simp] theorem makePermanent_regsShadow (s : State) (k i c : Nat) : (s.makePermanent k i c).regsShadow = s.regsShadow :=
  (unCore_regsShadow _).symm.trans ((congrArg State.regsShadow (makePermanent_unCore s k i c)).trans (unCore_regsShadow s))
@[simp] theorem makePermanent_asy (s : State) (k i c : Nat) : (s.makePermanent k i c).asy = s.asy :=
  (unCore_asy _).symm.trans ((congrArg State.asy (makePermanent_unCore s k i c)).trans (unCore_asy s))
@[simp] theorem makePermanent_clk (s : State) (k i c : Nat) : (s.makePermanent k i c).clk = s.clk :=
  (unCore_clk _).symm.trans ((congrArg State.clk (makePermanent_unCore s k i c)).trans (unCore_clk s))
@[simp] theorem makePermanent_thm (s : State) (k i c : Nat) : (s.makePermanent k i c).thm = s.thm :=
  (unCore_thm _).symm.trans ((congrArg State.thm (makePermanent_unCore s k i c)).trans (unCore_thm s))
@[simp] theorem makePermanent_alm (s : State) (k i c : Nat) : (s.makePermanent k i c).alm = s.alm :=
  (unCore_alm _).symm.trans ((congrArg State.alm (makePermanent_unCore s k i c)).trans (unCore_alm s))
@[simp] theorem makePermanent_lkt (s : State) (k i c : Nat) : (s.makePermanent k i c).lkt = s.lkt :=
  (unCore_lkt _).symm.trans ((congrArg State.lkt (makePermanent_unCore s k i c)).trans (unCore_lkt s))
@[simp] theorem makePermanent_fst (s : State) (k i c : Nat) : (s.makePermanent k i c).fst = s.fst :=
  (unCore_fst _).symm.trans ((congrArg State.fst (makePermanent_unCore s k i c)).trans (unCore_fst s))
@[simp] theorem makePermanent_lou (s : State) (k i c : Nat) : (s.makePermanent k i c).lou = s.lou :=
  (unCore_lou _).symm.trans ((congrArg State.lou (makePermanent_unCore s k i c)).trans (unCore_lou s))
@[simp] theorem makePermanent_cxl (s : State) (k i c : Nat) : (s.makePermanent k i c).cxl = s.cxl :=
  (unCore_cxl _).symm.trans ((congrArg State.cxl (makePermanent_unCore s k i c)).trans (unCore_cxl s))
@[simp] theorem makePermanent_cls (s : State) (k i c : Nat) : (s.makePermanent k i c).cls = s.cls :=
  (unCore_cls _).symm.trans ((congrArg State.cls (makePermanent_unCore s k i c)).trans (unCore_cls s))
@[simp] theorem makePermanent_mgmt (s : State) (k i c : Nat) : (s.makePermanent k i c).mgmt = s.mgmt :=
  (unCore_mgmt _).symm.trans ((congrArg State.mgmt (makePermanent_unCore s k i c)).trans (unCore_mgmt s))
@[simp] theorem makePermanent_sec (s : State) (k i c : Nat) : (s.makePermanent k i c).sec = s.sec :=
  (unCore_sec _).symm.trans ((congrArg State.sec (makePermanent_unCore s k i c)).trans (unCore_sec s))
@[simp] theorem makePermanent_fields (s : State) (k i c : Nat) : (s.makePermanent k i c).fields = s.fields :=
  (unCore_fields _).symm.trans ((congrArg State.fields (makePermanent_unCore s k i c)).trans (unCore_fields s))
@[simp] theorem makePermanent_jobs (s : State) (k i c : Nat) : (s.makePermanent k i c).jobs = s.jobs :=
  (unCore_jobs _).symm.trans ((congrArg State.jobs (makePermanent_unCore s k i c)).trans (unCore_jobs s))
@[simp] theorem makePermanent_strands (s : State) (k i c : Nat) : (s.makePermanent k i c).strands = s.strands :=
  (unCore_strands _).symm.trans ((congrArg State.strands (makePermanent_unCore s k i c)).trans (unCore_strands s))
@[simp] theorem makePermanent_mem (s : State) (k i c : Nat) : (s.makePermanent k i c).mem = s.mem :=
  (unCore_mem _).symm.trans ((congrArg State.mem (makePermanent_unCore s k i c)).trans (unCore_mem s))
@[simp] theorem makePermanent_opTime (s : State) (k i c : Nat) : (s.makePermanent k i c).opTime = s.opTime :=
  (unCore_opTime _).symm.trans ((congrArg State.opTime (makePermanent_unCore s k i c)).trans (unCore_opTime s))
@[simp] theorem makePermanent_pending (s : State) (k i c : Nat) : (s.makePermanent k i c).pending = s.pending :=
  (unCore_pending _).symm.trans ((congrArg State.pending (makePermanent_unCore s k i c)).trans (unCore_pending s))

@[simp] theorem heirEvent_unCore (s : State) (k i : Nat) : (s.heirEvent k i).unCore = s.unCore := by
  unfold State.heirEvent
  lift_lets
  intro s1 r r1
  intros
  have h1 : s1.unCore = s.unCore := rfl
  split <;> rw [setHeir_unCore, h1]
@[simp] theorem heirEvent_part (s : State) (k i : Nat) : (s.heirEvent k i).part = s.part :=
  (unCore_part _).symm.trans ((congrArg State.part (heirEvent_unCore s k i)).trans (unCore_part s))
@[simp] theorem heirEvent_pins (s : State) (k i : Nat) : (s.heirEvent k i).pins = s.pins :=
  (unCore_pins _).symm.trans ((congrArg State.pins (heirEvent_unCore s k i)).trans (unCore_pins s))
@[simp] theorem heirEvent_cal (s : State) (k i : Nat) : (s.heirEvent k i).cal = s.cal :=
  (unCore_cal _).symm.trans ((congrArg State.cal (heirEvent_unCore s k i)).trans (unCore_cal s))
@[simp] theorem heirEvent_regsShadow (s : State) (k i : Nat) : (s.heirEvent k i).regsShadow = s.regsShadow :=
  (unCore_regsShadow _).symm.trans ((congrArg State.regsShadow (heirEvent_unCore s k i)).trans (unCore_regsShadow s))
@[simp] theorem heirEvent_asy (s : State) (k i : Nat) : (s.heirEvent k i).asy = s.asy :=
  (unCore_asy _).symm.trans ((congrArg State.asy (heirEvent_unCore s k i)).trans (unCore_asy s))
@[simp] theorem heirEvent_clk (s : State) (k i : Nat) : (s.heirEvent k i).clk = s.clk :=
  (unCore_clk _).symm.trans ((congrArg State.clk (heirEvent_unCore s k i)).trans (unCore_clk s))
@[simp] theorem heirEvent_thm (s : State) (k i : Nat) : (s.heirEvent k i).thm = s.thm :=
  (unCore_thm _).symm.trans ((congrArg State.thm (heirEvent_unCore s k i)).trans (unCore_thm s))
@[simp] theorem heirEvent_alm (s : State) (k i : Nat) : (s.heirEvent k i).alm = s.alm :=
  (unCore_alm _).symm.trans ((congrArg State.alm (heirEvent_unCore s k i)).trans (unCore_alm s))
@[simp] theorem heirEvent_lkt (s : State) (k i : Nat) : (s.heirEvent k i).lkt = s.lkt :=
  (unCore_lkt _).symm.trans ((congrArg State.lkt (heirEvent_unCore s k i)).trans (unCore_lkt s))
@[simp] theorem heirEvent_fst (s : State) (k i : Nat) : (s.heirEvent k i).fst = s.fst :=
  (unCore_fst _).symm.trans ((congrArg State.fst (heirEvent_unCore s k i)).trans (unCore_fst s))
@[simp] theorem heirEvent_lou (s : State) (k i : Nat) : (s.heirEvent k i).lou = s.lou :=
  (unCore_lou _).symm.trans ((congrArg State.lou (heirEvent_unCore s k i)).trans (unCore_lou s))
@[simp] theorem heirEvent_cxl (s : State) (k i : Nat) : (s.heirEvent k i).cxl = s.cxl :=
  (unCore_cxl _).symm.trans ((congrArg State.cxl (heirEvent_unCore s k i)).trans (unCore_cxl s))
@[simp] theorem heirEvent_cls (s : State) (k i : Nat) : (s.heirEvent k i).cls = s.cls :=
  (unCore_cls _).symm.trans ((congrArg State.cls (heirEvent_unCore s k i)).trans (unCore_cls s))
@[simp] theorem heirEvent_mgmt (s : State) (k i : Nat) : (s.heirEvent k i).mgmt = s.mgmt :=
  (unCore_mgmt _).symm.trans ((congrArg State.mgmt (heirEvent_unCore s k i)).trans (unCore_mgmt s))
@[simp] theorem heirEvent_sec (s : State) (k i : Nat) : (s.heirEvent k i).sec = s.sec :=
  (unCore_sec _).symm.trans ((congrArg State.sec (heirEvent_unCore s k i)).trans (unCore_sec s))
@[simp] theorem heirEvent_fields (s : State) (k i : Nat) : (s.heirEvent k i).fields = s.fields :=
  (unCore_fields _).symm.trans ((congrArg State.fields (heirEvent_unCore s k i)).trans (unCore_fields s))
@[simp] theorem heirEvent_jobs (s : State) (k i : Nat) : (s.heirEvent k i).jobs = s.jobs :=
  (unCore_jobs _).symm.trans ((congrArg State.jobs (heirEvent_unCore s k i)).trans (unCore_jobs s))
@[simp] theorem heirEvent_strands (s : State) (k i : Nat) : (s.heirEvent k i).strands = s.strands :=
  (unCore_strands _).symm.trans ((congrArg State.strands (heirEvent_unCore s k i)).trans (unCore_strands s))
@[simp] theorem heirEvent_mem (s : State) (k i : Nat) : (s.heirEvent k i).mem = s.mem :=
  (unCore_mem _).symm.trans ((congrArg State.mem (heirEvent_unCore s k i)).trans (unCore_mem s))
@[simp] theorem heirEvent_opTime (s : State) (k i : Nat) : (s.heirEvent k i).opTime = s.opTime :=
  (unCore_opTime _).symm.trans ((congrArg State.opTime (heirEvent_unCore s k i)).trans (unCore_opTime s))
@[simp] theorem heirEvent_pending (s : State) (k i : Nat) : (s.heirEvent k i).pending = s.pending :=
  (unCore_pending _).symm.trans ((congrArg State.pending (heirEvent_unCore s k i)).trans (unCore_pending s))

@[simp] theorem markRetired_unCore (s : State) (k i : Nat) : (s.markRetired k i).unCore = s.unCore := by
  simp only [State.markRetired]
  split <;> simp
@[simp] theorem markRetired_part (s : State) (k i : Nat) : (s.markRetired k i).part = s.part :=
  (unCore_part _).symm.trans ((congrArg State.part (markRetired_unCore s k i)).trans (unCore_part s))
@[simp] theorem markRetired_pins (s : State) (k i : Nat) : (s.markRetired k i).pins = s.pins :=
  (unCore_pins _).symm.trans ((congrArg State.pins (markRetired_unCore s k i)).trans (unCore_pins s))
@[simp] theorem markRetired_cal (s : State) (k i : Nat) : (s.markRetired k i).cal = s.cal :=
  (unCore_cal _).symm.trans ((congrArg State.cal (markRetired_unCore s k i)).trans (unCore_cal s))
@[simp] theorem markRetired_regsShadow (s : State) (k i : Nat) : (s.markRetired k i).regsShadow = s.regsShadow :=
  (unCore_regsShadow _).symm.trans ((congrArg State.regsShadow (markRetired_unCore s k i)).trans (unCore_regsShadow s))
@[simp] theorem markRetired_asy (s : State) (k i : Nat) : (s.markRetired k i).asy = s.asy :=
  (unCore_asy _).symm.trans ((congrArg State.asy (markRetired_unCore s k i)).trans (unCore_asy s))
@[simp] theorem markRetired_clk (s : State) (k i : Nat) : (s.markRetired k i).clk = s.clk :=
  (unCore_clk _).symm.trans ((congrArg State.clk (markRetired_unCore s k i)).trans (unCore_clk s))
@[simp] theorem markRetired_thm (s : State) (k i : Nat) : (s.markRetired k i).thm = s.thm :=
  (unCore_thm _).symm.trans ((congrArg State.thm (markRetired_unCore s k i)).trans (unCore_thm s))
@[simp] theorem markRetired_alm (s : State) (k i : Nat) : (s.markRetired k i).alm = s.alm :=
  (unCore_alm _).symm.trans ((congrArg State.alm (markRetired_unCore s k i)).trans (unCore_alm s))
@[simp] theorem markRetired_lkt (s : State) (k i : Nat) : (s.markRetired k i).lkt = s.lkt :=
  (unCore_lkt _).symm.trans ((congrArg State.lkt (markRetired_unCore s k i)).trans (unCore_lkt s))
@[simp] theorem markRetired_fst (s : State) (k i : Nat) : (s.markRetired k i).fst = s.fst :=
  (unCore_fst _).symm.trans ((congrArg State.fst (markRetired_unCore s k i)).trans (unCore_fst s))
@[simp] theorem markRetired_lou (s : State) (k i : Nat) : (s.markRetired k i).lou = s.lou :=
  (unCore_lou _).symm.trans ((congrArg State.lou (markRetired_unCore s k i)).trans (unCore_lou s))
@[simp] theorem markRetired_cxl (s : State) (k i : Nat) : (s.markRetired k i).cxl = s.cxl :=
  (unCore_cxl _).symm.trans ((congrArg State.cxl (markRetired_unCore s k i)).trans (unCore_cxl s))
@[simp] theorem markRetired_cls (s : State) (k i : Nat) : (s.markRetired k i).cls = s.cls :=
  (unCore_cls _).symm.trans ((congrArg State.cls (markRetired_unCore s k i)).trans (unCore_cls s))
@[simp] theorem markRetired_mgmt (s : State) (k i : Nat) : (s.markRetired k i).mgmt = s.mgmt :=
  (unCore_mgmt _).symm.trans ((congrArg State.mgmt (markRetired_unCore s k i)).trans (unCore_mgmt s))
@[simp] theorem markRetired_sec (s : State) (k i : Nat) : (s.markRetired k i).sec = s.sec :=
  (unCore_sec _).symm.trans ((congrArg State.sec (markRetired_unCore s k i)).trans (unCore_sec s))
@[simp] theorem markRetired_fields (s : State) (k i : Nat) : (s.markRetired k i).fields = s.fields :=
  (unCore_fields _).symm.trans ((congrArg State.fields (markRetired_unCore s k i)).trans (unCore_fields s))
@[simp] theorem markRetired_jobs (s : State) (k i : Nat) : (s.markRetired k i).jobs = s.jobs :=
  (unCore_jobs _).symm.trans ((congrArg State.jobs (markRetired_unCore s k i)).trans (unCore_jobs s))
@[simp] theorem markRetired_strands (s : State) (k i : Nat) : (s.markRetired k i).strands = s.strands :=
  (unCore_strands _).symm.trans ((congrArg State.strands (markRetired_unCore s k i)).trans (unCore_strands s))
@[simp] theorem markRetired_mem (s : State) (k i : Nat) : (s.markRetired k i).mem = s.mem :=
  (unCore_mem _).symm.trans ((congrArg State.mem (markRetired_unCore s k i)).trans (unCore_mem s))
@[simp] theorem markRetired_opTime (s : State) (k i : Nat) : (s.markRetired k i).opTime = s.opTime :=
  (unCore_opTime _).symm.trans ((congrArg State.opTime (markRetired_unCore s k i)).trans (unCore_opTime s))
@[simp] theorem markRetired_pending (s : State) (k i : Nat) : (s.markRetired k i).pending = s.pending :=
  (unCore_pending _).symm.trans ((congrArg State.pending (markRetired_unCore s k i)).trans (unCore_pending s))

@[simp] theorem replaceFor_unCore (s : State) (c : Nat) : (s.replaceFor c).unCore = s.unCore := by
  unfold State.replaceFor
  lift_lets
  intro known s1 gn s2
  have h1 : s1.unCore = s.unCore := by simp only [s1]; split <;> rfl
  have h2 : s2.unCore = s1.unCore := by simp only [s2, event_unCore]; rfl
  split
  · exact h1
  · split
    · rw [h2, h1]
    · rw [publish_unCore, h2, h1]
@[simp] theorem replaceFor_part (s : State) (c : Nat) : (s.replaceFor c).part = s.part :=
  (unCore_part _).symm.trans ((congrArg State.part (replaceFor_unCore s c)).trans (unCore_part s))
@[simp] theorem replaceFor_pins (s : State) (c : Nat) : (s.replaceFor c).pins = s.pins :=
  (unCore_pins _).symm.trans ((congrArg State.pins (replaceFor_unCore s c)).trans (unCore_pins s))
@[simp] theorem replaceFor_cal (s : State) (c : Nat) : (s.replaceFor c).cal = s.cal :=
  (unCore_cal _).symm.trans ((congrArg State.cal (replaceFor_unCore s c)).trans (unCore_cal s))
@[simp] theorem replaceFor_regsShadow (s : State) (c : Nat) : (s.replaceFor c).regsShadow = s.regsShadow :=
  (unCore_regsShadow _).symm.trans ((congrArg State.regsShadow (replaceFor_unCore s c)).trans (unCore_regsShadow s))
@[simp] theorem replaceFor_asy (s : State) (c : Nat) : (s.replaceFor c).asy = s.asy :=
  (unCore_asy _).symm.trans ((congrArg State.asy (replaceFor_unCore s c)).trans (unCore_asy s))
@[simp] theorem replaceFor_clk (s : State) (c : Nat) : (s.replaceFor c).clk = s.clk :=
  (unCore_clk _).symm.trans ((congrArg State.clk (replaceFor_unCore s c)).trans (unCore_clk s))
@[simp] theorem replaceFor_thm (s : State) (c : Nat) : (s.replaceFor c).thm = s.thm :=
  (unCore_thm _).symm.trans ((congrArg State.thm (replaceFor_unCore s c)).trans (unCore_thm s))
@[simp] theorem replaceFor_alm (s : State) (c : Nat) : (s.replaceFor c).alm = s.alm :=
  (unCore_alm _).symm.trans ((congrArg State.alm (replaceFor_unCore s c)).trans (unCore_alm s))
@[simp] theorem replaceFor_lkt (s : State) (c : Nat) : (s.replaceFor c).lkt = s.lkt :=
  (unCore_lkt _).symm.trans ((congrArg State.lkt (replaceFor_unCore s c)).trans (unCore_lkt s))
@[simp] theorem replaceFor_fst (s : State) (c : Nat) : (s.replaceFor c).fst = s.fst :=
  (unCore_fst _).symm.trans ((congrArg State.fst (replaceFor_unCore s c)).trans (unCore_fst s))
@[simp] theorem replaceFor_lou (s : State) (c : Nat) : (s.replaceFor c).lou = s.lou :=
  (unCore_lou _).symm.trans ((congrArg State.lou (replaceFor_unCore s c)).trans (unCore_lou s))
@[simp] theorem replaceFor_cxl (s : State) (c : Nat) : (s.replaceFor c).cxl = s.cxl :=
  (unCore_cxl _).symm.trans ((congrArg State.cxl (replaceFor_unCore s c)).trans (unCore_cxl s))
@[simp] theorem replaceFor_cls (s : State) (c : Nat) : (s.replaceFor c).cls = s.cls :=
  (unCore_cls _).symm.trans ((congrArg State.cls (replaceFor_unCore s c)).trans (unCore_cls s))
@[simp] theorem replaceFor_mgmt (s : State) (c : Nat) : (s.replaceFor c).mgmt = s.mgmt :=
  (unCore_mgmt _).symm.trans ((congrArg State.mgmt (replaceFor_unCore s c)).trans (unCore_mgmt s))
@[simp] theorem replaceFor_sec (s : State) (c : Nat) : (s.replaceFor c).sec = s.sec :=
  (unCore_sec _).symm.trans ((congrArg State.sec (replaceFor_unCore s c)).trans (unCore_sec s))
@[simp] theorem replaceFor_fields (s : State) (c : Nat) : (s.replaceFor c).fields = s.fields :=
  (unCore_fields _).symm.trans ((congrArg State.fields (replaceFor_unCore s c)).trans (unCore_fields s))
@[simp] theorem replaceFor_jobs (s : State) (c : Nat) : (s.replaceFor c).jobs = s.jobs :=
  (unCore_jobs _).symm.trans ((congrArg State.jobs (replaceFor_unCore s c)).trans (unCore_jobs s))
@[simp] theorem replaceFor_strands (s : State) (c : Nat) : (s.replaceFor c).strands = s.strands :=
  (unCore_strands _).symm.trans ((congrArg State.strands (replaceFor_unCore s c)).trans (unCore_strands s))
@[simp] theorem replaceFor_mem (s : State) (c : Nat) : (s.replaceFor c).mem = s.mem :=
  (unCore_mem _).symm.trans ((congrArg State.mem (replaceFor_unCore s c)).trans (unCore_mem s))
@[simp] theorem replaceFor_opTime (s : State) (c : Nat) : (s.replaceFor c).opTime = s.opTime :=
  (unCore_opTime _).symm.trans ((congrArg State.opTime (replaceFor_unCore s c)).trans (unCore_opTime s))
@[simp] theorem replaceFor_pending (s : State) (c : Nat) : (s.replaceFor c).pending = s.pending :=
  (unCore_pending _).symm.trans ((congrArg State.pending (replaceFor_unCore s c)).trans (unCore_pending s))

@[simp] theorem replaceAnd_unCore (s : State) (c : Nat) : (s.replaceAnd c).unCore = s.unCore := by
  simp only [State.replaceAnd]
  split <;> simp
@[simp] theorem replaceAnd_part (s : State) (c : Nat) : (s.replaceAnd c).part = s.part :=
  (unCore_part _).symm.trans ((congrArg State.part (replaceAnd_unCore s c)).trans (unCore_part s))
@[simp] theorem replaceAnd_pins (s : State) (c : Nat) : (s.replaceAnd c).pins = s.pins :=
  (unCore_pins _).symm.trans ((congrArg State.pins (replaceAnd_unCore s c)).trans (unCore_pins s))
@[simp] theorem replaceAnd_cal (s : State) (c : Nat) : (s.replaceAnd c).cal = s.cal :=
  (unCore_cal _).symm.trans ((congrArg State.cal (replaceAnd_unCore s c)).trans (unCore_cal s))
@[simp] theorem replaceAnd_regsShadow (s : State) (c : Nat) : (s.replaceAnd c).regsShadow = s.regsShadow :=
  (unCore_regsShadow _).symm.trans ((congrArg State.regsShadow (replaceAnd_unCore s c)).trans (unCore_regsShadow s))
@[simp] theorem replaceAnd_asy (s : State) (c : Nat) : (s.replaceAnd c).asy = s.asy :=
  (unCore_asy _).symm.trans ((congrArg State.asy (replaceAnd_unCore s c)).trans (unCore_asy s))
@[simp] theorem replaceAnd_clk (s : State) (c : Nat) : (s.replaceAnd c).clk = s.clk :=
  (unCore_clk _).symm.trans ((congrArg State.clk (replaceAnd_unCore s c)).trans (unCore_clk s))
@[simp] theorem replaceAnd_thm (s : State) (c : Nat) : (s.replaceAnd c).thm = s.thm :=
  (unCore_thm _).symm.trans ((congrArg State.thm (replaceAnd_unCore s c)).trans (unCore_thm s))
@[simp] theorem replaceAnd_alm (s : State) (c : Nat) : (s.replaceAnd c).alm = s.alm :=
  (unCore_alm _).symm.trans ((congrArg State.alm (replaceAnd_unCore s c)).trans (unCore_alm s))
@[simp] theorem replaceAnd_lkt (s : State) (c : Nat) : (s.replaceAnd c).lkt = s.lkt :=
  (unCore_lkt _).symm.trans ((congrArg State.lkt (replaceAnd_unCore s c)).trans (unCore_lkt s))
@[simp] theorem replaceAnd_fst (s : State) (c : Nat) : (s.replaceAnd c).fst = s.fst :=
  (unCore_fst _).symm.trans ((congrArg State.fst (replaceAnd_unCore s c)).trans (unCore_fst s))
@[simp] theorem replaceAnd_lou (s : State) (c : Nat) : (s.replaceAnd c).lou = s.lou :=
  (unCore_lou _).symm.trans ((congrArg State.lou (replaceAnd_unCore s c)).trans (unCore_lou s))
@[simp] theorem replaceAnd_cxl (s : State) (c : Nat) : (s.replaceAnd c).cxl = s.cxl :=
  (unCore_cxl _).symm.trans ((congrArg State.cxl (replaceAnd_unCore s c)).trans (unCore_cxl s))
@[simp] theorem replaceAnd_cls (s : State) (c : Nat) : (s.replaceAnd c).cls = s.cls :=
  (unCore_cls _).symm.trans ((congrArg State.cls (replaceAnd_unCore s c)).trans (unCore_cls s))
@[simp] theorem replaceAnd_mgmt (s : State) (c : Nat) : (s.replaceAnd c).mgmt = s.mgmt :=
  (unCore_mgmt _).symm.trans ((congrArg State.mgmt (replaceAnd_unCore s c)).trans (unCore_mgmt s))
@[simp] theorem replaceAnd_sec (s : State) (c : Nat) : (s.replaceAnd c).sec = s.sec :=
  (unCore_sec _).symm.trans ((congrArg State.sec (replaceAnd_unCore s c)).trans (unCore_sec s))
@[simp] theorem replaceAnd_fields (s : State) (c : Nat) : (s.replaceAnd c).fields = s.fields :=
  (unCore_fields _).symm.trans ((congrArg State.fields (replaceAnd_unCore s c)).trans (unCore_fields s))
@[simp] theorem replaceAnd_jobs (s : State) (c : Nat) : (s.replaceAnd c).jobs = s.jobs :=
  (unCore_jobs _).symm.trans ((congrArg State.jobs (replaceAnd_unCore s c)).trans (unCore_jobs s))
@[simp] theorem replaceAnd_strands (s : State) (c : Nat) : (s.replaceAnd c).strands = s.strands :=
  (unCore_strands _).symm.trans ((congrArg State.strands (replaceAnd_unCore s c)).trans (unCore_strands s))
@[simp] theorem replaceAnd_mem (s : State) (c : Nat) : (s.replaceAnd c).mem = s.mem :=
  (unCore_mem _).symm.trans ((congrArg State.mem (replaceAnd_unCore s c)).trans (unCore_mem s))
@[simp] theorem replaceAnd_opTime (s : State) (c : Nat) : (s.replaceAnd c).opTime = s.opTime :=
  (unCore_opTime _).symm.trans ((congrArg State.opTime (replaceAnd_unCore s c)).trans (unCore_opTime s))
@[simp] theorem replaceAnd_pending (s : State) (c : Nat) : (s.replaceAnd c).pending = s.pending :=
  (unCore_pending _).symm.trans ((congrArg State.pending (replaceAnd_unCore s c)).trans (unCore_pending s))

@[simp] theorem loseLogical_unCore (s : State) (l : Nat) : (s.loseLogical l).unCore = s.unCore := by
  simp only [State.loseLogical, replaceAnd_unCore]
  rfl
@[simp] theorem loseLogical_part (s : State) (l : Nat) : (s.loseLogical l).part = s.part :=
  (unCore_part _).symm.trans ((congrArg State.part (loseLogical_unCore s l)).trans (unCore_part s))
@[simp] theorem loseLogical_pins (s : State) (l : Nat) : (s.loseLogical l).pins = s.pins :=
  (unCore_pins _).symm.trans ((congrArg State.pins (loseLogical_unCore s l)).trans (unCore_pins s))
@[simp] theorem loseLogical_cal (s : State) (l : Nat) : (s.loseLogical l).cal = s.cal :=
  (unCore_cal _).symm.trans ((congrArg State.cal (loseLogical_unCore s l)).trans (unCore_cal s))
@[simp] theorem loseLogical_regsShadow (s : State) (l : Nat) : (s.loseLogical l).regsShadow = s.regsShadow :=
  (unCore_regsShadow _).symm.trans ((congrArg State.regsShadow (loseLogical_unCore s l)).trans (unCore_regsShadow s))
@[simp] theorem loseLogical_asy (s : State) (l : Nat) : (s.loseLogical l).asy = s.asy :=
  (unCore_asy _).symm.trans ((congrArg State.asy (loseLogical_unCore s l)).trans (unCore_asy s))
@[simp] theorem loseLogical_clk (s : State) (l : Nat) : (s.loseLogical l).clk = s.clk :=
  (unCore_clk _).symm.trans ((congrArg State.clk (loseLogical_unCore s l)).trans (unCore_clk s))
@[simp] theorem loseLogical_thm (s : State) (l : Nat) : (s.loseLogical l).thm = s.thm :=
  (unCore_thm _).symm.trans ((congrArg State.thm (loseLogical_unCore s l)).trans (unCore_thm s))
@[simp] theorem loseLogical_alm (s : State) (l : Nat) : (s.loseLogical l).alm = s.alm :=
  (unCore_alm _).symm.trans ((congrArg State.alm (loseLogical_unCore s l)).trans (unCore_alm s))
@[simp] theorem loseLogical_lkt (s : State) (l : Nat) : (s.loseLogical l).lkt = s.lkt :=
  (unCore_lkt _).symm.trans ((congrArg State.lkt (loseLogical_unCore s l)).trans (unCore_lkt s))
@[simp] theorem loseLogical_fst (s : State) (l : Nat) : (s.loseLogical l).fst = s.fst :=
  (unCore_fst _).symm.trans ((congrArg State.fst (loseLogical_unCore s l)).trans (unCore_fst s))
@[simp] theorem loseLogical_lou (s : State) (l : Nat) : (s.loseLogical l).lou = s.lou :=
  (unCore_lou _).symm.trans ((congrArg State.lou (loseLogical_unCore s l)).trans (unCore_lou s))
@[simp] theorem loseLogical_cxl (s : State) (l : Nat) : (s.loseLogical l).cxl = s.cxl :=
  (unCore_cxl _).symm.trans ((congrArg State.cxl (loseLogical_unCore s l)).trans (unCore_cxl s))
@[simp] theorem loseLogical_cls (s : State) (l : Nat) : (s.loseLogical l).cls = s.cls :=
  (unCore_cls _).symm.trans ((congrArg State.cls (loseLogical_unCore s l)).trans (unCore_cls s))
@[simp] theorem loseLogical_mgmt (s : State) (l : Nat) : (s.loseLogical l).mgmt = s.mgmt :=
  (unCore_mgmt _).symm.trans ((congrArg State.mgmt (loseLogical_unCore s l)).trans (unCore_mgmt s))
@[simp] theorem loseLogical_sec (s : State) (l : Nat) : (s.loseLogical l).sec = s.sec :=
  (unCore_sec _).symm.trans ((congrArg State.sec (loseLogical_unCore s l)).trans (unCore_sec s))
@[simp] theorem loseLogical_fields (s : State) (l : Nat) : (s.loseLogical l).fields = s.fields :=
  (unCore_fields _).symm.trans ((congrArg State.fields (loseLogical_unCore s l)).trans (unCore_fields s))
@[simp] theorem loseLogical_jobs (s : State) (l : Nat) : (s.loseLogical l).jobs = s.jobs :=
  (unCore_jobs _).symm.trans ((congrArg State.jobs (loseLogical_unCore s l)).trans (unCore_jobs s))
@[simp] theorem loseLogical_strands (s : State) (l : Nat) : (s.loseLogical l).strands = s.strands :=
  (unCore_strands _).symm.trans ((congrArg State.strands (loseLogical_unCore s l)).trans (unCore_strands s))
@[simp] theorem loseLogical_mem (s : State) (l : Nat) : (s.loseLogical l).mem = s.mem :=
  (unCore_mem _).symm.trans ((congrArg State.mem (loseLogical_unCore s l)).trans (unCore_mem s))
@[simp] theorem loseLogical_opTime (s : State) (l : Nat) : (s.loseLogical l).opTime = s.opTime :=
  (unCore_opTime _).symm.trans ((congrArg State.opTime (loseLogical_unCore s l)).trans (unCore_opTime s))
@[simp] theorem loseLogical_pending (s : State) (l : Nat) : (s.loseLogical l).pending = s.pending :=
  (unCore_pending _).symm.trans ((congrArg State.pending (loseLogical_unCore s l)).trans (unCore_pending s))

@[simp] theorem powerUp_unCore (s : State) (c : Nat) : (s.powerUp c).unCore = s.unCore := by
  simp only [State.powerUp]
  repeat' split
  all_goals rfl
@[simp] theorem powerUp_part (s : State) (c : Nat) : (s.powerUp c).part = s.part :=
  (unCore_part _).symm.trans ((congrArg State.part (powerUp_unCore s c)).trans (unCore_part s))
@[simp] theorem powerUp_pins (s : State) (c : Nat) : (s.powerUp c).pins = s.pins :=
  (unCore_pins _).symm.trans ((congrArg State.pins (powerUp_unCore s c)).trans (unCore_pins s))
@[simp] theorem powerUp_cal (s : State) (c : Nat) : (s.powerUp c).cal = s.cal :=
  (unCore_cal _).symm.trans ((congrArg State.cal (powerUp_unCore s c)).trans (unCore_cal s))
@[simp] theorem powerUp_regsShadow (s : State) (c : Nat) : (s.powerUp c).regsShadow = s.regsShadow :=
  (unCore_regsShadow _).symm.trans ((congrArg State.regsShadow (powerUp_unCore s c)).trans (unCore_regsShadow s))
@[simp] theorem powerUp_asy (s : State) (c : Nat) : (s.powerUp c).asy = s.asy :=
  (unCore_asy _).symm.trans ((congrArg State.asy (powerUp_unCore s c)).trans (unCore_asy s))
@[simp] theorem powerUp_clk (s : State) (c : Nat) : (s.powerUp c).clk = s.clk :=
  (unCore_clk _).symm.trans ((congrArg State.clk (powerUp_unCore s c)).trans (unCore_clk s))
@[simp] theorem powerUp_thm (s : State) (c : Nat) : (s.powerUp c).thm = s.thm :=
  (unCore_thm _).symm.trans ((congrArg State.thm (powerUp_unCore s c)).trans (unCore_thm s))
@[simp] theorem powerUp_alm (s : State) (c : Nat) : (s.powerUp c).alm = s.alm :=
  (unCore_alm _).symm.trans ((congrArg State.alm (powerUp_unCore s c)).trans (unCore_alm s))
@[simp] theorem powerUp_lkt (s : State) (c : Nat) : (s.powerUp c).lkt = s.lkt :=
  (unCore_lkt _).symm.trans ((congrArg State.lkt (powerUp_unCore s c)).trans (unCore_lkt s))
@[simp] theorem powerUp_fst (s : State) (c : Nat) : (s.powerUp c).fst = s.fst :=
  (unCore_fst _).symm.trans ((congrArg State.fst (powerUp_unCore s c)).trans (unCore_fst s))
@[simp] theorem powerUp_lou (s : State) (c : Nat) : (s.powerUp c).lou = s.lou :=
  (unCore_lou _).symm.trans ((congrArg State.lou (powerUp_unCore s c)).trans (unCore_lou s))
@[simp] theorem powerUp_cxl (s : State) (c : Nat) : (s.powerUp c).cxl = s.cxl :=
  (unCore_cxl _).symm.trans ((congrArg State.cxl (powerUp_unCore s c)).trans (unCore_cxl s))
@[simp] theorem powerUp_cls (s : State) (c : Nat) : (s.powerUp c).cls = s.cls :=
  (unCore_cls _).symm.trans ((congrArg State.cls (powerUp_unCore s c)).trans (unCore_cls s))
@[simp] theorem powerUp_mgmt (s : State) (c : Nat) : (s.powerUp c).mgmt = s.mgmt :=
  (unCore_mgmt _).symm.trans ((congrArg State.mgmt (powerUp_unCore s c)).trans (unCore_mgmt s))
@[simp] theorem powerUp_sec (s : State) (c : Nat) : (s.powerUp c).sec = s.sec :=
  (unCore_sec _).symm.trans ((congrArg State.sec (powerUp_unCore s c)).trans (unCore_sec s))
@[simp] theorem powerUp_fields (s : State) (c : Nat) : (s.powerUp c).fields = s.fields :=
  (unCore_fields _).symm.trans ((congrArg State.fields (powerUp_unCore s c)).trans (unCore_fields s))
@[simp] theorem powerUp_jobs (s : State) (c : Nat) : (s.powerUp c).jobs = s.jobs :=
  (unCore_jobs _).symm.trans ((congrArg State.jobs (powerUp_unCore s c)).trans (unCore_jobs s))
@[simp] theorem powerUp_strands (s : State) (c : Nat) : (s.powerUp c).strands = s.strands :=
  (unCore_strands _).symm.trans ((congrArg State.strands (powerUp_unCore s c)).trans (unCore_strands s))
@[simp] theorem powerUp_mem (s : State) (c : Nat) : (s.powerUp c).mem = s.mem :=
  (unCore_mem _).symm.trans ((congrArg State.mem (powerUp_unCore s c)).trans (unCore_mem s))
@[simp] theorem powerUp_opTime (s : State) (c : Nat) : (s.powerUp c).opTime = s.opTime :=
  (unCore_opTime _).symm.trans ((congrArg State.opTime (powerUp_unCore s c)).trans (unCore_opTime s))
@[simp] theorem powerUp_pending (s : State) (c : Nat) : (s.powerUp c).pending = s.pending :=
  (unCore_pending _).symm.trans ((congrArg State.pending (powerUp_unCore s c)).trans (unCore_pending s))

@[simp] theorem lookPark_unCore (s : State) (c : Nat) : (s.lookPark c).unCore = s.unCore := by
  simp only [State.lookPark]
  repeat' split
  all_goals rfl
@[simp] theorem lookPark_part (s : State) (c : Nat) : (s.lookPark c).part = s.part :=
  (unCore_part _).symm.trans ((congrArg State.part (lookPark_unCore s c)).trans (unCore_part s))
@[simp] theorem lookPark_pins (s : State) (c : Nat) : (s.lookPark c).pins = s.pins :=
  (unCore_pins _).symm.trans ((congrArg State.pins (lookPark_unCore s c)).trans (unCore_pins s))
@[simp] theorem lookPark_cal (s : State) (c : Nat) : (s.lookPark c).cal = s.cal :=
  (unCore_cal _).symm.trans ((congrArg State.cal (lookPark_unCore s c)).trans (unCore_cal s))
@[simp] theorem lookPark_regsShadow (s : State) (c : Nat) : (s.lookPark c).regsShadow = s.regsShadow :=
  (unCore_regsShadow _).symm.trans ((congrArg State.regsShadow (lookPark_unCore s c)).trans (unCore_regsShadow s))
@[simp] theorem lookPark_asy (s : State) (c : Nat) : (s.lookPark c).asy = s.asy :=
  (unCore_asy _).symm.trans ((congrArg State.asy (lookPark_unCore s c)).trans (unCore_asy s))
@[simp] theorem lookPark_clk (s : State) (c : Nat) : (s.lookPark c).clk = s.clk :=
  (unCore_clk _).symm.trans ((congrArg State.clk (lookPark_unCore s c)).trans (unCore_clk s))
@[simp] theorem lookPark_thm (s : State) (c : Nat) : (s.lookPark c).thm = s.thm :=
  (unCore_thm _).symm.trans ((congrArg State.thm (lookPark_unCore s c)).trans (unCore_thm s))
@[simp] theorem lookPark_alm (s : State) (c : Nat) : (s.lookPark c).alm = s.alm :=
  (unCore_alm _).symm.trans ((congrArg State.alm (lookPark_unCore s c)).trans (unCore_alm s))
@[simp] theorem lookPark_lkt (s : State) (c : Nat) : (s.lookPark c).lkt = s.lkt :=
  (unCore_lkt _).symm.trans ((congrArg State.lkt (lookPark_unCore s c)).trans (unCore_lkt s))
@[simp] theorem lookPark_fst (s : State) (c : Nat) : (s.lookPark c).fst = s.fst :=
  (unCore_fst _).symm.trans ((congrArg State.fst (lookPark_unCore s c)).trans (unCore_fst s))
@[simp] theorem lookPark_lou (s : State) (c : Nat) : (s.lookPark c).lou = s.lou :=
  (unCore_lou _).symm.trans ((congrArg State.lou (lookPark_unCore s c)).trans (unCore_lou s))
@[simp] theorem lookPark_cxl (s : State) (c : Nat) : (s.lookPark c).cxl = s.cxl :=
  (unCore_cxl _).symm.trans ((congrArg State.cxl (lookPark_unCore s c)).trans (unCore_cxl s))
@[simp] theorem lookPark_cls (s : State) (c : Nat) : (s.lookPark c).cls = s.cls :=
  (unCore_cls _).symm.trans ((congrArg State.cls (lookPark_unCore s c)).trans (unCore_cls s))
@[simp] theorem lookPark_mgmt (s : State) (c : Nat) : (s.lookPark c).mgmt = s.mgmt :=
  (unCore_mgmt _).symm.trans ((congrArg State.mgmt (lookPark_unCore s c)).trans (unCore_mgmt s))
@[simp] theorem lookPark_sec (s : State) (c : Nat) : (s.lookPark c).sec = s.sec :=
  (unCore_sec _).symm.trans ((congrArg State.sec (lookPark_unCore s c)).trans (unCore_sec s))
@[simp] theorem lookPark_fields (s : State) (c : Nat) : (s.lookPark c).fields = s.fields :=
  (unCore_fields _).symm.trans ((congrArg State.fields (lookPark_unCore s c)).trans (unCore_fields s))
@[simp] theorem lookPark_jobs (s : State) (c : Nat) : (s.lookPark c).jobs = s.jobs :=
  (unCore_jobs _).symm.trans ((congrArg State.jobs (lookPark_unCore s c)).trans (unCore_jobs s))
@[simp] theorem lookPark_strands (s : State) (c : Nat) : (s.lookPark c).strands = s.strands :=
  (unCore_strands _).symm.trans ((congrArg State.strands (lookPark_unCore s c)).trans (unCore_strands s))
@[simp] theorem lookPark_mem (s : State) (c : Nat) : (s.lookPark c).mem = s.mem :=
  (unCore_mem _).symm.trans ((congrArg State.mem (lookPark_unCore s c)).trans (unCore_mem s))
@[simp] theorem lookPark_opTime (s : State) (c : Nat) : (s.lookPark c).opTime = s.opTime :=
  (unCore_opTime _).symm.trans ((congrArg State.opTime (lookPark_unCore s c)).trans (unCore_opTime s))
@[simp] theorem lookPark_pending (s : State) (c : Nat) : (s.lookPark c).pending = s.pending :=
  (unCore_pending _).symm.trans ((congrArg State.pending (lookPark_unCore s c)).trans (unCore_pending s))

@[simp] theorem substitute_unCore (s : State) (l c w : Nat) (old : CoreSt) : (s.substitute l c w old).unCore = s.unCore := by
  simp only [State.substitute, modRegion_unCore, powerUp_unCore, modCore_unCore]
  rfl
@[simp] theorem substitute_part (s : State) (l c w : Nat) (old : CoreSt) : (s.substitute l c w old).part = s.part :=
  (unCore_part _).symm.trans ((congrArg State.part (substitute_unCore s l c w old)).trans (unCore_part s))
@[simp] theorem substitute_pins (s : State) (l c w : Nat) (old : CoreSt) : (s.substitute l c w old).pins = s.pins :=
  (unCore_pins _).symm.trans ((congrArg State.pins (substitute_unCore s l c w old)).trans (unCore_pins s))
@[simp] theorem substitute_cal (s : State) (l c w : Nat) (old : CoreSt) : (s.substitute l c w old).cal = s.cal :=
  (unCore_cal _).symm.trans ((congrArg State.cal (substitute_unCore s l c w old)).trans (unCore_cal s))
@[simp] theorem substitute_regsShadow (s : State) (l c w : Nat) (old : CoreSt) : (s.substitute l c w old).regsShadow = s.regsShadow :=
  (unCore_regsShadow _).symm.trans ((congrArg State.regsShadow (substitute_unCore s l c w old)).trans (unCore_regsShadow s))
@[simp] theorem substitute_asy (s : State) (l c w : Nat) (old : CoreSt) : (s.substitute l c w old).asy = s.asy :=
  (unCore_asy _).symm.trans ((congrArg State.asy (substitute_unCore s l c w old)).trans (unCore_asy s))
@[simp] theorem substitute_clk (s : State) (l c w : Nat) (old : CoreSt) : (s.substitute l c w old).clk = s.clk :=
  (unCore_clk _).symm.trans ((congrArg State.clk (substitute_unCore s l c w old)).trans (unCore_clk s))
@[simp] theorem substitute_thm (s : State) (l c w : Nat) (old : CoreSt) : (s.substitute l c w old).thm = s.thm :=
  (unCore_thm _).symm.trans ((congrArg State.thm (substitute_unCore s l c w old)).trans (unCore_thm s))
@[simp] theorem substitute_alm (s : State) (l c w : Nat) (old : CoreSt) : (s.substitute l c w old).alm = s.alm :=
  (unCore_alm _).symm.trans ((congrArg State.alm (substitute_unCore s l c w old)).trans (unCore_alm s))
@[simp] theorem substitute_lkt (s : State) (l c w : Nat) (old : CoreSt) : (s.substitute l c w old).lkt = s.lkt :=
  (unCore_lkt _).symm.trans ((congrArg State.lkt (substitute_unCore s l c w old)).trans (unCore_lkt s))
@[simp] theorem substitute_fst (s : State) (l c w : Nat) (old : CoreSt) : (s.substitute l c w old).fst = s.fst :=
  (unCore_fst _).symm.trans ((congrArg State.fst (substitute_unCore s l c w old)).trans (unCore_fst s))
@[simp] theorem substitute_lou (s : State) (l c w : Nat) (old : CoreSt) : (s.substitute l c w old).lou = s.lou :=
  (unCore_lou _).symm.trans ((congrArg State.lou (substitute_unCore s l c w old)).trans (unCore_lou s))
@[simp] theorem substitute_cxl (s : State) (l c w : Nat) (old : CoreSt) : (s.substitute l c w old).cxl = s.cxl :=
  (unCore_cxl _).symm.trans ((congrArg State.cxl (substitute_unCore s l c w old)).trans (unCore_cxl s))
@[simp] theorem substitute_cls (s : State) (l c w : Nat) (old : CoreSt) : (s.substitute l c w old).cls = s.cls :=
  (unCore_cls _).symm.trans ((congrArg State.cls (substitute_unCore s l c w old)).trans (unCore_cls s))
@[simp] theorem substitute_mgmt (s : State) (l c w : Nat) (old : CoreSt) : (s.substitute l c w old).mgmt = s.mgmt :=
  (unCore_mgmt _).symm.trans ((congrArg State.mgmt (substitute_unCore s l c w old)).trans (unCore_mgmt s))
@[simp] theorem substitute_sec (s : State) (l c w : Nat) (old : CoreSt) : (s.substitute l c w old).sec = s.sec :=
  (unCore_sec _).symm.trans ((congrArg State.sec (substitute_unCore s l c w old)).trans (unCore_sec s))
@[simp] theorem substitute_fields (s : State) (l c w : Nat) (old : CoreSt) : (s.substitute l c w old).fields = s.fields :=
  (unCore_fields _).symm.trans ((congrArg State.fields (substitute_unCore s l c w old)).trans (unCore_fields s))
@[simp] theorem substitute_jobs (s : State) (l c w : Nat) (old : CoreSt) : (s.substitute l c w old).jobs = s.jobs :=
  (unCore_jobs _).symm.trans ((congrArg State.jobs (substitute_unCore s l c w old)).trans (unCore_jobs s))
@[simp] theorem substitute_strands (s : State) (l c w : Nat) (old : CoreSt) : (s.substitute l c w old).strands = s.strands :=
  (unCore_strands _).symm.trans ((congrArg State.strands (substitute_unCore s l c w old)).trans (unCore_strands s))
@[simp] theorem substitute_mem (s : State) (l c w : Nat) (old : CoreSt) : (s.substitute l c w old).mem = s.mem :=
  (unCore_mem _).symm.trans ((congrArg State.mem (substitute_unCore s l c w old)).trans (unCore_mem s))
@[simp] theorem substitute_opTime (s : State) (l c w : Nat) (old : CoreSt) : (s.substitute l c w old).opTime = s.opTime :=
  (unCore_opTime _).symm.trans ((congrArg State.opTime (substitute_unCore s l c w old)).trans (unCore_opTime s))
@[simp] theorem substitute_pending (s : State) (l c w : Nat) (old : CoreSt) : (s.substitute l c w old).pending = s.pending :=
  (unCore_pending _).symm.trans ((congrArg State.pending (substitute_unCore s l c w old)).trans (unCore_pending s))

@[simp] theorem replaceCore_unCore (s : State) (l w : Nat) (old : CoreSt) : (s.replaceCore l w old).unCore = s.unCore := by
  simp only [State.replaceCore]
  split
  · simp
  · split <;> simp
@[simp] theorem replaceCore_part (s : State) (l w : Nat) (old : CoreSt) : (s.replaceCore l w old).part = s.part :=
  (unCore_part _).symm.trans ((congrArg State.part (replaceCore_unCore s l w old)).trans (unCore_part s))
@[simp] theorem replaceCore_pins (s : State) (l w : Nat) (old : CoreSt) : (s.replaceCore l w old).pins = s.pins :=
  (unCore_pins _).symm.trans ((congrArg State.pins (replaceCore_unCore s l w old)).trans (unCore_pins s))
@[simp] theorem replaceCore_cal (s : State) (l w : Nat) (old : CoreSt) : (s.replaceCore l w old).cal = s.cal :=
  (unCore_cal _).symm.trans ((congrArg State.cal (replaceCore_unCore s l w old)).trans (unCore_cal s))
@[simp] theorem replaceCore_regsShadow (s : State) (l w : Nat) (old : CoreSt) : (s.replaceCore l w old).regsShadow = s.regsShadow :=
  (unCore_regsShadow _).symm.trans ((congrArg State.regsShadow (replaceCore_unCore s l w old)).trans (unCore_regsShadow s))
@[simp] theorem replaceCore_asy (s : State) (l w : Nat) (old : CoreSt) : (s.replaceCore l w old).asy = s.asy :=
  (unCore_asy _).symm.trans ((congrArg State.asy (replaceCore_unCore s l w old)).trans (unCore_asy s))
@[simp] theorem replaceCore_clk (s : State) (l w : Nat) (old : CoreSt) : (s.replaceCore l w old).clk = s.clk :=
  (unCore_clk _).symm.trans ((congrArg State.clk (replaceCore_unCore s l w old)).trans (unCore_clk s))
@[simp] theorem replaceCore_thm (s : State) (l w : Nat) (old : CoreSt) : (s.replaceCore l w old).thm = s.thm :=
  (unCore_thm _).symm.trans ((congrArg State.thm (replaceCore_unCore s l w old)).trans (unCore_thm s))
@[simp] theorem replaceCore_alm (s : State) (l w : Nat) (old : CoreSt) : (s.replaceCore l w old).alm = s.alm :=
  (unCore_alm _).symm.trans ((congrArg State.alm (replaceCore_unCore s l w old)).trans (unCore_alm s))
@[simp] theorem replaceCore_lkt (s : State) (l w : Nat) (old : CoreSt) : (s.replaceCore l w old).lkt = s.lkt :=
  (unCore_lkt _).symm.trans ((congrArg State.lkt (replaceCore_unCore s l w old)).trans (unCore_lkt s))
@[simp] theorem replaceCore_fst (s : State) (l w : Nat) (old : CoreSt) : (s.replaceCore l w old).fst = s.fst :=
  (unCore_fst _).symm.trans ((congrArg State.fst (replaceCore_unCore s l w old)).trans (unCore_fst s))
@[simp] theorem replaceCore_lou (s : State) (l w : Nat) (old : CoreSt) : (s.replaceCore l w old).lou = s.lou :=
  (unCore_lou _).symm.trans ((congrArg State.lou (replaceCore_unCore s l w old)).trans (unCore_lou s))
@[simp] theorem replaceCore_cxl (s : State) (l w : Nat) (old : CoreSt) : (s.replaceCore l w old).cxl = s.cxl :=
  (unCore_cxl _).symm.trans ((congrArg State.cxl (replaceCore_unCore s l w old)).trans (unCore_cxl s))
@[simp] theorem replaceCore_cls (s : State) (l w : Nat) (old : CoreSt) : (s.replaceCore l w old).cls = s.cls :=
  (unCore_cls _).symm.trans ((congrArg State.cls (replaceCore_unCore s l w old)).trans (unCore_cls s))
@[simp] theorem replaceCore_mgmt (s : State) (l w : Nat) (old : CoreSt) : (s.replaceCore l w old).mgmt = s.mgmt :=
  (unCore_mgmt _).symm.trans ((congrArg State.mgmt (replaceCore_unCore s l w old)).trans (unCore_mgmt s))
@[simp] theorem replaceCore_sec (s : State) (l w : Nat) (old : CoreSt) : (s.replaceCore l w old).sec = s.sec :=
  (unCore_sec _).symm.trans ((congrArg State.sec (replaceCore_unCore s l w old)).trans (unCore_sec s))
@[simp] theorem replaceCore_fields (s : State) (l w : Nat) (old : CoreSt) : (s.replaceCore l w old).fields = s.fields :=
  (unCore_fields _).symm.trans ((congrArg State.fields (replaceCore_unCore s l w old)).trans (unCore_fields s))
@[simp] theorem replaceCore_jobs (s : State) (l w : Nat) (old : CoreSt) : (s.replaceCore l w old).jobs = s.jobs :=
  (unCore_jobs _).symm.trans ((congrArg State.jobs (replaceCore_unCore s l w old)).trans (unCore_jobs s))
@[simp] theorem replaceCore_strands (s : State) (l w : Nat) (old : CoreSt) : (s.replaceCore l w old).strands = s.strands :=
  (unCore_strands _).symm.trans ((congrArg State.strands (replaceCore_unCore s l w old)).trans (unCore_strands s))
@[simp] theorem replaceCore_mem (s : State) (l w : Nat) (old : CoreSt) : (s.replaceCore l w old).mem = s.mem :=
  (unCore_mem _).symm.trans ((congrArg State.mem (replaceCore_unCore s l w old)).trans (unCore_mem s))
@[simp] theorem replaceCore_opTime (s : State) (l w : Nat) (old : CoreSt) : (s.replaceCore l w old).opTime = s.opTime :=
  (unCore_opTime _).symm.trans ((congrArg State.opTime (replaceCore_unCore s l w old)).trans (unCore_opTime s))
@[simp] theorem replaceCore_pending (s : State) (l w : Nat) (old : CoreSt) : (s.replaceCore l w old).pending = s.pending :=
  (unCore_pending _).symm.trans ((congrArg State.pending (replaceCore_unCore s l w old)).trans (unCore_pending s))

@[simp] theorem retireCols_unCore (s : State) (c : Nat) : (s.retireCols c).unCore = s.unCore := by
  simp only [State.retireCols, modCore_unCore]
  exact foldl_keep State.unCore _ (fun s e => by simp) _ _
@[simp] theorem retireCols_part (s : State) (c : Nat) : (s.retireCols c).part = s.part :=
  (unCore_part _).symm.trans ((congrArg State.part (retireCols_unCore s c)).trans (unCore_part s))
@[simp] theorem retireCols_pins (s : State) (c : Nat) : (s.retireCols c).pins = s.pins :=
  (unCore_pins _).symm.trans ((congrArg State.pins (retireCols_unCore s c)).trans (unCore_pins s))
@[simp] theorem retireCols_cal (s : State) (c : Nat) : (s.retireCols c).cal = s.cal :=
  (unCore_cal _).symm.trans ((congrArg State.cal (retireCols_unCore s c)).trans (unCore_cal s))
@[simp] theorem retireCols_regsShadow (s : State) (c : Nat) : (s.retireCols c).regsShadow = s.regsShadow :=
  (unCore_regsShadow _).symm.trans ((congrArg State.regsShadow (retireCols_unCore s c)).trans (unCore_regsShadow s))
@[simp] theorem retireCols_asy (s : State) (c : Nat) : (s.retireCols c).asy = s.asy :=
  (unCore_asy _).symm.trans ((congrArg State.asy (retireCols_unCore s c)).trans (unCore_asy s))
@[simp] theorem retireCols_clk (s : State) (c : Nat) : (s.retireCols c).clk = s.clk :=
  (unCore_clk _).symm.trans ((congrArg State.clk (retireCols_unCore s c)).trans (unCore_clk s))
@[simp] theorem retireCols_thm (s : State) (c : Nat) : (s.retireCols c).thm = s.thm :=
  (unCore_thm _).symm.trans ((congrArg State.thm (retireCols_unCore s c)).trans (unCore_thm s))
@[simp] theorem retireCols_alm (s : State) (c : Nat) : (s.retireCols c).alm = s.alm :=
  (unCore_alm _).symm.trans ((congrArg State.alm (retireCols_unCore s c)).trans (unCore_alm s))
@[simp] theorem retireCols_lkt (s : State) (c : Nat) : (s.retireCols c).lkt = s.lkt :=
  (unCore_lkt _).symm.trans ((congrArg State.lkt (retireCols_unCore s c)).trans (unCore_lkt s))
@[simp] theorem retireCols_fst (s : State) (c : Nat) : (s.retireCols c).fst = s.fst :=
  (unCore_fst _).symm.trans ((congrArg State.fst (retireCols_unCore s c)).trans (unCore_fst s))
@[simp] theorem retireCols_lou (s : State) (c : Nat) : (s.retireCols c).lou = s.lou :=
  (unCore_lou _).symm.trans ((congrArg State.lou (retireCols_unCore s c)).trans (unCore_lou s))
@[simp] theorem retireCols_cxl (s : State) (c : Nat) : (s.retireCols c).cxl = s.cxl :=
  (unCore_cxl _).symm.trans ((congrArg State.cxl (retireCols_unCore s c)).trans (unCore_cxl s))
@[simp] theorem retireCols_cls (s : State) (c : Nat) : (s.retireCols c).cls = s.cls :=
  (unCore_cls _).symm.trans ((congrArg State.cls (retireCols_unCore s c)).trans (unCore_cls s))
@[simp] theorem retireCols_mgmt (s : State) (c : Nat) : (s.retireCols c).mgmt = s.mgmt :=
  (unCore_mgmt _).symm.trans ((congrArg State.mgmt (retireCols_unCore s c)).trans (unCore_mgmt s))
@[simp] theorem retireCols_sec (s : State) (c : Nat) : (s.retireCols c).sec = s.sec :=
  (unCore_sec _).symm.trans ((congrArg State.sec (retireCols_unCore s c)).trans (unCore_sec s))
@[simp] theorem retireCols_fields (s : State) (c : Nat) : (s.retireCols c).fields = s.fields :=
  (unCore_fields _).symm.trans ((congrArg State.fields (retireCols_unCore s c)).trans (unCore_fields s))
@[simp] theorem retireCols_jobs (s : State) (c : Nat) : (s.retireCols c).jobs = s.jobs :=
  (unCore_jobs _).symm.trans ((congrArg State.jobs (retireCols_unCore s c)).trans (unCore_jobs s))
@[simp] theorem retireCols_strands (s : State) (c : Nat) : (s.retireCols c).strands = s.strands :=
  (unCore_strands _).symm.trans ((congrArg State.strands (retireCols_unCore s c)).trans (unCore_strands s))
@[simp] theorem retireCols_mem (s : State) (c : Nat) : (s.retireCols c).mem = s.mem :=
  (unCore_mem _).symm.trans ((congrArg State.mem (retireCols_unCore s c)).trans (unCore_mem s))
@[simp] theorem retireCols_opTime (s : State) (c : Nat) : (s.retireCols c).opTime = s.opTime :=
  (unCore_opTime _).symm.trans ((congrArg State.opTime (retireCols_unCore s c)).trans (unCore_opTime s))
@[simp] theorem retireCols_pending (s : State) (c : Nat) : (s.retireCols c).pending = s.pending :=
  (unCore_pending _).symm.trans ((congrArg State.pending (retireCols_unCore s c)).trans (unCore_pending s))

@[simp] theorem remapBank_unCore (s : State) (c b : Nat) : (s.remapBank c b).unCore = s.unCore := by
  simp only [State.remapBank, markRetired_unCore, setCore_unCore]
  rfl
@[simp] theorem remapBank_part (s : State) (c b : Nat) : (s.remapBank c b).part = s.part :=
  (unCore_part _).symm.trans ((congrArg State.part (remapBank_unCore s c b)).trans (unCore_part s))
@[simp] theorem remapBank_pins (s : State) (c b : Nat) : (s.remapBank c b).pins = s.pins :=
  (unCore_pins _).symm.trans ((congrArg State.pins (remapBank_unCore s c b)).trans (unCore_pins s))
@[simp] theorem remapBank_cal (s : State) (c b : Nat) : (s.remapBank c b).cal = s.cal :=
  (unCore_cal _).symm.trans ((congrArg State.cal (remapBank_unCore s c b)).trans (unCore_cal s))
@[simp] theorem remapBank_regsShadow (s : State) (c b : Nat) : (s.remapBank c b).regsShadow = s.regsShadow :=
  (unCore_regsShadow _).symm.trans ((congrArg State.regsShadow (remapBank_unCore s c b)).trans (unCore_regsShadow s))
@[simp] theorem remapBank_asy (s : State) (c b : Nat) : (s.remapBank c b).asy = s.asy :=
  (unCore_asy _).symm.trans ((congrArg State.asy (remapBank_unCore s c b)).trans (unCore_asy s))
@[simp] theorem remapBank_clk (s : State) (c b : Nat) : (s.remapBank c b).clk = s.clk :=
  (unCore_clk _).symm.trans ((congrArg State.clk (remapBank_unCore s c b)).trans (unCore_clk s))
@[simp] theorem remapBank_thm (s : State) (c b : Nat) : (s.remapBank c b).thm = s.thm :=
  (unCore_thm _).symm.trans ((congrArg State.thm (remapBank_unCore s c b)).trans (unCore_thm s))
@[simp] theorem remapBank_alm (s : State) (c b : Nat) : (s.remapBank c b).alm = s.alm :=
  (unCore_alm _).symm.trans ((congrArg State.alm (remapBank_unCore s c b)).trans (unCore_alm s))
@[simp] theorem remapBank_lkt (s : State) (c b : Nat) : (s.remapBank c b).lkt = s.lkt :=
  (unCore_lkt _).symm.trans ((congrArg State.lkt (remapBank_unCore s c b)).trans (unCore_lkt s))
@[simp] theorem remapBank_fst (s : State) (c b : Nat) : (s.remapBank c b).fst = s.fst :=
  (unCore_fst _).symm.trans ((congrArg State.fst (remapBank_unCore s c b)).trans (unCore_fst s))
@[simp] theorem remapBank_lou (s : State) (c b : Nat) : (s.remapBank c b).lou = s.lou :=
  (unCore_lou _).symm.trans ((congrArg State.lou (remapBank_unCore s c b)).trans (unCore_lou s))
@[simp] theorem remapBank_cxl (s : State) (c b : Nat) : (s.remapBank c b).cxl = s.cxl :=
  (unCore_cxl _).symm.trans ((congrArg State.cxl (remapBank_unCore s c b)).trans (unCore_cxl s))
@[simp] theorem remapBank_cls (s : State) (c b : Nat) : (s.remapBank c b).cls = s.cls :=
  (unCore_cls _).symm.trans ((congrArg State.cls (remapBank_unCore s c b)).trans (unCore_cls s))
@[simp] theorem remapBank_mgmt (s : State) (c b : Nat) : (s.remapBank c b).mgmt = s.mgmt :=
  (unCore_mgmt _).symm.trans ((congrArg State.mgmt (remapBank_unCore s c b)).trans (unCore_mgmt s))
@[simp] theorem remapBank_sec (s : State) (c b : Nat) : (s.remapBank c b).sec = s.sec :=
  (unCore_sec _).symm.trans ((congrArg State.sec (remapBank_unCore s c b)).trans (unCore_sec s))
@[simp] theorem remapBank_fields (s : State) (c b : Nat) : (s.remapBank c b).fields = s.fields :=
  (unCore_fields _).symm.trans ((congrArg State.fields (remapBank_unCore s c b)).trans (unCore_fields s))
@[simp] theorem remapBank_jobs (s : State) (c b : Nat) : (s.remapBank c b).jobs = s.jobs :=
  (unCore_jobs _).symm.trans ((congrArg State.jobs (remapBank_unCore s c b)).trans (unCore_jobs s))
@[simp] theorem remapBank_strands (s : State) (c b : Nat) : (s.remapBank c b).strands = s.strands :=
  (unCore_strands _).symm.trans ((congrArg State.strands (remapBank_unCore s c b)).trans (unCore_strands s))
@[simp] theorem remapBank_mem (s : State) (c b : Nat) : (s.remapBank c b).mem = s.mem :=
  (unCore_mem _).symm.trans ((congrArg State.mem (remapBank_unCore s c b)).trans (unCore_mem s))
@[simp] theorem remapBank_opTime (s : State) (c b : Nat) : (s.remapBank c b).opTime = s.opTime :=
  (unCore_opTime _).symm.trans ((congrArg State.opTime (remapBank_unCore s c b)).trans (unCore_opTime s))
@[simp] theorem remapBank_pending (s : State) (c b : Nat) : (s.remapBank c b).pending = s.pending :=
  (unCore_pending _).symm.trans ((congrArg State.pending (remapBank_unCore s c b)).trans (unCore_pending s))

@[simp] theorem retireUnits_unCore (s : State) (c : Nat) : (s.retireUnits c).unCore = s.unCore := by
  simp only [State.retireUnits]
  rw [foldl_keep State.unCore _ (fun s e => by simp), retireCols_unCore]
@[simp] theorem retireUnits_part (s : State) (c : Nat) : (s.retireUnits c).part = s.part :=
  (unCore_part _).symm.trans ((congrArg State.part (retireUnits_unCore s c)).trans (unCore_part s))
@[simp] theorem retireUnits_pins (s : State) (c : Nat) : (s.retireUnits c).pins = s.pins :=
  (unCore_pins _).symm.trans ((congrArg State.pins (retireUnits_unCore s c)).trans (unCore_pins s))
@[simp] theorem retireUnits_cal (s : State) (c : Nat) : (s.retireUnits c).cal = s.cal :=
  (unCore_cal _).symm.trans ((congrArg State.cal (retireUnits_unCore s c)).trans (unCore_cal s))
@[simp] theorem retireUnits_regsShadow (s : State) (c : Nat) : (s.retireUnits c).regsShadow = s.regsShadow :=
  (unCore_regsShadow _).symm.trans ((congrArg State.regsShadow (retireUnits_unCore s c)).trans (unCore_regsShadow s))
@[simp] theorem retireUnits_asy (s : State) (c : Nat) : (s.retireUnits c).asy = s.asy :=
  (unCore_asy _).symm.trans ((congrArg State.asy (retireUnits_unCore s c)).trans (unCore_asy s))
@[simp] theorem retireUnits_clk (s : State) (c : Nat) : (s.retireUnits c).clk = s.clk :=
  (unCore_clk _).symm.trans ((congrArg State.clk (retireUnits_unCore s c)).trans (unCore_clk s))
@[simp] theorem retireUnits_thm (s : State) (c : Nat) : (s.retireUnits c).thm = s.thm :=
  (unCore_thm _).symm.trans ((congrArg State.thm (retireUnits_unCore s c)).trans (unCore_thm s))
@[simp] theorem retireUnits_alm (s : State) (c : Nat) : (s.retireUnits c).alm = s.alm :=
  (unCore_alm _).symm.trans ((congrArg State.alm (retireUnits_unCore s c)).trans (unCore_alm s))
@[simp] theorem retireUnits_lkt (s : State) (c : Nat) : (s.retireUnits c).lkt = s.lkt :=
  (unCore_lkt _).symm.trans ((congrArg State.lkt (retireUnits_unCore s c)).trans (unCore_lkt s))
@[simp] theorem retireUnits_fst (s : State) (c : Nat) : (s.retireUnits c).fst = s.fst :=
  (unCore_fst _).symm.trans ((congrArg State.fst (retireUnits_unCore s c)).trans (unCore_fst s))
@[simp] theorem retireUnits_lou (s : State) (c : Nat) : (s.retireUnits c).lou = s.lou :=
  (unCore_lou _).symm.trans ((congrArg State.lou (retireUnits_unCore s c)).trans (unCore_lou s))
@[simp] theorem retireUnits_cxl (s : State) (c : Nat) : (s.retireUnits c).cxl = s.cxl :=
  (unCore_cxl _).symm.trans ((congrArg State.cxl (retireUnits_unCore s c)).trans (unCore_cxl s))
@[simp] theorem retireUnits_cls (s : State) (c : Nat) : (s.retireUnits c).cls = s.cls :=
  (unCore_cls _).symm.trans ((congrArg State.cls (retireUnits_unCore s c)).trans (unCore_cls s))
@[simp] theorem retireUnits_mgmt (s : State) (c : Nat) : (s.retireUnits c).mgmt = s.mgmt :=
  (unCore_mgmt _).symm.trans ((congrArg State.mgmt (retireUnits_unCore s c)).trans (unCore_mgmt s))
@[simp] theorem retireUnits_sec (s : State) (c : Nat) : (s.retireUnits c).sec = s.sec :=
  (unCore_sec _).symm.trans ((congrArg State.sec (retireUnits_unCore s c)).trans (unCore_sec s))
@[simp] theorem retireUnits_fields (s : State) (c : Nat) : (s.retireUnits c).fields = s.fields :=
  (unCore_fields _).symm.trans ((congrArg State.fields (retireUnits_unCore s c)).trans (unCore_fields s))
@[simp] theorem retireUnits_jobs (s : State) (c : Nat) : (s.retireUnits c).jobs = s.jobs :=
  (unCore_jobs _).symm.trans ((congrArg State.jobs (retireUnits_unCore s c)).trans (unCore_jobs s))
@[simp] theorem retireUnits_strands (s : State) (c : Nat) : (s.retireUnits c).strands = s.strands :=
  (unCore_strands _).symm.trans ((congrArg State.strands (retireUnits_unCore s c)).trans (unCore_strands s))
@[simp] theorem retireUnits_mem (s : State) (c : Nat) : (s.retireUnits c).mem = s.mem :=
  (unCore_mem _).symm.trans ((congrArg State.mem (retireUnits_unCore s c)).trans (unCore_mem s))
@[simp] theorem retireUnits_opTime (s : State) (c : Nat) : (s.retireUnits c).opTime = s.opTime :=
  (unCore_opTime _).symm.trans ((congrArg State.opTime (retireUnits_unCore s c)).trans (unCore_opTime s))
@[simp] theorem retireUnits_pending (s : State) (c : Nat) : (s.retireUnits c).pending = s.pending :=
  (unCore_pending _).symm.trans ((congrArg State.pending (retireUnits_unCore s c)).trans (unCore_pending s))

@[simp] theorem retireWhole_unCore (s : State) (l c : Nat) : (s.retireWhole l c).unCore = s.unCore := by
  unfold State.retireWhole
  lift_lets
  intro old s1 s2 gn s3
  have h3 : s3.unCore = s.unCore := by
    simp only [s3]
    rw [replaceCore_unCore]
    show s2.unCore = _
    rw [modRegion_unCore, modCore_unCore]
  split
  · rw [publish_unCore, h3]
  · exact h3
@[simp] theorem retireWhole_part (s : State) (l c : Nat) : (s.retireWhole l c).part = s.part :=
  (unCore_part _).symm.trans ((congrArg State.part (retireWhole_unCore s l c)).trans (unCore_part s))
@[simp] theorem retireWhole_pins (s : State) (l c : Nat) : (s.retireWhole l c).pins = s.pins :=
  (unCore_pins _).symm.trans ((congrArg State.pins (retireWhole_unCore s l c)).trans (unCore_pins s))
@[simp] theorem retireWhole_cal (s : State) (l c : Nat) : (s.retireWhole l c).cal = s.cal :=
  (unCore_cal _).symm.trans ((congrArg State.cal (retireWhole_unCore s l c)).trans (unCore_cal s))
@[simp] theorem retireWhole_regsShadow (s : State) (l c : Nat) : (s.retireWhole l c).regsShadow = s.regsShadow :=
  (unCore_regsShadow _).symm.trans ((congrArg State.regsShadow (retireWhole_unCore s l c)).trans (unCore_regsShadow s))
@[simp] theorem retireWhole_asy (s : State) (l c : Nat) : (s.retireWhole l c).asy = s.asy :=
  (unCore_asy _).symm.trans ((congrArg State.asy (retireWhole_unCore s l c)).trans (unCore_asy s))
@[simp] theorem retireWhole_clk (s : State) (l c : Nat) : (s.retireWhole l c).clk = s.clk :=
  (unCore_clk _).symm.trans ((congrArg State.clk (retireWhole_unCore s l c)).trans (unCore_clk s))
@[simp] theorem retireWhole_thm (s : State) (l c : Nat) : (s.retireWhole l c).thm = s.thm :=
  (unCore_thm _).symm.trans ((congrArg State.thm (retireWhole_unCore s l c)).trans (unCore_thm s))
@[simp] theorem retireWhole_alm (s : State) (l c : Nat) : (s.retireWhole l c).alm = s.alm :=
  (unCore_alm _).symm.trans ((congrArg State.alm (retireWhole_unCore s l c)).trans (unCore_alm s))
@[simp] theorem retireWhole_lkt (s : State) (l c : Nat) : (s.retireWhole l c).lkt = s.lkt :=
  (unCore_lkt _).symm.trans ((congrArg State.lkt (retireWhole_unCore s l c)).trans (unCore_lkt s))
@[simp] theorem retireWhole_fst (s : State) (l c : Nat) : (s.retireWhole l c).fst = s.fst :=
  (unCore_fst _).symm.trans ((congrArg State.fst (retireWhole_unCore s l c)).trans (unCore_fst s))
@[simp] theorem retireWhole_lou (s : State) (l c : Nat) : (s.retireWhole l c).lou = s.lou :=
  (unCore_lou _).symm.trans ((congrArg State.lou (retireWhole_unCore s l c)).trans (unCore_lou s))
@[simp] theorem retireWhole_cxl (s : State) (l c : Nat) : (s.retireWhole l c).cxl = s.cxl :=
  (unCore_cxl _).symm.trans ((congrArg State.cxl (retireWhole_unCore s l c)).trans (unCore_cxl s))
@[simp] theorem retireWhole_cls (s : State) (l c : Nat) : (s.retireWhole l c).cls = s.cls :=
  (unCore_cls _).symm.trans ((congrArg State.cls (retireWhole_unCore s l c)).trans (unCore_cls s))
@[simp] theorem retireWhole_mgmt (s : State) (l c : Nat) : (s.retireWhole l c).mgmt = s.mgmt :=
  (unCore_mgmt _).symm.trans ((congrArg State.mgmt (retireWhole_unCore s l c)).trans (unCore_mgmt s))
@[simp] theorem retireWhole_sec (s : State) (l c : Nat) : (s.retireWhole l c).sec = s.sec :=
  (unCore_sec _).symm.trans ((congrArg State.sec (retireWhole_unCore s l c)).trans (unCore_sec s))
@[simp] theorem retireWhole_fields (s : State) (l c : Nat) : (s.retireWhole l c).fields = s.fields :=
  (unCore_fields _).symm.trans ((congrArg State.fields (retireWhole_unCore s l c)).trans (unCore_fields s))
@[simp] theorem retireWhole_jobs (s : State) (l c : Nat) : (s.retireWhole l c).jobs = s.jobs :=
  (unCore_jobs _).symm.trans ((congrArg State.jobs (retireWhole_unCore s l c)).trans (unCore_jobs s))
@[simp] theorem retireWhole_strands (s : State) (l c : Nat) : (s.retireWhole l c).strands = s.strands :=
  (unCore_strands _).symm.trans ((congrArg State.strands (retireWhole_unCore s l c)).trans (unCore_strands s))
@[simp] theorem retireWhole_mem (s : State) (l c : Nat) : (s.retireWhole l c).mem = s.mem :=
  (unCore_mem _).symm.trans ((congrArg State.mem (retireWhole_unCore s l c)).trans (unCore_mem s))
@[simp] theorem retireWhole_opTime (s : State) (l c : Nat) : (s.retireWhole l c).opTime = s.opTime :=
  (unCore_opTime _).symm.trans ((congrArg State.opTime (retireWhole_unCore s l c)).trans (unCore_opTime s))
@[simp] theorem retireWhole_pending (s : State) (l c : Nat) : (s.retireWhole l c).pending = s.pending :=
  (unCore_pending _).symm.trans ((congrArg State.pending (retireWhole_unCore s l c)).trans (unCore_pending s))

@[simp] theorem boundary_unCore (s : State) (l : Nat) : (s.boundary l).unCore = s.unCore := by
  unfold State.boundary
  split
  · rfl
  · lift_lets
    intro now s1 s2
    have h1 : s1.unCore = s.unCore := by
      simp only [s1]
      split <;> simp
    have h2 : s2.unCore = s.unCore := by rw [modCore_unCore, h1]
    repeat' split
    · rfl
    · rw [publish_unCore, h2]
    · rw [retireWhole_unCore, h2]
@[simp] theorem boundary_part (s : State) (l : Nat) : (s.boundary l).part = s.part :=
  (unCore_part _).symm.trans ((congrArg State.part (boundary_unCore s l)).trans (unCore_part s))
@[simp] theorem boundary_pins (s : State) (l : Nat) : (s.boundary l).pins = s.pins :=
  (unCore_pins _).symm.trans ((congrArg State.pins (boundary_unCore s l)).trans (unCore_pins s))
@[simp] theorem boundary_cal (s : State) (l : Nat) : (s.boundary l).cal = s.cal :=
  (unCore_cal _).symm.trans ((congrArg State.cal (boundary_unCore s l)).trans (unCore_cal s))
@[simp] theorem boundary_regsShadow (s : State) (l : Nat) : (s.boundary l).regsShadow = s.regsShadow :=
  (unCore_regsShadow _).symm.trans ((congrArg State.regsShadow (boundary_unCore s l)).trans (unCore_regsShadow s))
@[simp] theorem boundary_asy (s : State) (l : Nat) : (s.boundary l).asy = s.asy :=
  (unCore_asy _).symm.trans ((congrArg State.asy (boundary_unCore s l)).trans (unCore_asy s))
@[simp] theorem boundary_clk (s : State) (l : Nat) : (s.boundary l).clk = s.clk :=
  (unCore_clk _).symm.trans ((congrArg State.clk (boundary_unCore s l)).trans (unCore_clk s))
@[simp] theorem boundary_thm (s : State) (l : Nat) : (s.boundary l).thm = s.thm :=
  (unCore_thm _).symm.trans ((congrArg State.thm (boundary_unCore s l)).trans (unCore_thm s))
@[simp] theorem boundary_alm (s : State) (l : Nat) : (s.boundary l).alm = s.alm :=
  (unCore_alm _).symm.trans ((congrArg State.alm (boundary_unCore s l)).trans (unCore_alm s))
@[simp] theorem boundary_lkt (s : State) (l : Nat) : (s.boundary l).lkt = s.lkt :=
  (unCore_lkt _).symm.trans ((congrArg State.lkt (boundary_unCore s l)).trans (unCore_lkt s))
@[simp] theorem boundary_fst (s : State) (l : Nat) : (s.boundary l).fst = s.fst :=
  (unCore_fst _).symm.trans ((congrArg State.fst (boundary_unCore s l)).trans (unCore_fst s))
@[simp] theorem boundary_lou (s : State) (l : Nat) : (s.boundary l).lou = s.lou :=
  (unCore_lou _).symm.trans ((congrArg State.lou (boundary_unCore s l)).trans (unCore_lou s))
@[simp] theorem boundary_cxl (s : State) (l : Nat) : (s.boundary l).cxl = s.cxl :=
  (unCore_cxl _).symm.trans ((congrArg State.cxl (boundary_unCore s l)).trans (unCore_cxl s))
@[simp] theorem boundary_cls (s : State) (l : Nat) : (s.boundary l).cls = s.cls :=
  (unCore_cls _).symm.trans ((congrArg State.cls (boundary_unCore s l)).trans (unCore_cls s))
@[simp] theorem boundary_mgmt (s : State) (l : Nat) : (s.boundary l).mgmt = s.mgmt :=
  (unCore_mgmt _).symm.trans ((congrArg State.mgmt (boundary_unCore s l)).trans (unCore_mgmt s))
@[simp] theorem boundary_sec (s : State) (l : Nat) : (s.boundary l).sec = s.sec :=
  (unCore_sec _).symm.trans ((congrArg State.sec (boundary_unCore s l)).trans (unCore_sec s))
@[simp] theorem boundary_fields (s : State) (l : Nat) : (s.boundary l).fields = s.fields :=
  (unCore_fields _).symm.trans ((congrArg State.fields (boundary_unCore s l)).trans (unCore_fields s))
@[simp] theorem boundary_jobs (s : State) (l : Nat) : (s.boundary l).jobs = s.jobs :=
  (unCore_jobs _).symm.trans ((congrArg State.jobs (boundary_unCore s l)).trans (unCore_jobs s))
@[simp] theorem boundary_strands (s : State) (l : Nat) : (s.boundary l).strands = s.strands :=
  (unCore_strands _).symm.trans ((congrArg State.strands (boundary_unCore s l)).trans (unCore_strands s))
@[simp] theorem boundary_mem (s : State) (l : Nat) : (s.boundary l).mem = s.mem :=
  (unCore_mem _).symm.trans ((congrArg State.mem (boundary_unCore s l)).trans (unCore_mem s))
@[simp] theorem boundary_opTime (s : State) (l : Nat) : (s.boundary l).opTime = s.opTime :=
  (unCore_opTime _).symm.trans ((congrArg State.opTime (boundary_unCore s l)).trans (unCore_opTime s))
@[simp] theorem boundary_pending (s : State) (l : Nat) : (s.boundary l).pending = s.pending :=
  (unCore_pending _).symm.trans ((congrArg State.pending (boundary_unCore s l)).trans (unCore_pending s))

@[simp] theorem settleCore_unCore (s : State) (c : Nat) : (s.settleCore c).unCore = s.unCore := by
  simp only [State.settleCore]
  repeat' split
  all_goals simp
@[simp] theorem settleCore_part (s : State) (c : Nat) : (s.settleCore c).part = s.part :=
  (unCore_part _).symm.trans ((congrArg State.part (settleCore_unCore s c)).trans (unCore_part s))
@[simp] theorem settleCore_pins (s : State) (c : Nat) : (s.settleCore c).pins = s.pins :=
  (unCore_pins _).symm.trans ((congrArg State.pins (settleCore_unCore s c)).trans (unCore_pins s))
@[simp] theorem settleCore_cal (s : State) (c : Nat) : (s.settleCore c).cal = s.cal :=
  (unCore_cal _).symm.trans ((congrArg State.cal (settleCore_unCore s c)).trans (unCore_cal s))
@[simp] theorem settleCore_regsShadow (s : State) (c : Nat) : (s.settleCore c).regsShadow = s.regsShadow :=
  (unCore_regsShadow _).symm.trans ((congrArg State.regsShadow (settleCore_unCore s c)).trans (unCore_regsShadow s))
@[simp] theorem settleCore_asy (s : State) (c : Nat) : (s.settleCore c).asy = s.asy :=
  (unCore_asy _).symm.trans ((congrArg State.asy (settleCore_unCore s c)).trans (unCore_asy s))
@[simp] theorem settleCore_clk (s : State) (c : Nat) : (s.settleCore c).clk = s.clk :=
  (unCore_clk _).symm.trans ((congrArg State.clk (settleCore_unCore s c)).trans (unCore_clk s))
@[simp] theorem settleCore_thm (s : State) (c : Nat) : (s.settleCore c).thm = s.thm :=
  (unCore_thm _).symm.trans ((congrArg State.thm (settleCore_unCore s c)).trans (unCore_thm s))
@[simp] theorem settleCore_alm (s : State) (c : Nat) : (s.settleCore c).alm = s.alm :=
  (unCore_alm _).symm.trans ((congrArg State.alm (settleCore_unCore s c)).trans (unCore_alm s))
@[simp] theorem settleCore_lkt (s : State) (c : Nat) : (s.settleCore c).lkt = s.lkt :=
  (unCore_lkt _).symm.trans ((congrArg State.lkt (settleCore_unCore s c)).trans (unCore_lkt s))
@[simp] theorem settleCore_fst (s : State) (c : Nat) : (s.settleCore c).fst = s.fst :=
  (unCore_fst _).symm.trans ((congrArg State.fst (settleCore_unCore s c)).trans (unCore_fst s))
@[simp] theorem settleCore_lou (s : State) (c : Nat) : (s.settleCore c).lou = s.lou :=
  (unCore_lou _).symm.trans ((congrArg State.lou (settleCore_unCore s c)).trans (unCore_lou s))
@[simp] theorem settleCore_cxl (s : State) (c : Nat) : (s.settleCore c).cxl = s.cxl :=
  (unCore_cxl _).symm.trans ((congrArg State.cxl (settleCore_unCore s c)).trans (unCore_cxl s))
@[simp] theorem settleCore_cls (s : State) (c : Nat) : (s.settleCore c).cls = s.cls :=
  (unCore_cls _).symm.trans ((congrArg State.cls (settleCore_unCore s c)).trans (unCore_cls s))
@[simp] theorem settleCore_mgmt (s : State) (c : Nat) : (s.settleCore c).mgmt = s.mgmt :=
  (unCore_mgmt _).symm.trans ((congrArg State.mgmt (settleCore_unCore s c)).trans (unCore_mgmt s))
@[simp] theorem settleCore_sec (s : State) (c : Nat) : (s.settleCore c).sec = s.sec :=
  (unCore_sec _).symm.trans ((congrArg State.sec (settleCore_unCore s c)).trans (unCore_sec s))
@[simp] theorem settleCore_fields (s : State) (c : Nat) : (s.settleCore c).fields = s.fields :=
  (unCore_fields _).symm.trans ((congrArg State.fields (settleCore_unCore s c)).trans (unCore_fields s))
@[simp] theorem settleCore_jobs (s : State) (c : Nat) : (s.settleCore c).jobs = s.jobs :=
  (unCore_jobs _).symm.trans ((congrArg State.jobs (settleCore_unCore s c)).trans (unCore_jobs s))
@[simp] theorem settleCore_strands (s : State) (c : Nat) : (s.settleCore c).strands = s.strands :=
  (unCore_strands _).symm.trans ((congrArg State.strands (settleCore_unCore s c)).trans (unCore_strands s))
@[simp] theorem settleCore_mem (s : State) (c : Nat) : (s.settleCore c).mem = s.mem :=
  (unCore_mem _).symm.trans ((congrArg State.mem (settleCore_unCore s c)).trans (unCore_mem s))
@[simp] theorem settleCore_opTime (s : State) (c : Nat) : (s.settleCore c).opTime = s.opTime :=
  (unCore_opTime _).symm.trans ((congrArg State.opTime (settleCore_unCore s c)).trans (unCore_opTime s))
@[simp] theorem settleCore_pending (s : State) (c : Nat) : (s.settleCore c).pending = s.pending :=
  (unCore_pending _).symm.trans ((congrArg State.pending (settleCore_unCore s c)).trans (unCore_pending s))

theorem boundaries_unCore (ls : List Nat) (s : State) : (ls.foldl (fun s l => s.boundary l) s).unCore = s.unCore :=
  foldl_keep State.unCore _ (fun s l => boundary_unCore s l) ls s

theorem wakeCores_unCore' (ls : List Nat) (s : State) : (ls.foldl (fun s l =>
    match s.phys l with
    | some c => if (s.region c).heat then s else s.powerUp c
    | none => s) s).unCore = s.unCore := by
  refine foldl_keep State.unCore _ (fun s l => ?_) ls s
  repeat' split
  all_goals simp

end Sys2Proof.Machine
end

