-- ==== Sys2Proof/Laws/Memory.lean ====
section
/-! SUPPORT. The byte stores: what a read finds after a write, and that a write keeps the canonical form. -/

namespace Sys2Proof.Machine

@[simp] theorem Memory.get?_nil (x : Nat) : Memory.get? [] x = none := rfl

theorem Memory.get?_cons (c : Host.Cell) (m : List Host.Cell) (x : Nat) :
    Memory.get? (c :: m) x = if c.1 = x then some c.2 else Memory.get? m x := by
  by_cases h : c.1 = x <;> simp [Memory.get?, h]

theorem Memory.get?_append (m n : List Host.Cell) (x : Nat) :
    Memory.get? (m ++ n) x = (Memory.get? m x).or (Memory.get? n x) := by
  induction m with
  | nil => simp
  | cons c m ih => by_cases h : c.1 = x <;> simp [Memory.get?_cons, h, ih]

theorem Memory.get?_filter (m : List Host.Cell) (p : Nat → Bool) (x : Nat) :
    Memory.get? (m.filter (fun c => p c.1)) x = if p x then Memory.get? m x else none := by
  induction m with
  | nil => simp
  | cons c m ih =>
    by_cases hp : p c.1 = true <;> by_cases h : c.1 = x
    · subst h; simp [hp, Memory.get?_cons]
    · simp [hp, Memory.get?_cons, h, ih]
    · subst h; simp [hp, ih]
    · simp [hp, Memory.get?_cons, h, ih]

theorem Memory.get?_cells (d : Option Byte) (a : Nat) (bs : List Byte) (x : Nat) :
    Memory.get? (Memory.cells d a bs) x =
      if a ≤ x ∧ x < a + bs.length then (bs[x - a]?).filter (fun b => d != some b) else none := by
  induction bs generalizing a with
  | nil =>
    have : ¬ (a ≤ x ∧ x < a + 0) := by omega
    simp [Memory.cells]
  | cons b bs ih =>
    by_cases hx : a = x
    · subst hx
      by_cases hd : d = some b
      · subst hd
        have h := ih (a + 1)
        rw [if_neg (by omega)] at h
        simp [Memory.cells, h, Option.filter]
      · have : (d != some b) = true := by simpa using hd
        simp [Memory.cells, hd, Memory.get?_cons, Option.filter, this]
    · have hc : Memory.get? (Memory.cells d a (b :: bs)) x = Memory.get? (Memory.cells d (a + 1) bs) x := by
        by_cases hd : d = some b <;> simp [Memory.cells, hd, Memory.get?_cons, hx]
      rw [hc, ih]
      by_cases h : a + 1 ≤ x ∧ x < a + 1 + bs.length
      · rw [if_pos h, if_pos (by simp only [List.length_cons]; omega)]
        have : x - a = (x - (a + 1)) + 1 := by omega
        rw [this, List.getElem?_cons_succ]
      · rw [if_neg h, if_neg (by simp only [List.length_cons]; omega)]

/-- A byte after a write: the byte written, none where it is what an unlisted address reads as; every other address
reads as before. -/
theorem Memory.get?_write (d : Option Byte) (m : List Host.Cell) (a : Nat) (bs : List Byte) (x : Nat) :
    Memory.get? (Memory.write d m a bs) x =
      if a ≤ x ∧ x < a + bs.length then (bs[x - a]?).filter (fun b => d != some b) else Memory.get? m x := by
  have h1 := Memory.get?_filter m (fun c => decide (c < a)) x
  have h2 := Memory.get?_filter m (fun c => decide (a + bs.length ≤ c)) x
  simp only [Memory.write, Memory.get?_append, h1, h2, Memory.get?_cells]
  by_cases hl : x < a
  · have n1 : ¬ (a ≤ x ∧ x < a + bs.length) := by omega
    have n2 : ¬ (a + bs.length ≤ x) := by omega
    simp [hl, n1, n2]
  · by_cases hr : a + bs.length ≤ x
    · have n1 : ¬ (a ≤ x ∧ x < a + bs.length) := by omega
      simp [hl, hr, n1]
    · have n1 : a ≤ x ∧ x < a + bs.length := by omega
      simp [hl, hr, n1]

/-- A write leaves every address outside its bytes alone. -/
theorem Memory.get?_write_other (d : Option Byte) (m : List Host.Cell) (a : Nat) (bs : List Byte) (x : Nat)
    (h : ¬ (a ≤ x ∧ x < a + bs.length)) : Memory.get? (Memory.write d m a bs) x = Memory.get? m x := by
  rw [Memory.get?_write, if_neg h]

/-- A byte of a zero-filled store after a write. -/
theorem zget_zwrite (m : List Host.Cell) (a : Nat) (bs : List Byte) (x : Nat) :
    (Memory.get? (zwrite m a bs) x).getD 0 =
      if a ≤ x ∧ x < a + bs.length then (bs[x - a]?).getD 0 else (Memory.get? m x).getD 0 := by
  rw [zwrite, Memory.get?_write]
  by_cases h : a ≤ x ∧ x < a + bs.length
  · rw [if_pos h, if_pos h]
    cases hb : bs[x - a]? with
    | none => rfl
    | some b =>
      by_cases h0 : b = 0
      · subst h0; rfl
      · have : ¬ (0#8 = b) := fun h => h0 h.symm
        simp [Option.filter, this]
  · rw [if_neg h, if_neg h]

/-! ## The canonical form -/

/-- The canonical form as one condition on the list. -/
theorem Memory.wf_iff (d : Option Byte) (m : List Host.Cell) :
    Memory.wf d m = true ↔ m.Pairwise (fun c e => c.1 < e.1) ∧ ∀ c ∈ m, d ≠ some c.2 := by
  induction m with
  | nil => simp [Memory.wf]
  | cons c m ih =>
    cases m with
    | nil => simp [Memory.wf]
    | cons e m =>
      simp only [Memory.wf, Bool.and_eq_true, bne_iff_ne, ne_eq, decide_eq_true_eq]
      rw [ih]
      constructor
      · rintro ⟨⟨h1, h2⟩, h3, h4⟩
        refine ⟨List.pairwise_cons.2 ⟨?_, h3⟩, ?_⟩
        · intro x hx
          rcases List.mem_cons.1 hx with rfl | hx
          · exact h2
          · exact Nat.lt_trans h2 ((List.pairwise_cons.1 h3).1 x hx)
        · intro x hx
          rcases List.mem_cons.1 hx with rfl | hx
          · exact h1
          · exact h4 x hx
      · rintro ⟨h1, h2⟩
        obtain ⟨h3, h4⟩ := List.pairwise_cons.1 h1
        exact ⟨⟨h2 c (by simp), h3 e (by simp)⟩, h4, fun x hx => h2 x (List.mem_cons_of_mem _ hx)⟩

theorem Memory.cells_bounds (d : Option Byte) (a : Nat) (bs : List Byte) :
    (Memory.cells d a bs).Pairwise (fun c e => c.1 < e.1) ∧
      ∀ c ∈ Memory.cells d a bs, a ≤ c.1 ∧ c.1 < a + bs.length ∧ d ≠ some c.2 := by
  induction bs generalizing a with
  | nil => simp [Memory.cells]
  | cons b bs ih =>
    obtain ⟨h1, h2⟩ := ih (a + 1)
    by_cases hd : d = some b
    · simp only [Memory.cells, hd, ↓reduceIte] at h1 h2 ⊢
      refine ⟨h1, fun c hc => ?_⟩
      obtain ⟨p, q, r⟩ := h2 c hc
      simp only [List.length_cons]
      exact ⟨by omega, by omega, r⟩
    · simp only [Memory.cells, hd, ↓reduceIte, List.mem_cons, List.length_cons]
      refine ⟨List.pairwise_cons.2 ⟨fun c hc => ?_, h1⟩, ?_⟩
      · have := (h2 c hc).1
        show a < c.1
        omega
      · rintro c (rfl | hc)
        · exact ⟨Nat.le_refl _, by omega, hd⟩
        · obtain ⟨p, q, r⟩ := h2 c hc
          exact ⟨by omega, by omega, r⟩

/-- A part of a store in canonical form is in it. -/
theorem Memory.wf_filter (d : Option Byte) (m : List Host.Cell) (p : Host.Cell → Bool) (h : Memory.wf d m = true) :
    Memory.wf d (m.filter p) = true := by
  rw [Memory.wf_iff] at h ⊢
  exact ⟨h.1.filter p, fun c hc => h.2 c (List.mem_filter.1 hc).1⟩

/-- A write keeps the canonical form. -/
theorem Memory.wf_write (d : Option Byte) (m : List Host.Cell) (a : Nat) (bs : List Byte) (h : Memory.wf d m = true) :
    Memory.wf d (Memory.write d m a bs) = true := by
  rw [Memory.wf_iff] at h ⊢
  obtain ⟨h1, h2⟩ := h
  obtain ⟨c1, c2⟩ := Memory.cells_bounds d a bs
  refine ⟨?_, ?_⟩
  · rw [Memory.write, List.pairwise_append, List.pairwise_append]
    refine ⟨h1.filter _, ⟨c1, h1.filter _, ?_⟩, ?_⟩
    · intro x hx y hy
      have := (c2 x hx).2.1
      have hy := (List.mem_filter.1 hy).2
      simp only [decide_eq_true_eq] at hy
      omega
    · intro x hx y hy
      have hx := (List.mem_filter.1 hx).2
      simp only [decide_eq_true_eq] at hx
      rcases List.mem_append.1 hy with hy | hy
      · have := (c2 y hy).1
        omega
      · have hy := (List.mem_filter.1 hy).2
        simp only [decide_eq_true_eq] at hy
        omega
  · intro c hc
    simp only [Memory.write, List.mem_append] at hc
    rcases hc with hc | hc | hc
    · exact h2 c (List.mem_filter.1 hc).1
    · exact (c2 c hc).2.2
    · exact h2 c (List.mem_filter.1 hc).1

theorem wf_zwrite (m : List Host.Cell) (a : Nat) (bs : List Byte) (h : Memory.wf (some 0) m = true) :
    Memory.wf (some 0) (zwrite m a bs) = true := Memory.wf_write _ _ _ _ h

@[simp] theorem Memory.wf_nil (d : Option Byte) : Memory.wf d [] = true := rfl

end Sys2Proof.Machine
end

