-- ==== Sys2Proof/Laws/Rings.lean ====
section
/-! SUPPORT. Rings: what a completion changes on its ring and on the others, and that nothing but DISABLE takes a ring out
of HALTED. -/

namespace Sys2Proof.Machine

@[simp] theorem writeCpl_ring (s : State) (n m : Nat) (r : Rec32) : (s.writeCpl n r).ring m =
    if m = n then { s.ring n with cqTail := (s.ring n).cqTail + 1, outstanding := (s.ring n).outstanding - (if r.kind = 1 then 0 else 1) }
    else s.ring m := by
  simp only [State.writeCpl]
  repeat' split
  all_goals simp_all

@[simp] theorem loseCpl_ring (s : State) (n m : Nat) (r : Rec32) : (s.loseCpl n r).ring m =
    if m = n then { s.ring n with outstanding := (s.ring n).outstanding - (if r.kind = 1 then 0 else 1) } else s.ring m := by
  simp [State.loseCpl]

theorem settleRing_other (s : State) (n m : Nat) (h : m ≠ n) : (s.settleRing n).ring m = s.ring m := by
  simp only [State.settleRing]; split <;> simp [h]

theorem settleRing_same (s : State) (n : Nat) (h : (s.ring n).state ≠ .stopping) (g : (s.ring n).state ≠ .halted ∨ (s.ring n).disReq = false) :
    s.settleRing n = s := by
  simp only [State.settleRing]
  rw [if_neg]
  rcases g with g | g <;> simp [h, g]

/-- The halt of a ring concerns that ring alone. -/
@[simp] theorem markHalt_other (s : State) (n m c : Nat) (h : m ≠ n) : (s.markHalt n c).ring m = s.ring m := by
  unfold State.markHalt
  lift_lets
  intro k s1
  split
  · intro lost s2 cx s3
    show s3.ring m = _
    simp only [s3, event_ring]
    show s2.ring m = _
    simp [s2, s1, h]
  · simp [s1, h]

theorem complete_other (s : State) (n m : Nat) (r : Rec32) (h : m ≠ n) : (s.complete n r).ring m = s.ring m := by
  simp only [State.complete]
  repeat' split
  · rw [settleRing_other _ _ _ h]; simp [h]
  · simp [h]
  · rw [settleRing_other _ _ _ h]; simp [h]
  · simp [h]

/-- A completion concerns its own ring alone. -/
theorem finish_other (s : State) (p : PendDesc) (st : Byte) (d c v m : Nat) (h : m ≠ p.ring) :
    (s.finish p st d c v).ring m = s.ring m := complete_other _ _ _ _ h

/-- A completion that asks for no interrupt is one write to host memory and a change of its own ring. -/
theorem writeCpl_plain (s : State) (n : Nat) (r : Rec32) (h : r.irq = false) :
    ∃ a bs k, s.writeCpl n r = ((s.openDue r).put (.hostWrite .woWrInv a bs)).setRing n k := by
  simp only [State.writeCpl]
  rw [if_neg (by simp [h])]
  exact ⟨_, _, _, rfl⟩

/-- The completion record that ends a descriptor (R292). -/
def cplOf (s : State) (p : PendDesc) (st : Byte) (d c v : Nat) : Rec32 :=
  { tag := p.tag, sqIndex := p.index, status := st, time := s.stamp, detail := BitVec.ofNat 16 d,
    count := BitVec.ofNat 16 c, tileTail := (s.ring p.ring).tileTail, value := BitVec.ofNat 64 v, irq := p.irq, bad := p.cplBad }

/-- On an ON ring with a free CQ entry and nothing held, a descriptor's completion goes to the next CQ entry (R293). -/
theorem finish_on (s : State) (p : PendDesc) (st : Byte) (d c v : Nat) (hon : (s.ring p.ring).state = .on)
    (hh : (s.ring p.ring).held = []) (hf : 0 < (s.ring p.ring).cqFree) (hi : p.irq = false) (hb : p.cplBad = false) :
    s.finish p st d c v =
      (s.put (.hostWrite .woWrInv ((s.ring p.ring).cqBase.toNat + 32 * ((s.ring p.ring).cqTail.toNat % 2 ^ (s.ring p.ring).cqLog))
        ((cplOf s p st d c v).bytes (1 - (s.ring p.ring).cqTail.toNat / 2 ^ (s.ring p.ring).cqLog % 2)))).setRing p.ring
        { s.ring p.ring with cqTail := (s.ring p.ring).cqTail + 1, outstanding := (s.ring p.ring).outstanding - 1 } := by
  simp only [State.finish, State.complete, hb]
  rw [if_neg (by simp [RingSt.silent, hon]), if_pos (by simp [hh, hf]), if_neg (by simp),
    settleRing_same _ _ (by simp [hon]) (by simp [hon])]
  simp only [State.writeCpl, State.openDue, Rec32.stamped, hi]
  simp only [ite_self, Bool.false_eq_true, ↓reduceIte, cplOf, hi, hb]
  rfl

/-! ## HALTED rings -/

/-- The parts of a ring that its end of work leaves alone while it is HALTED and DISABLE is still to come. -/
def HaltKept (n : Nat) (s t : State) : Prop :=
  (s.ring n).state = .halted → (s.ring n).disReq = false → ∃ k h, t.ring n = { s.ring n with outstanding := k, held := h }

theorem HaltKept.rfl' (n : Nat) (s : State) : HaltKept n s s := fun _ _ => ⟨(s.ring n).outstanding, (s.ring n).held, rfl⟩

theorem HaltKept.of_eq {n : Nat} {s t : State} (h : t.ring n = s.ring n) : HaltKept n s t := fun _ _ => ⟨(s.ring n).outstanding, (s.ring n).held, h⟩

theorem HaltKept.of_rng {n : Nat} {s t : State} (h : t.rng = s.rng) : HaltKept n s t :=
  HaltKept.of_eq (by simp [State.ring, h])

theorem HaltKept.of_rng_rings {n : Nat} {s t : State} (h : t.rng.rings = s.rng.rings) : HaltKept n s t :=
  HaltKept.of_eq (by simp [State.ring, h])

theorem HaltKept.trans {n : Nat} {s t u : State} (h : HaltKept n s t) (g : HaltKept n t u) : HaltKept n s u := by
  intro hs hd
  obtain ⟨k, l, hk⟩ := h hs hd
  obtain ⟨j, m, hj⟩ := g (by rw [hk]; exact hs) (by rw [hk]; exact hd)
  exact ⟨j, m, by rw [hj, hk]⟩

theorem HaltKept.foldl {α : Type} {n : Nat} (f : State → α → State) (h : ∀ s a, HaltKept n s (f s a)) (l : List α) (s : State) :
    HaltKept n s (l.foldl f s) := by
  induction l generalizing s with
  | nil => exact HaltKept.rfl' n s
  | cons a l ih => exact (h s a).trans (ih _)

theorem settleRing_halt (n m : Nat) (s : State) : HaltKept n s (s.settleRing m) := by
  intro h hd
  refine ⟨(s.ring n).outstanding, (s.ring n).held, ?_⟩
  by_cases e : n = m
  · subst e; rw [settleRing_same _ _ (by rw [h]; decide) (.inr hd)]
  · rw [settleRing_other _ _ _ e]

theorem finish_halt (n : Nat) (s : State) (p : PendDesc) (st : Byte) (d c v : Nat) : HaltKept n s (s.finish p st d c v) := by
  by_cases e : n = p.ring
  · intro h hd
    have hs : (s.ring p.ring).silent = true := by rw [← e]; simp [RingSt.silent, h]
    simp only [State.finish, State.complete, hs, ↓reduceIte]
    obtain ⟨k, l, hk⟩ := settleRing_halt n p.ring (s.loseCpl p.ring _) (by simp [h, ← e]) (by simp [hd, ← e])
    exact ⟨k, l, by rw [hk]; simp [← e]⟩
  · exact HaltKept.of_eq (finish_other _ _ _ _ _ _ _ e)

theorem freeSlot_halt (n m : Nat) (s : State) : HaltKept n s (s.freeSlot m) := by
  unfold State.freeSlot
  lift_lets
  intro k lk fs s1 s2
  have h1 : HaltKept n s s1 := HaltKept.of_rng rfl
  have h2 : HaltKept n s1 s2 := by
    simp only [s2]
    split
    · exact finish_halt n _ _ _ _ _ _
    · exact HaltKept.rfl' n s1
  refine (h1.trans h2).trans ?_
  split
  · exact finish_halt n _ _ _ _ _ _
  · exact HaltKept.rfl' n s2

theorem slotStep_halt (n : Nat) (ok : Bool) (m : Nat) (s : State) : HaltKept n s (s.slotStep ok m) := by
  unfold State.slotStep
  lift_lets
  intro k unbound k2 next s1 fs s2
  have h1 : HaltKept n s s1 := HaltKept.of_eq (by simp [s1])
  have h2 : HaltKept n s1 s2 := by
    simp only [s2]
    split <;> exact HaltKept.of_rng rfl
  split
  · exact freeSlot_halt n m s
  · split
    · have h3 : HaltKept n s (s.setSlot m k2) := HaltKept.of_rng rfl
      exact h3.trans (freeSlot_halt n m _)
    · refine (h1.trans h2).trans ?_
      split
      · split <;> exact finish_halt n _ _ _ _ _ _
      · exact HaltKept.rfl' n s2
  · exact HaltKept.rfl' n s

theorem settleStream_halt (n m : Nat) (s : State) : HaltKept n s (s.settleStream m) := by
  unfold State.settleStream
  split
  · split
    · split
      · exact HaltKept.rfl' n s
      · lift_lets
        intro s1 fs s2
        have h1 : HaltKept n s s1 := HaltKept.foldl _ (fun s e => freeSlot_halt n _ s) _ _
        have h2 : HaltKept n s1 s2 := HaltKept.of_rng rfl
        refine (h1.trans h2).trans ?_
        split
        · exact finish_halt n _ _ _ _ _ _
        · exact HaltKept.rfl' n s2
    · exact HaltKept.rfl' n s
  · exact HaltKept.rfl' n s

theorem unbind_halt (n m : Nat) (b : Option PendDesc) (s : State) : HaltKept n s (s.unbind m b) := by
  unfold State.unbind
  split
  · lift_lets
    intro fs s1 s2
    have h1 : HaltKept n s s1 := HaltKept.of_rng rfl
    have h2 : HaltKept n s1 s2 := HaltKept.foldl _ (fun s e => freeSlot_halt n _ s) _ _
    exact (h1.trans h2).trans (settleStream_halt n m s2)
  · exact HaltKept.rfl' n s

theorem stepEnd_halt (n : Nat) (i : Item) (st : Byte) (s : State) : HaltKept n s (s.stepEnd i st) := by
  unfold State.stepEnd
  split
  · lift_lets
    intro ok lk s1 s2 fs s3 fs2 s4
    have h1 : HaltKept n s s1 := HaltKept.of_rng rfl
    have h2 : HaltKept n s1 s2 := HaltKept.foldl _ (fun s e => slotStep_halt n _ e s) _ _
    have h3 : HaltKept n s2 s4 := HaltKept.of_rng (by simp only [s4, s3]; split <;> rfl)
    exact ((h1.trans h2).trans h3).trans (settleStream_halt n _ _)
  · exact HaltKept.rfl' n s

theorem settleItem_halt (n : Nat) (w : W32) (st : Byte) (s : State) : HaltKept n s (s.settleItem w st) := by
  unfold State.settleItem
  split
  · lift_lets
    intro s1 gn s2
    have h1 : HaltKept n s s1 := HaltKept.of_rng rfl
    have h2 : HaltKept n s1 s2 := by
      simp only [s2]
      split <;> exact HaltKept.of_rng rfl
    exact ((h1.trans h2).trans (stepEnd_halt n _ _ _)).trans (settleRing_halt n _ _)
  · exact HaltKept.rfl' n s

@[simp] theorem endItem_ring (s : State) (w : W32) (st : Byte) (d n : Nat) : (s.endItem w st d).ring n = s.ring n := by
  simp [State.ring]
@[simp] theorem endItems_ring (s : State) (p : Item → Bool) (st : Byte) (d n : Nat) : (s.endItems p st d).ring n = s.ring n := by
  simp [State.ring]

theorem loseCpl_halt (n m : Nat) (r : Rec32) (s : State) : HaltKept n s (s.loseCpl m r) := by
  intro h hd
  by_cases e : n = m
  · subst e; exact ⟨_, _, by rw [loseCpl_ring, if_pos rfl]⟩
  · exact ⟨(s.ring n).outstanding, (s.ring n).held, by rw [loseCpl_ring, if_neg e]⟩

theorem loseItem_halt (n m : Nat) (w : W32) (s : State) : HaltKept n s (s.loseItem m w) := by
  unfold State.loseItem
  split
  · exact (loseCpl_halt n m _ s).trans (settleItem_halt n _ _ _)
  · exact HaltKept.rfl' n s

theorem haltEnds_halt (n m : Nat) (s : State) : HaltKept n s (s.haltEnds m) := by
  unfold State.haltEnds
  lift_lets
  intro held s1 s2 s3 toRing works s4 s5
  have h1 : HaltKept n s s1 := by
    intro h hd
    by_cases e : n = m
    · subst e; exact ⟨(s.ring n).outstanding, [], by simp [s1]⟩
    · exact ⟨(s.ring n).outstanding, (s.ring n).held, by simp [s1, e]⟩
  have h2 : HaltKept n s1 s2 := HaltKept.of_eq (by simp [s2])
  have h3 : HaltKept n s2 s3 := HaltKept.foldl _ (fun s e => loseItem_halt n m _ s) _ _
  have h4 : HaltKept n s3 s4 := HaltKept.foldl _ (fun s e => HaltKept.of_eq (by simp)) _ _
  have h5 : HaltKept n s4 s5 := HaltKept.foldl _ (fun s e => unbind_halt n _ _ s) _ _
  exact ((((h1.trans h2).trans h3).trans h4).trans h5).trans (settleRing_halt n m _)

/-- What the halts of a command end leaves a HALTED ring HALTED, with its indices and flags (R279). -/
theorem finishHalts_halt (n : Nat) (s : State) : HaltKept n s s.finishHalts := by
  have key : ∀ (k : Nat) (s : State), HaltKept n s (State.runHalts k s) := by
    intro k
    induction k with
    | zero => exact HaltKept.rfl' n
    | succ k ih =>
      intro s
      simp only [State.runHalts]
      split
      · exact HaltKept.rfl' n s
      · next m rest _ =>
        have h1 : HaltKept n s ({ s with rng.haltDue := rest } : State) := HaltKept.of_rng_rings rfl
        exact (h1.trans (haltEnds_halt n m _)).trans (ih _)
  unfold State.finishHalts
  exact key _ s

/-- A ring that halts for a cause is HALTED with the cause's bit of RNG_STATUS set and its indices as they were (R279). -/
theorem markHalt_ring (s : State) (n c : Nat) (h : (s.ring n).state = .on ∨ (s.ring n).state = .stopping) :
    ∃ k l, (s.markHalt n c).ring n = { s.ring n with
      flags := (s.ring n).flags ||| BitVec.ofNat 6 (2 ^ c), state := .halted, disReq := decide ((s.ring n).state = .stopping), fetched := []
      held := l, outstanding := k } := by
  unfold State.markHalt
  lift_lets
  intro k s1
  split
  · intro lost s2 cx s3
    refine ⟨(s.ring n).outstanding - k.fetched.length - lost.length, (s.ring n).held.filter (·.item), ?_⟩
    show s3.ring n = _
    simp only [s3, event_ring]
    show s2.ring n = _
    simp [s2, s1, k]
  · exact absurd h ‹_›

/-- An ON ring halted for a cause is HALTED with the cause's bit of RNG_STATUS set and its indices as they were (R279). -/
theorem ringHalt_ring (s : State) (n c : Nat) (h : (s.ring n).state = .on) :
    ∃ k l, (s.ringHalt n c).ring n = { s.ring n with
      flags := (s.ring n).flags ||| BitVec.ofNat 6 (2 ^ c), state := .halted, disReq := false, fetched := [], held := l, outstanding := k } := by
  obtain ⟨k, l, hk⟩ := markHalt_ring s n c (.inl h)
  obtain ⟨j, m, hj⟩ := finishHalts_halt n (s.markHalt n c) (by rw [hk]) (by rw [hk]; simp [h])
  exact ⟨j, m, by rw [State.ringHalt, hj, hk]; simp [h]⟩

/-! ## Messages put out -/

/-- What has been put out stays, with what the operation puts out ahead of it. -/
def Grows (s t : State) : Prop := ∃ ms, t.out = ms ++ s.out

theorem Grows.of_eq {s t : State} (h : t.out = s.out) : Grows s t := ⟨[], h⟩

theorem Grows.trans {s t u : State} (h : Grows s t) (g : Grows t u) : Grows s u := by
  obtain ⟨a, ha⟩ := h
  obtain ⟨b, hb⟩ := g
  exact ⟨b ++ a, by rw [hb, ha, List.append_assoc]⟩

theorem Grows.foldl {α : Type} (f : State → α → State) (h : ∀ s a, Grows s (f s a)) (l : List α) (s : State) : Grows s (l.foldl f s) := by
  induction l generalizing s with
  | nil => exact Grows.of_eq rfl
  | cons a l ih => exact (h s a).trans (ih _)

theorem sendMsix_grows (s : State) (v : Nat) : Grows s (s.sendMsix v) := by
  unfold State.sendMsix
  split
  · exact Grows.of_eq rfl
  · exact ⟨[.msix v], rfl⟩

theorem interrupt_grows (s : State) (v : Nat) : Grows s (s.interrupt v) := by
  unfold State.interrupt
  split
  · exact sendMsix_grows s v
  · exact Grows.of_eq rfl

theorem event_grows (s : State) (i : Nat) : Grows s (s.event i) := by
  unfold State.event
  split
  · exact Grows.of_eq rfl
  · lift_lets
    intro g t
    split
    · exact Grows.trans (Grows.of_eq rfl) (interrupt_grows t _)
    · exact Grows.of_eq rfl

/-- A completion that is written is put out first, its interrupt after it (R297). -/
theorem writeCpl_out (s : State) (n : Nat) (r : Rec32) : ∃ ms,
    (s.writeCpl n r).out = ms ++ .hostWrite .woWrInv ((s.ring n).cqBase.toNat + 32 * ((s.ring n).cqTail.toNat % 2 ^ (s.ring n).cqLog))
      ((r.stamped s.stamp).bytes (1 - (s.ring n).cqTail.toNat / 2 ^ (s.ring n).cqLog % 2)) :: s.out := by
  simp only [State.writeCpl, openDue_stamp]
  split
  · obtain ⟨ms, h⟩ := interrupt_grows (State.setRing (State.put (s.openDue r) (.hostWrite .woWrInv
      ((s.ring n).cqBase.toNat + 32 * ((s.ring n).cqTail.toNat % 2 ^ (s.ring n).cqLog))
      ((r.stamped s.stamp).bytes (1 - (s.ring n).cqTail.toNat / 2 ^ (s.ring n).cqLog % 2)))) n
      { s.ring n with cqTail := (s.ring n).cqTail + 1, outstanding := (s.ring n).outstanding - (if (r.stamped s.stamp).kind = 1 then 0 else 1) })
      (s.ring n).vector
    refine ⟨ms, h.trans ?_⟩
    simp [State.setRing, State.put]
  · exact ⟨[], by simp [State.setRing, State.put]⟩

theorem writeCpl_grows (s : State) (n : Nat) (r : Rec32) : Grows s (s.writeCpl n r) := by
  obtain ⟨ms, h⟩ := writeCpl_out s n r
  exact ⟨ms ++ [_], by rw [h, List.append_assoc]; rfl⟩

theorem settleRing_grows (s : State) (n : Nat) : Grows s (s.settleRing n) := Grows.of_eq (settleRing_out s n)

theorem markHalt_grows (s : State) (n c : Nat) : Grows s (s.markHalt n c) := by
  unfold State.markHalt
  lift_lets
  intro k s1
  split
  · intro lost s2 cx s3
    have h2 : Grows s s3 := Grows.trans (Grows.of_eq rfl) (event_grows _ 3)
    exact h2.trans (Grows.of_eq rfl)
  · exact Grows.of_eq rfl

theorem finish_grows (s : State) (p : PendDesc) (st : Byte) (d c v : Nat) : Grows s (s.finish p st d c v) := by
  simp only [State.finish, State.complete]
  repeat' split
  · exact Grows.trans (Grows.of_eq rfl) (settleRing_grows _ _)
  · exact Grows.trans (Grows.of_eq rfl) (markHalt_grows _ _ _)
  · exact (writeCpl_grows _ _ _).trans (settleRing_grows _ _)
  · exact Grows.of_eq rfl

theorem freeSlot_grows (s : State) (n : Nat) : Grows s (s.freeSlot n) := by
  unfold State.freeSlot
  lift_lets
  intro k lk fs s1 s2
  have h2 : Grows s s2 := by
    simp only [s2]
    split
    · exact Grows.trans (Grows.of_eq rfl) (finish_grows s1 _ _ _ _ _)
    · exact Grows.of_eq rfl
  refine h2.trans ?_
  split
  · exact finish_grows _ _ _ _ _ _
  · exact Grows.of_eq rfl

theorem slotStep_grows (s : State) (ok : Bool) (m : Nat) : Grows s (s.slotStep ok m) := by
  unfold State.slotStep
  lift_lets
  intro k unbound k2 next s1 fs s2
  have h2 : Grows s s2 := by
    simp only [s2]
    split <;> exact Grows.of_eq rfl
  split
  · exact freeSlot_grows s m
  · split
    · exact Grows.trans (Grows.of_eq rfl) (freeSlot_grows _ m)
    · refine h2.trans ?_
      split
      · split <;> exact finish_grows _ _ _ _ _ _
      · exact Grows.of_eq rfl
  · exact Grows.of_eq rfl

theorem settleStream_grows (s : State) (m : Nat) : Grows s (s.settleStream m) := by
  unfold State.settleStream
  split
  · split
    · split
      · exact Grows.of_eq rfl
      · lift_lets
        intro s1 fs s2
        have h2 : Grows s s2 := (Grows.foldl _ (fun s e => freeSlot_grows s _) _ _).trans (Grows.of_eq rfl)
        refine h2.trans ?_
        split
        · exact finish_grows _ _ _ _ _ _
        · exact Grows.of_eq rfl
    · exact Grows.of_eq rfl
  · exact Grows.of_eq rfl

theorem unbind_grows (s : State) (m : Nat) (b : Option PendDesc) : Grows s (s.unbind m b) := by
  unfold State.unbind
  split
  · lift_lets
    intro fs s1 s2
    have h2 : Grows s s2 := Grows.trans (Grows.of_eq rfl) (Grows.foldl _ (fun s e => freeSlot_grows s _) _ s1)
    exact h2.trans (settleStream_grows s2 m)
  · exact Grows.of_eq rfl

theorem stepEnd_grows (s : State) (i : Item) (st : Byte) : Grows s (s.stepEnd i st) := by
  unfold State.stepEnd
  split
  · lift_lets
    intro ok lk s1 s2 fs s3 fs2 s4
    have h2 : Grows s s2 := Grows.trans (Grows.of_eq rfl) (Grows.foldl _ (fun s e => slotStep_grows s _ e) _ s1)
    have h4 : Grows s2 s4 := by
      simp only [s4]
      split <;> exact Grows.of_eq rfl
    exact (h2.trans h4).trans (settleStream_grows _ _)
  · exact Grows.of_eq rfl

theorem settleItem_grows (s : State) (w : W32) (st : Byte) : Grows s (s.settleItem w st) := by
  unfold State.settleItem
  split
  · lift_lets
    intro s1 gn s2
    have h2 : Grows s s2 := by
      simp only [s2]
      split <;> exact Grows.of_eq rfl
    exact (h2.trans (stepEnd_grows _ _ _)).trans (settleRing_grows _ _)
  · exact Grows.of_eq rfl

/-- Settling an item takes it, and no other, out of the Almanac. -/
theorem settleItem_item? (s : State) (w x : W32) (st : Byte) (i : Item) (h : s.item? w = some i) :
    (s.settleItem w st).item? x = if x = w then none else s.item? x := by
  have key : (s.settleItem w st).alm = (s.dropItem w).alm := by
    unfold State.settleItem
    rw [h]
    simp only [settleRing_alm, stepEnd_alm]
    split <;> rfl
  simp only [State.item?, key, State.dropItem]
  split
  · rename_i e
    subst e
    simp [List.find?_filter]
  · rename_i e
    induction s.alm.items with
    | nil => rfl
    | cons a l ih =>
      by_cases ha : a.tag = w
      · have hx : ¬ a.tag = x := fun h => e (h.symm.trans ha)
        simp [ha, ih, Ne.symm e]
      · by_cases hx : a.tag = x
        · simp [hx, e]
        · simp [ha, hx, ih]

end Sys2Proof.Machine
end

