-- ==== Sys2Proof/Laws/Strands.lean ====
section
/-! SUPPORT. What the sending of tiles leaves alone: everything but strands, the Almanac, Loupe units, the Clasp and clocking
blocks, the count of free values and the messages put out. -/

namespace Sys2Proof.Machine

/-- The state less what the sending of tiles may change. -/
def State.unPump (s : State) : State :=
  { s with strands := [], alm := {}, lou := [], cls := {}, clk := {}, out := [], free := 0 }
theorem unPump_part (s : State) : s.unPump.part = s.part := rfl
theorem unPump_flash (s : State) : s.unPump.flash = s.flash := rfl
theorem unPump_pins (s : State) : s.unPump.pins = s.pins := rfl
theorem unPump_cal (s : State) : s.unPump.cal = s.cal := rfl
theorem unPump_gen (s : State) : s.unPump.gen = s.gen := rfl
theorem unPump_regsShadow (s : State) : s.unPump.regsShadow = s.regsShadow := rfl
theorem unPump_asy (s : State) : s.unPump.asy = s.asy := rfl
theorem unPump_pwr (s : State) : s.unPump.pwr = s.pwr := rfl
theorem unPump_thm (s : State) : s.unPump.thm = s.thm := rfl
theorem unPump_lkt (s : State) : s.unPump.lkt = s.lkt := rfl
theorem unPump_fst (s : State) : s.unPump.fst = s.fst := rfl
theorem unPump_cxl (s : State) : s.unPump.cxl = s.cxl := rfl
theorem unPump_rng (s : State) : s.unPump.rng = s.rng := rfl
theorem unPump_mgmt (s : State) : s.unPump.mgmt = s.mgmt := rfl
theorem unPump_sec (s : State) : s.unPump.sec = s.sec := rfl
theorem unPump_cores (s : State) : s.unPump.cores = s.cores := rfl
theorem unPump_fields (s : State) : s.unPump.fields = s.fields := rfl
theorem unPump_jobs (s : State) : s.unPump.jobs = s.jobs := rfl
theorem unPump_mem (s : State) : s.unPump.mem = s.mem := rfl
theorem unPump_heirloom (s : State) : s.unPump.heirloom = s.heirloom := rfl
theorem unPump_hwCounts (s : State) : s.unPump.hwCounts = s.hwCounts := rfl
theorem unPump_opTime (s : State) : s.unPump.opTime = s.opTime := rfl
theorem unPump_hwQueue (s : State) : s.unPump.hwQueue = s.hwQueue := rfl
theorem unPump_replaceDue (s : State) : s.unPump.replaceDue = s.replaceDue := rfl
theorem unPump_pending (s : State) : s.unPump.pending = s.pending := rfl

@[simp] theorem setStrand_unPump (s : State) (n : Nat) (v : StrandSt) : (s.setStrand n v).unPump = s.unPump := rfl
@[simp] theorem modStrand_unPump (s : State) (n : Nat) (f : StrandSt → StrandSt) : (s.modStrand n f).unPump = s.unPump := by
  simp only [State.modStrand]; split <;> rfl
@[simp] theorem setLoupe_unPump (s : State) (n : Nat) (v : LoupeSt) : (s.setLoupe n v).unPump = s.unPump := rfl
@[simp] theorem setLink_unPump (s : State) (n : Nat) (v : LinkSt) : (s.setLink n v).unPump = s.unPump := rfl
@[simp] theorem put_unPump (s : State) (o : Output) : (s.put o).unPump = s.unPump := rfl
@[simp] theorem modItem_unPump (s : State) (w : W32) (f : Item → Item) : (s.modItem w f).unPump = s.unPump := rfl
@[simp] theorem drawTail_unPump (s : State) (n : Nat) : (s.drawTail n).unPump = s.unPump := by
  simp only [State.drawTail]; repeat' split
  all_goals rfl

@[simp] theorem countLinks_unPump (s : State) (ps : List Path) (n : Nat) : (s.countLinks ps n).unPump = s.unPump := by
  simp only [State.countLinks]
  refine foldl_keep State.unPump _ (fun s p => ?_) _ _
  split <;> rfl

@[simp] theorem countTile_unPump (s : State) (k : StrandSt) (t : Tile) : (s.countTile k t).unPump = s.unPump := by
  simp only [State.countTile]
  exact foldl_keep State.unPump _ (fun s p => by simp) _ _

@[simp] theorem queueBlock_unPump (s : State) (l : Nat) (b : WaitBlock) : (s.queueBlock l b).unPump = s.unPump := by
  rfl

@[simp] theorem sendTileBlocks_unPump (s : State) (l c : Nat) (t : Tile) : (s.sendTileBlocks l c t).unPump = s.unPump := by
  simp only [State.sendTileBlocks]
  exact foldl_keep State.unPump _ (fun s p => by simp) _ _

@[simp] theorem sendTile_unPump (s : State) (n : Nat) (k : StrandSt) (m : Nat) (t : Tile) : (s.sendTile n k m t).unPump = s.unPump := by
  simp only [State.sendTile]
  repeat' split
  all_goals simp
@[simp] theorem sendTile_part (s : State) (n : Nat) (k : StrandSt) (m : Nat) (t : Tile) : (s.sendTile n k m t).part = s.part :=
  (unPump_part _).symm.trans ((congrArg State.part (sendTile_unPump s n k m t)).trans (unPump_part s))
@[simp] theorem sendTile_flash (s : State) (n : Nat) (k : StrandSt) (m : Nat) (t : Tile) : (s.sendTile n k m t).flash = s.flash :=
  (unPump_flash _).symm.trans ((congrArg State.flash (sendTile_unPump s n k m t)).trans (unPump_flash s))
@[simp] theorem sendTile_pins (s : State) (n : Nat) (k : StrandSt) (m : Nat) (t : Tile) : (s.sendTile n k m t).pins = s.pins :=
  (unPump_pins _).symm.trans ((congrArg State.pins (sendTile_unPump s n k m t)).trans (unPump_pins s))
@[simp] theorem sendTile_cal (s : State) (n : Nat) (k : StrandSt) (m : Nat) (t : Tile) : (s.sendTile n k m t).cal = s.cal :=
  (unPump_cal _).symm.trans ((congrArg State.cal (sendTile_unPump s n k m t)).trans (unPump_cal s))
@[simp] theorem sendTile_gen (s : State) (n : Nat) (k : StrandSt) (m : Nat) (t : Tile) : (s.sendTile n k m t).gen = s.gen :=
  (unPump_gen _).symm.trans ((congrArg State.gen (sendTile_unPump s n k m t)).trans (unPump_gen s))
@[simp] theorem sendTile_regsShadow (s : State) (n : Nat) (k : StrandSt) (m : Nat) (t : Tile) : (s.sendTile n k m t).regsShadow = s.regsShadow :=
  (unPump_regsShadow _).symm.trans ((congrArg State.regsShadow (sendTile_unPump s n k m t)).trans (unPump_regsShadow s))
@[simp] theorem sendTile_asy (s : State) (n : Nat) (k : StrandSt) (m : Nat) (t : Tile) : (s.sendTile n k m t).asy = s.asy :=
  (unPump_asy _).symm.trans ((congrArg State.asy (sendTile_unPump s n k m t)).trans (unPump_asy s))
@[simp] theorem sendTile_pwr (s : State) (n : Nat) (k : StrandSt) (m : Nat) (t : Tile) : (s.sendTile n k m t).pwr = s.pwr :=
  (unPump_pwr _).symm.trans ((congrArg State.pwr (sendTile_unPump s n k m t)).trans (unPump_pwr s))
@[simp] theorem sendTile_thm (s : State) (n : Nat) (k : StrandSt) (m : Nat) (t : Tile) : (s.sendTile n k m t).thm = s.thm :=
  (unPump_thm _).symm.trans ((congrArg State.thm (sendTile_unPump s n k m t)).trans (unPump_thm s))
@[simp] theorem sendTile_lkt (s : State) (n : Nat) (k : StrandSt) (m : Nat) (t : Tile) : (s.sendTile n k m t).lkt = s.lkt :=
  (unPump_lkt _).symm.trans ((congrArg State.lkt (sendTile_unPump s n k m t)).trans (unPump_lkt s))
@[simp] theorem sendTile_fst (s : State) (n : Nat) (k : StrandSt) (m : Nat) (t : Tile) : (s.sendTile n k m t).fst = s.fst :=
  (unPump_fst _).symm.trans ((congrArg State.fst (sendTile_unPump s n k m t)).trans (unPump_fst s))
@[simp] theorem sendTile_cxl (s : State) (n : Nat) (k : StrandSt) (m : Nat) (t : Tile) : (s.sendTile n k m t).cxl = s.cxl :=
  (unPump_cxl _).symm.trans ((congrArg State.cxl (sendTile_unPump s n k m t)).trans (unPump_cxl s))
@[simp] theorem sendTile_rng (s : State) (n : Nat) (k : StrandSt) (m : Nat) (t : Tile) : (s.sendTile n k m t).rng = s.rng :=
  (unPump_rng _).symm.trans ((congrArg State.rng (sendTile_unPump s n k m t)).trans (unPump_rng s))
@[simp] theorem sendTile_mgmt (s : State) (n : Nat) (k : StrandSt) (m : Nat) (t : Tile) : (s.sendTile n k m t).mgmt = s.mgmt :=
  (unPump_mgmt _).symm.trans ((congrArg State.mgmt (sendTile_unPump s n k m t)).trans (unPump_mgmt s))
@[simp] theorem sendTile_sec (s : State) (n : Nat) (k : StrandSt) (m : Nat) (t : Tile) : (s.sendTile n k m t).sec = s.sec :=
  (unPump_sec _).symm.trans ((congrArg State.sec (sendTile_unPump s n k m t)).trans (unPump_sec s))
@[simp] theorem sendTile_cores (s : State) (n : Nat) (k : StrandSt) (m : Nat) (t : Tile) : (s.sendTile n k m t).cores = s.cores :=
  (unPump_cores _).symm.trans ((congrArg State.cores (sendTile_unPump s n k m t)).trans (unPump_cores s))
@[simp] theorem sendTile_fields (s : State) (n : Nat) (k : StrandSt) (m : Nat) (t : Tile) : (s.sendTile n k m t).fields = s.fields :=
  (unPump_fields _).symm.trans ((congrArg State.fields (sendTile_unPump s n k m t)).trans (unPump_fields s))
@[simp] theorem sendTile_jobs (s : State) (n : Nat) (k : StrandSt) (m : Nat) (t : Tile) : (s.sendTile n k m t).jobs = s.jobs :=
  (unPump_jobs _).symm.trans ((congrArg State.jobs (sendTile_unPump s n k m t)).trans (unPump_jobs s))
@[simp] theorem sendTile_mem (s : State) (n : Nat) (k : StrandSt) (m : Nat) (t : Tile) : (s.sendTile n k m t).mem = s.mem :=
  (unPump_mem _).symm.trans ((congrArg State.mem (sendTile_unPump s n k m t)).trans (unPump_mem s))
@[simp] theorem sendTile_heirloom (s : State) (n : Nat) (k : StrandSt) (m : Nat) (t : Tile) : (s.sendTile n k m t).heirloom = s.heirloom :=
  (unPump_heirloom _).symm.trans ((congrArg State.heirloom (sendTile_unPump s n k m t)).trans (unPump_heirloom s))
@[simp] theorem sendTile_hwCounts (s : State) (n : Nat) (k : StrandSt) (m : Nat) (t : Tile) : (s.sendTile n k m t).hwCounts = s.hwCounts :=
  (unPump_hwCounts _).symm.trans ((congrArg State.hwCounts (sendTile_unPump s n k m t)).trans (unPump_hwCounts s))
@[simp] theorem sendTile_opTime (s : State) (n : Nat) (k : StrandSt) (m : Nat) (t : Tile) : (s.sendTile n k m t).opTime = s.opTime :=
  (unPump_opTime _).symm.trans ((congrArg State.opTime (sendTile_unPump s n k m t)).trans (unPump_opTime s))
@[simp] theorem sendTile_hwQueue (s : State) (n : Nat) (k : StrandSt) (m : Nat) (t : Tile) : (s.sendTile n k m t).hwQueue = s.hwQueue :=
  (unPump_hwQueue _).symm.trans ((congrArg State.hwQueue (sendTile_unPump s n k m t)).trans (unPump_hwQueue s))
@[simp] theorem sendTile_replaceDue (s : State) (n : Nat) (k : StrandSt) (m : Nat) (t : Tile) : (s.sendTile n k m t).replaceDue = s.replaceDue :=
  (unPump_replaceDue _).symm.trans ((congrArg State.replaceDue (sendTile_unPump s n k m t)).trans (unPump_replaceDue s))
@[simp] theorem sendTile_pending (s : State) (n : Nat) (k : StrandSt) (m : Nat) (t : Tile) : (s.sendTile n k m t).pending = s.pending :=
  (unPump_pending _).symm.trans ((congrArg State.pending (sendTile_unPump s n k m t)).trans (unPump_pending s))

theorem pumpHost_unPump (f n : Nat) (s : State) : (State.pumpHost f n s).unPump = s.unPump := by
  induction f generalizing s with
  | zero => rfl
  | succ f ih =>
    simp only [State.pumpHost]
    repeat' split
    all_goals try rfl
    rw [ih, sendTile_unPump]

@[simp] theorem pumpHosts_unPump (s : State)  : (s.pumpHosts).unPump = s.unPump := by
  simp only [State.pumpHosts]
  exact foldl_keep State.unPump _ (fun s e => pumpHost_unPump _ _ s) _ _

theorem foldl_fst_keep {α β γ : Type} (g : State → β) (f : State × γ → α → State × γ) (h : ∀ x a, g (f x a).1 = g x.1) (l : List α)
    (x : State × γ) : g (l.foldl f x).1 = g x.1 := by
  induction l generalizing x with
  | nil => rfl
  | cons a l ih => rw [List.foldl_cons, ih, h]

@[simp] theorem feedHost_unPump (s : State)  : (s.feedHost).unPump = s.unPump := by
  simp only [State.feedHost, pumpHosts_unPump]
  refine foldl_fst_keep State.unPump _ (fun x i => ?_) _ _
  show State.unPump (if _ then _ else _) = _
  split
  · exact foldl_keep State.unPump _ (fun s t => by simp) _ _
  · rw [modItem_unPump]
    exact foldl_keep State.unPump _ (fun s t => by simp) _ _

@[simp] theorem settleLoupe_unPump (s : State) (f : Nat) : (s.settleLoupe f).unPump = s.unPump := by
  simp only [State.settleLoupe]
  repeat' split
  all_goals simp

theorem pumpLoupe_unPump (n f : Nat) (s : State) : (State.pumpLoupe n f s).unPump = s.unPump := by
  induction n generalizing s with
  | zero => exact settleLoupe_unPump s f
  | succ n ih =>
    simp only [State.pumpLoupe]
    repeat' split
    · rw [ih, sendTile_unPump, setLoupe_unPump]
    · rfl
    · rfl
    · exact settleLoupe_unPump s f

@[simp] theorem pump_unPump (s : State)  : (s.pump).unPump = s.unPump := by
  simp only [State.pump]
  rw [foldl_keep State.unPump, feedHost_unPump]
  intro s f
  split
  · exact pumpLoupe_unPump _ _ _
  · rfl
@[simp] theorem pump_part (s : State)  : (s.pump).part = s.part :=
  (unPump_part _).symm.trans ((congrArg State.part (pump_unPump s)).trans (unPump_part s))
@[simp] theorem pump_flash (s : State)  : (s.pump).flash = s.flash :=
  (unPump_flash _).symm.trans ((congrArg State.flash (pump_unPump s)).trans (unPump_flash s))
@[simp] theorem pump_pins (s : State)  : (s.pump).pins = s.pins :=
  (unPump_pins _).symm.trans ((congrArg State.pins (pump_unPump s)).trans (unPump_pins s))
@[simp] theorem pump_cal (s : State)  : (s.pump).cal = s.cal :=
  (unPump_cal _).symm.trans ((congrArg State.cal (pump_unPump s)).trans (unPump_cal s))
@[simp] theorem pump_gen (s : State)  : (s.pump).gen = s.gen :=
  (unPump_gen _).symm.trans ((congrArg State.gen (pump_unPump s)).trans (unPump_gen s))
@[simp] theorem pump_regsShadow (s : State)  : (s.pump).regsShadow = s.regsShadow :=
  (unPump_regsShadow _).symm.trans ((congrArg State.regsShadow (pump_unPump s)).trans (unPump_regsShadow s))
@[simp] theorem pump_asy (s : State)  : (s.pump).asy = s.asy :=
  (unPump_asy _).symm.trans ((congrArg State.asy (pump_unPump s)).trans (unPump_asy s))
@[simp] theorem pump_pwr (s : State)  : (s.pump).pwr = s.pwr :=
  (unPump_pwr _).symm.trans ((congrArg State.pwr (pump_unPump s)).trans (unPump_pwr s))
@[simp] theorem pump_thm (s : State)  : (s.pump).thm = s.thm :=
  (unPump_thm _).symm.trans ((congrArg State.thm (pump_unPump s)).trans (unPump_thm s))
@[simp] theorem pump_lkt (s : State)  : (s.pump).lkt = s.lkt :=
  (unPump_lkt _).symm.trans ((congrArg State.lkt (pump_unPump s)).trans (unPump_lkt s))
@[simp] theorem pump_fst (s : State)  : (s.pump).fst = s.fst :=
  (unPump_fst _).symm.trans ((congrArg State.fst (pump_unPump s)).trans (unPump_fst s))
@[simp] theorem pump_cxl (s : State)  : (s.pump).cxl = s.cxl :=
  (unPump_cxl _).symm.trans ((congrArg State.cxl (pump_unPump s)).trans (unPump_cxl s))
@[simp] theorem pump_rng (s : State)  : (s.pump).rng = s.rng :=
  (unPump_rng _).symm.trans ((congrArg State.rng (pump_unPump s)).trans (unPump_rng s))
@[simp] theorem pump_mgmt (s : State)  : (s.pump).mgmt = s.mgmt :=
  (unPump_mgmt _).symm.trans ((congrArg State.mgmt (pump_unPump s)).trans (unPump_mgmt s))
@[simp] theorem pump_sec (s : State)  : (s.pump).sec = s.sec :=
  (unPump_sec _).symm.trans ((congrArg State.sec (pump_unPump s)).trans (unPump_sec s))
@[simp] theorem pump_cores (s : State)  : (s.pump).cores = s.cores :=
  (unPump_cores _).symm.trans ((congrArg State.cores (pump_unPump s)).trans (unPump_cores s))
@[simp] theorem pump_fields (s : State)  : (s.pump).fields = s.fields :=
  (unPump_fields _).symm.trans ((congrArg State.fields (pump_unPump s)).trans (unPump_fields s))
@[simp] theorem pump_jobs (s : State)  : (s.pump).jobs = s.jobs :=
  (unPump_jobs _).symm.trans ((congrArg State.jobs (pump_unPump s)).trans (unPump_jobs s))
@[simp] theorem pump_mem (s : State)  : (s.pump).mem = s.mem :=
  (unPump_mem _).symm.trans ((congrArg State.mem (pump_unPump s)).trans (unPump_mem s))
@[simp] theorem pump_heirloom (s : State)  : (s.pump).heirloom = s.heirloom :=
  (unPump_heirloom _).symm.trans ((congrArg State.heirloom (pump_unPump s)).trans (unPump_heirloom s))
@[simp] theorem pump_hwCounts (s : State)  : (s.pump).hwCounts = s.hwCounts :=
  (unPump_hwCounts _).symm.trans ((congrArg State.hwCounts (pump_unPump s)).trans (unPump_hwCounts s))
@[simp] theorem pump_opTime (s : State)  : (s.pump).opTime = s.opTime :=
  (unPump_opTime _).symm.trans ((congrArg State.opTime (pump_unPump s)).trans (unPump_opTime s))
@[simp] theorem pump_hwQueue (s : State)  : (s.pump).hwQueue = s.hwQueue :=
  (unPump_hwQueue _).symm.trans ((congrArg State.hwQueue (pump_unPump s)).trans (unPump_hwQueue s))
@[simp] theorem pump_replaceDue (s : State)  : (s.pump).replaceDue = s.replaceDue :=
  (unPump_replaceDue _).symm.trans ((congrArg State.replaceDue (pump_unPump s)).trans (unPump_replaceDue s))
@[simp] theorem pump_pending (s : State)  : (s.pump).pending = s.pending :=
  (unPump_pending _).symm.trans ((congrArg State.pending (pump_unPump s)).trans (unPump_pending s))

end Sys2Proof.Machine
end

