-- ==== Sys2Proof/Laws/Work.lean ====
section
/-! SUPPORT. Items of the Almanac: what a change, an end and the feeding of host tiles leave of each item, and of the
Almanac's other registers. -/

namespace Sys2Proof.Machine

/-- Changing the items of one tag by a change that keeps tags. -/
theorem find_modItem (f : Item → Item) (hf : ∀ j, (f j).tag = j.tag) (w x : W32) (l : List Item) :
    (l.map (fun i => if i.tag = w then f i else i)).find? (fun i => i.tag == x) =
      (l.find? (fun i => i.tag == x)).map (fun i => if x = w then f i else i) := by
  induction l with
  | nil => rfl
  | cons a l ih =>
    have ht : (if a.tag = w then f a else a).tag = a.tag := by split <;> simp [hf]
    by_cases ha : a.tag = x
    · rw [List.map_cons, List.find?_cons_of_pos (by rw [ht]; simp [ha]), List.find?_cons_of_pos (by simp [ha])]
      simp [ha]
    · rw [List.map_cons, List.find?_cons_of_neg (by rw [ht]; simp [ha]), List.find?_cons_of_neg (by simp [ha]), ih]

theorem modItem_item? (s : State) (w x : W32) (f : Item → Item) (hf : ∀ j, (f j).tag = j.tag) :
    (s.modItem w f).item? x = (s.item? x).map (fun i => if x = w then f i else i) := find_modItem f hf w x _

/-- Drawing a tail back changes no other register of the Almanac. -/
theorem drawTail_alm' (s : State) (n : Nat) : (s.drawTail n).alm = { s.alm with tails := (s.drawTail n).alm.tails } := by
  simp only [State.drawTail]
  repeat' split
  all_goals rfl

theorem drawTails_alm (l : List Win) (s : State) : (l.foldl (fun s w => s.drawTail w.station) s).alm =
    { s.alm with tails := (l.foldl (fun s w => s.drawTail w.station) s).alm.tails } := by
  induction l generalizing s with
  | nil => rfl
  | cons w l ih => rw [List.foldl_cons, ih, drawTail_alm']

@[simp] theorem overtake_alm (s : State) (c : Nat) (dead : W32 → Bool) : (s.overtake c dead).alm = s.alm := by
  simp only [State.overtake]
  split
  · rfl
  · rw [modCore_alm]
    exact foldl_keep State.alm _ (fun s e => by simp [State.queueHallmark]) _ _

@[simp] theorem haltRuns_alm (s : State) (w : W32) : (s.haltRuns w).alm = s.alm := by
  simp only [State.haltRuns]
  exact foldl_keep State.alm _ (fun s e => by simp) _ _

@[simp] theorem putOn_alm (s : State) (l t : Nat) (x : Output) : (s.putOn l t x).alm = s.alm := by
  simp only [State.putOn]
  split <;> rfl

@[simp] theorem discardWork_alm (s : State) (w : W32) : (s.discardWork w).alm = s.alm := by
  simp only [State.discardWork]
  rw [foldr_keep State.alm _ (fun s e => by simp)]

/-- An item that ends with a status and DETAIL; `mark`: what a halt leaves of it (R76, R259). -/
def Item.ended (i : Item) (st : Byte) (d : Nat) (mark : HaltMark) : Item :=
  { i with status := some (st, BitVec.ofNat 16 d), tiles := [], stepTileOut := true, halt := if isHalt st d then some mark else none }

/-- What the end of an item changes in the Almanac: that item, and tails. -/
theorem endItem_alm (s : State) (w : W32) (st : Byte) (d : Nat) (i : Item) (h : s.item? w = some i) (hn : i.status = none) :
    (s.endItem w st d).alm = { s.alm with
      items := (s.modItem w (fun j => j.ended st d (s.haltMark i))).alm.items
      tails := (s.endItem w st d).alm.tails } := by
  unfold State.endItem
  rw [h]
  simp only [hn]
  rw [if_neg (by simp), drawTails_alm, discardWork_alm, haltRuns_alm]
  rfl

/-- The end of an item: it has the status and DETAIL, its held tiles are gone; every other item is as it was. -/
theorem endItem_item? (s : State) (w x : W32) (st : Byte) (d : Nat) (i : Item) (h : s.item? w = some i) (hn : i.status = none) :
    (s.endItem w st d).item? x = (s.item? x).map (fun j => if x = w then j.ended st d (s.haltMark i) else j) := by
  have := modItem_item? s w x (fun j => j.ended st d (s.haltMark i)) (fun _ => rfl)
  rw [← this]
  unfold State.item?
  rw [endItem_alm s w st d i h hn]

theorem endItem_item?_same (s : State) (st : Byte) (d : Nat) (i : Item) (h : s.item? i.tag = some i) (hn : i.status = none) :
    (s.endItem i.tag st d).item? i.tag = some (i.ended st d (s.haltMark i)) := by
  rw [endItem_item? s i.tag i.tag st d i h hn, h]
  simp

/-! ## Feeding -/

/-- Every item keeps all but its held tiles. -/
def SameButTiles (s t : State) : Prop :=
  ∀ x, (t.item? x).map (fun i => { i with tiles := [] }) = (s.item? x).map (fun i => { i with tiles := [] })

theorem item_tag {s : State} {w : W32} {i : Item} (h : s.item? w = some i) : i.tag = w := by
  have := List.find?_some h
  simpa using this

theorem queueBlock_alm (s : State) (l : Nat) (b : WaitBlock) : (s.queueBlock l b).alm = s.alm := by
  rfl

theorem sendTileBlocks_alm (s : State) (l c : Nat) (t : Tile) : (s.sendTileBlocks l c t).alm = s.alm := by
  simp only [State.sendTileBlocks]
  exact foldl_keep State.alm _ (fun s p => by simp only [queueBlock_alm]) _ _

theorem countLinks_alm (s : State) (ps : List Path) (n : Nat) : (s.countLinks ps n).alm = s.alm := by
  unfold State.countLinks
  refine foldl_keep State.alm _ (fun s p => ?_) _ _
  cases p <;> rfl

theorem countTile_alm (s : State) (k : StrandSt) (t : Tile) : (s.countTile k t).alm = s.alm :=
  foldl_keep State.alm _ (fun s _ => countLinks_alm s _ _) _ _

theorem sendTile_alm (s : State) (n : Nat) (k : StrandSt) (m : Nat) (t : Tile) : (s.sendTile n k m t).alm = s.alm := by
  simp only [State.sendTile]
  repeat' split
  · rw [sendTileBlocks_alm, setStrand_alm, countTile_alm]
  · rw [setStrand_alm, countTile_alm]
  · rw [setStrand_alm, countTile_alm]

theorem pumpHost_alm (f n : Nat) (s : State) : (State.pumpHost f n s).alm = s.alm := by
  induction f generalizing s with
  | zero => rfl
  | succ f ih =>
    simp only [State.pumpHost]
    repeat' split
    all_goals try rfl
    rw [ih, sendTile_alm]

theorem pumpHosts_alm (s : State) : s.pumpHosts.alm = s.alm :=
  foldl_keep State.alm _ (fun s _ => pumpHost_alm _ _ s) _ _

/-- Host tiles that enter their strands leave every register of the Almanac but the tiles that items hold. -/
theorem feedHost_alm (s : State) : (∃ l, s.feedHost.alm = { s.alm with items := l }) ∧ SameButTiles s s.feedHost := by
  unfold State.feedHost
  have key : ∀ (l : List Item) (x : State × List Nat),
      (∃ q, (l.foldl (fun (x : State × List Nat) i =>
        let go := i.tiles.filter (fun t => i.released && !x.2.contains t.strand)
        let stay := i.tiles.filter (fun t => !(i.released && !x.2.contains t.strand))
        let s := go.foldl (fun s t => s.modStrand t.strand (fun k => { k with hostQ := k.hostQ ++ [t] })) x.1
        (if go.isEmpty then s else s.modItem i.tag (fun i => { i with tiles := stay }), x.2 ++ stay.map (·.strand))) x).1.alm = { x.1.alm with items := q }) ∧
      SameButTiles x.1 (l.foldl (fun (x : State × List Nat) i =>
        let go := i.tiles.filter (fun t => i.released && !x.2.contains t.strand)
        let stay := i.tiles.filter (fun t => !(i.released && !x.2.contains t.strand))
        let s := go.foldl (fun s t => s.modStrand t.strand (fun k => { k with hostQ := k.hostQ ++ [t] })) x.1
        (if go.isEmpty then s else s.modItem i.tag (fun i => { i with tiles := stay }), x.2 ++ stay.map (·.strand))) x).1 := by
    intro l
    induction l with
    | nil => exact fun x => ⟨⟨_, rfl⟩, fun _ => rfl⟩
    | cons a l ih =>
      intro x
      rw [List.foldl_cons]
      obtain ⟨⟨q, hq⟩, hs⟩ := ih (let go := a.tiles.filter (fun t => a.released && !x.2.contains t.strand)
        let stay := a.tiles.filter (fun t => !(a.released && !x.2.contains t.strand))
        let s := go.foldl (fun s t => s.modStrand t.strand (fun k => { k with hostQ := k.hostQ ++ [t] })) x.1
        (if go.isEmpty then s else s.modItem a.tag (fun i => { i with tiles := stay }), x.2 ++ stay.map (·.strand)))
      have hm : ∀ (ts : List Tile) (s : State), (ts.foldl (fun s t => s.modStrand t.strand (fun k => { k with hostQ := k.hostQ ++ [t] })) s).alm = s.alm :=
        fun ts s => foldl_keep State.alm _ (fun s e => by simp) ts s
      refine ⟨⟨q, hq.trans ?_⟩, fun w => (hs w).trans ?_⟩
      · dsimp only
        split
        · rw [hm]
        · simp only [State.modItem, hm]
      · dsimp only
        split
        · simp only [State.item?, hm]
        · rw [show ∀ (u : State) (st : List Tile), (u.modItem a.tag (fun i => { i with tiles := st })).item? w = (u.item? w).map (fun i => if w = a.tag then { i with tiles := st } else i) from
            fun u st => modItem_item? u _ _ _ (fun _ => rfl)]
          simp only [State.item?, hm, Option.map_map]
          congr 1
          funext i
          simp only [Function.comp]
          split <;> rfl
  obtain ⟨⟨q, hq⟩, hs⟩ := key s.alm.items (s, [])
  refine ⟨⟨q, by rw [pumpHosts_alm]; exact hq⟩, fun w => ?_⟩
  simp only [State.item?, pumpHosts_alm]
  exact hs w

end Sys2Proof.Machine
end

