-- ==== Sys2Proof/Laws/Landing.lean ====
section
/-! SUPPORT. What a landed descriptor, an issued instruction word, a vendor request, a register write, a mapping and a
commit each do, in the terms of Safety: the statements' proofs cite these and do not unfold the operations. -/

namespace Sys2Proof.Machine

/-- A landing descriptor acts on the state with it taken off the ring (R285-R287). -/
theorem lands_land {s : State} {n op : Nat} {f : Desc → List (Nat × Bool)} {d : Desc} (h : Safety.Lands s n op f d)
    (act : Desc → State → State) : s.land n op f act = (act d (s.take n)).finishHalts := land_go s n op f act d h.1 h.2.1 h.2.2

@[simp] theorem take_job (s : State) (n j : Nat) : (s.take n).job? j = s.job? j := rfl
@[simp] theorem finish_job (s : State) (p : PendDesc) (st : Byte) (d c v j : Nat) : (s.finish p st d c v).job? j = s.job? j := by
  simp [State.job?]
@[simp] theorem finish_item (s : State) (p : PendDesc) (st : Byte) (d c v : Nat) (w : W32) :
    (s.finish p st d c v).item? w = s.item? w := by
  simp [State.item?]
@[simp] theorem finish_entry (s : State) (p : PendDesc) (st : Byte) (d c v m : Nat) : (s.finish p st d c v).entry m = s.entry m := by
  simp [State.entry]
@[simp] theorem finish_pool (s : State) (p : PendDesc) (st : Byte) (d c v f : Nat) (l : Bool) :
    (s.finish p st d c v).pool f l = s.pool f l := by
  simp [State.pool]
@[simp] theorem finish_slot (s : State) (p : PendDesc) (st : Byte) (d c v f : Nat) : (s.finish p st d c v).slot f = s.slot f := by
  simp [State.slot]

/-- An instruction word of a well-formed kind issues in a run (R103, R370). -/
theorem issue_go {s : State} {c op : Nat} {r : Run} {w : W64} (h : Safety.Issues s c r w op) (form : W64 → Bool) (hf : form w = true)
    (act : W64 → Run → CoreSt → State → State) : s.issue c op form act = act w r (s.core c) s := by
  obtain ⟨h1, h2, h3, h4, h5⟩ := h
  simp [State.issue, h1, h2, h3, h4, h5, hf]

/-- Outside a run, after END, or in a region that is not ON nothing issues (R103, R370). -/
theorem issue_stay (s : State) (c op : Nat) (form : W64 → Bool) (act : W64 → Run → CoreSt → State → State)
   (h : (s.core c).run = none ∨ (s.core c).word = none ∨ (s.region c).state ≠ .on ∨ (∃ r, (s.core c).run = some r ∧ r.ending = true)) : s.issue c op form act = s := by
  unfold State.issue
  rcases h with h | h | h | ⟨r, h, h'⟩
  · simp [h]
  · cases hr : (s.core c).run <;> simp [h, hr]
  · cases hr : (s.core c).run <;> cases hw : (s.core c).word <;> simp [hr, hw, h]
  · cases hw : (s.core c).word <;> simp [h, hw, h']

/-- A request that is heard acts (R434). -/
theorem vendor_heard {s : State} {h : VHdr} (hh : Safety.Heard s h) (c : Byte) (f : State → State) : vendor c h f s = f s := by
  obtain ⟨a, b, c⟩ := hh; simp [vendor, a, b, c]

/-- A register write that reaches the registers (R305, R306). -/
theorem registerWrite_writable {s : State} {v : W32} (h : s.writable = true) (o : Fin 16777216) (ho : o.val % 4 = 0) :
    execRegisterWrite .host .bar0 o 4 v s = .next (s.regWrite o v) := by
  have hr : s.reachable = true ∧ s.gen.state ≠ .recovery := by simpa [State.writable] using h
  simp [execRegisterWrite, hr, ho]

/-- A write outside the configuration registers goes to its block. -/
theorem regWrite_plain {s : State} {off : Nat} {v : W32} (h : configMask off = none) : s.regWrite off v = (match blockOf off with
    | some b =>
      let o := off - blockBase b
      if b = 0 then s.writeGen o v else if b = 8 then s.writeLou o v else if b = 13 then s.writeRing o v else s.writeBlock b o v
    | none =>
      if 0xFE0000 ≤ off then s.writeMsix (off - 0xFE0000) v
      else if 0xF00000 ≤ off ∧ off < 0xF10000 then s.changeStandard else s) := by
  cases hb : blockOf off <;> simp [State.regWrite, h, hb]

/-- A write of a configuration register goes through its mask and its checks (R306, R316). -/
theorem regWrite_config {s : State} {off m : Nat} {v : W32} (h : configMask off = some m) :
    s.regWrite off v = s.writeConfig off m v := by
  unfold State.regWrite; rw [h]

/-- A configuration write with a mask, with the assay open and bring-up over (R316). -/
theorem writeConfig_open {s : State} {off impl : Nat} {v : W32} (hv : 65536 ≤ v.toNat) (h1 : s.asy.state = .opened)
    (h2 : s.gen.state = .ready ∨ s.gen.state = .stopped) :
    s.writeConfig off impl v = (let old := s.regValue off
      let new := rwm old impl v
      if s.configRefused off (v.toNat / 65536) old new then s.flagRefused off
      else (s.putConfig off (BitVec.ofNat 16 new)).applyConfig off old) := by
  unfold State.writeConfig
  rw [if_neg (by omega), if_neg]
  intro h
  rcases h with h | h
  · exact h h1
  · rcases h2 with h2 | h2 <;> simp_all

@[simp] theorem setEntry_entry (s : State) (n m : Nat) (v : LktEntry) : (s.setEntry n v).entry m = if m = n then v else s.entry m := by
  simp only [State.entry, State.setEntry, tget, tget?_tput]
  split <;> rfl

/-- Drawing from a pool that is not empty takes one frame of it (R201). -/
theorem drawFrame_takes (s : State) (f : Nat) (lp : Bool) (h : s.pool f lp ≠ []) : ∃ fr, fr ∈ s.pool f lp ∧
    s.drawFrame f lp = some (fr, ({ s with free := s.free + 1 } : State).setPool f lp ((s.pool f lp).filter (· != fr))) := by
  unfold State.drawFrame
  have hlt : (Config.free32 s.free).toNat % (s.pool f lp).length < (s.pool f lp).length :=
    Nat.mod_lt _ (List.length_pos_iff.2 h)
  refine ⟨(s.pool f lp)[(Config.free32 s.free).toNat % (s.pool f lp).length], List.getElem_mem _, ?_⟩
  simp only [State.fresh32]
  rw [List.getElem?_eq_getElem hlt]

@[simp] theorem setPool_pool (s : State) (f : Nat) (lp : Bool) (p : List Nat) : (s.setPool f lp p).pool f lp = p := by
  cases lp <;> simp [State.setPool, State.pool, tget]

@[simp] theorem setPool_entry (s : State) (f : Nat) (lp : Bool) (p : List Nat) (m : Nat) : (s.setPool f lp p).entry m = s.entry m := by
  cases lp <;> rfl

theorem length_filter_ne (l : List Nat) (x : Nat) (hn : l.Nodup) (hx : x ∈ l) : (l.filter (· != x)).length + 1 = l.length := by
  rw [← List.Nodup.erase_eq_filter hn, List.length_erase_of_mem hx]
  have := List.length_pos_of_mem hx
  omega

/-- Mapping local entries: each takes a frame of its own from the pool, nothing else changes (R201). -/
theorem mapLocal_holds (f : Nat) (lp : Bool) (ns : List Nat) : ∀ (s : State), ns.Nodup → (s.pool f lp).Nodup → ns.length ≤ (s.pool f lp).length →
    let t := s.mapLocal f lp ns
    (∀ m ∈ ns, (t.entry m).state = (if lp then .lpddr else .hbm) ∧ (t.entry m).field = f ∧ (t.entry m).frame ∈ s.pool f lp ∧ (t.entry m).frame ∉ t.pool f lp ∧ (t.entry m).pin = false ∧ (t.entry m).owned = false) ∧
    (∀ i ∈ ns, ∀ j ∈ ns, i ≠ j → (t.entry i).frame ≠ (t.entry j).frame) ∧ (∀ m, m ∉ ns → t.entry m = s.entry m) ∧
    (∀ x ∈ t.pool f lp, x ∈ s.pool f lp) ∧ (t.pool f lp).length + ns.length = (s.pool f lp).length ∧ t = { s with lkt := t.lkt, free := t.free } := by
  induction ns with
  | nil => intro s _ _ _; refine ⟨by simp, by simp, fun _ _ => rfl, fun _ h => h, rfl, rfl⟩
  | cons a ns ih =>
    intro s hn hp hl
    have h0 : s.pool f lp ≠ [] := by intro h; rw [h] at hl; simp at hl
    obtain ⟨fr, hfr, hd⟩ := drawFrame_takes s f lp h0
    obtain ⟨hn1, hn2⟩ := List.nodup_cons.1 hn
    let e : LktEntry := { state := if lp then .lpddr else .hbm, field := f, trayPos := s.gen.straps.toNat % 4, frame := fr }
    let u := (({ s with free := s.free + 1 } : State).setPool f lp ((s.pool f lp).filter (· != fr))).setEntry a e
    have hu : s.mapLocal f lp (a :: ns) = u.mapLocal f lp ns := by
      show List.foldl _ _ _ = _
      rw [List.foldl_cons, hd]
      show State.mapLocal _ f lp ns = _
      congr 1
      cases lp <;> rfl
    have hup : u.pool f lp = (s.pool f lp).filter (· != fr) := by
      show State.pool (State.setEntry _ _ _) _ _ = _
      exact setPool_pool _ f lp _
    have hue : ∀ m, u.entry m = if m = a then e else s.entry m := by
      intro m
      show State.entry (State.setEntry _ _ _) m = _
      rw [setEntry_entry, setPool_entry]; rfl
    have hlen := length_filter_ne (s.pool f lp) fr hp hfr
    obtain ⟨h1, h2, h3, h4, h5, h6⟩ := ih u hn2 (by rw [hup]; exact hp.filter _) (by rw [hup]; simp at hl; omega)
    rw [hu]
    dsimp only
    rw [hup] at h1 h4 h5
    have ha : (u.mapLocal f lp ns).entry a = e := by rw [h3 a hn1, hue, if_pos rfl]
    have hnot : fr ∉ (u.mapLocal f lp ns).pool f lp := by
      intro h; have := h4 _ h; simp at this
    refine ⟨fun m hm => ?_, fun i hi j hj hij => ?_, fun m hm => ?_, fun x hx => (List.mem_filter.1 (h4 x hx)).1, by simp; omega, ?_⟩
    · rcases List.mem_cons.1 hm with rfl | hm
      · rw [ha]; exact ⟨rfl, rfl, hfr, hnot, rfl, rfl⟩
      · obtain ⟨x1, x2, x3, x4⟩ := h1 m hm
        exact ⟨x1, x2, (List.mem_filter.1 x3).1, x4⟩
    · rcases List.mem_cons.1 hi with rfl | hi <;> rcases List.mem_cons.1 hj with rfl | hj
      · exact absurd rfl hij
      · rw [ha]; intro h; have := (h1 j hj).2.2.1; rw [← h] at this; simp [e] at this
      · rw [ha]; intro h; have := (h1 i (by assumption)).2.2.1; rw [h] at this; simp [e] at this
      · exact h2 i hi j hj hij
    · simp only [List.mem_cons, not_or] at hm
      rw [h3 m hm.2, hue, if_neg hm.1]
    · rw [h6]
      simp only [u]
      cases lp <;> rfl

theorem firstIdx_none {α : Type} (p : α → Bool) (l : List α) (h : ∀ x ∈ l, p x = false) : firstIdx p l = none := by
  have : l.zipIdx.find? (fun x => p x.1) = none := by
    rw [List.find?_eq_none]
    intro x hx
    have := List.mem_zipIdx hx
    simp [h x.1 (by rw [this.2.2]; exact List.getElem_mem _)]
  simp [firstIdx, this]

theorem bindCores_unCore (s : State) (j : Nat) (sts : List StationE) : (s.bindCores j sts).1.unCore = s.unCore := by
  unfold State.bindCores
  refine foldl_fst_keep State.unCore _ (fun x i => ?_) _ _
  split
  · simp
  · rfl

theorem wakeBuffers_jobs (s : State) (bs : List Buffer) : (s.wakeBuffers bs).jobs = s.jobs := by
  unfold State.wakeBuffers
  refine foldl_keep State.jobs _ (fun s b => ?_) _ _
  split <;> rfl

/-- Setting up the strands of a table. -/
theorem setStrands_holds (j : Nat) (sks : List StrandE) (s : State) :
    (sks.foldl (fun s e => s.setStrand e.strand (s.newStrand j e)) s).jobs = s.jobs ∧
    (∀ n, (sks.foldl (fun s e => s.setStrand e.strand (s.newStrand j e)) s).strand? n = s.strand? n ∨ ∃ u e, e.strand = n ∧ (sks.foldl (fun s e => s.setStrand e.strand (s.newStrand j e)) s).strand? n = some (State.newStrand u j e)) ∧
    ∀ e ∈ sks, ∃ u e', e'.strand = e.strand ∧ (sks.foldl (fun s e => s.setStrand e.strand (s.newStrand j e)) s).strand? e.strand = some (State.newStrand u j e') := by
  induction sks generalizing s with
  | nil => exact ⟨rfl, fun n => .inl rfl, fun e h => absurd h (by simp)⟩
  | cons a l ih =>
    rw [List.foldl_cons]
    obtain ⟨h1, h2, h3⟩ := ih (s.setStrand a.strand (s.newStrand j a))
    refine ⟨h1.trans rfl, fun n => ?_, fun e he => ?_⟩
    · rcases h2 n with h | h
      · by_cases ha : a.strand = n
        · exact .inr ⟨s, a, ha, by rw [h]; simp [ha]⟩
        · exact .inl (by rw [h]; simp [Ne.symm ha])
      · exact .inr h
    · rcases List.mem_cons.1 he with rfl | he
      · rcases h2 e.strand with h | ⟨u, e', h, h'⟩
        · exact ⟨s, e, rfl, by rw [h]; simp⟩
        · exact ⟨u, e', h, h'⟩
      · exact h3 e he

/-- A table that lists the numbers below n with one value. -/
theorem tget_range {α : Type} (n : Nat) (v : α) (g : Nat) (h : g < n) (d : α := v) : tget ((List.range n).map (fun g => (g, v))) g d = v := by
  have : tget? ((List.range n).map (fun g => (g, v))) g = some v := by
    induction n with
    | zero => omega
    | succ n ih =>
      rw [List.range_succ, List.map_append]
      by_cases hg : g < n
      · have := ih hg
        simp only [tget?, List.find?_append, Option.map_or] at this ⊢
        rw [this]; rfl
      · have e : g = n := by omega
        subst e
        have hn : ((List.range g).map (fun g => (g, v))).find? (fun e => e.1 == g) = none := by
          simp only [List.find?_eq_none, List.mem_map, List.mem_range]
          rintro _ ⟨a, ha, rfl⟩
          simp; omega
        simp [tget?, List.find?_append, hn]
  simp [tget, this]

/-- A new strand is empty, bound where it is LOCAL (R72, R83). -/
theorem newStrand_holds (s : State) (j : Nat) (e : StrandE) :
    let x := s.newStrand j e
    x.job = j ∧ x.entry.strand = e.strand ∧ x.nextSeq = [] ∧ x.expSeq = [] ∧
            x.slots = [] ∧ (x.entry.place = .locl → x.bound = true ∧ ∀ g < s.groups x, tget x.credits g 0 = x.entry.depth) ∧
            (x.entry.place ≠ .locl → x.bound = false ∧ x.binding = true) := by
  unfold State.newStrand
  lift_lets
  intro k
  split
  · rename_i h
    refine ⟨rfl, rfl, rfl, rfl, rfl, fun _ => ⟨rfl, fun g hg => tget_range (s.groups k) k.entry.depth g hg 0⟩, fun h' => absurd h h'⟩
  · rename_i h
    exact ⟨rfl, rfl, rfl, rfl, rfl, fun h' => absurd h' h, fun _ => ⟨rfl, rfl⟩⟩

theorem modLoupes_keeps (l : List StationE) (j : Nat) (s : State) :
   (l.foldl (fun s e => s.modLoupe e.target (fun k => { k with station := some e.station, job := j })) s).jobs = s.jobs ∧
   (l.foldl (fun s e => s.modLoupe e.target (fun k => { k with station := some e.station, job := j })) s).strands = s.strands :=
  by
  constructor
  · refine foldl_keep State.jobs _ (fun s e => ?_) _ _; rfl
  · refine foldl_keep State.strands _ (fun s e => ?_) _ _; rfl

/-- A commit that is accepted: the job is committed and each strand of its table is new (R72). -/
theorem commit_holds (s : State) (j : Nat) (k : JobSt) sts sks (hk : s.job? j = some k) :
   (∃ p, (s.commit j sts sks).1.job? j = some { k with phase := .committed, priced := p, stale := [] }) ∧
   ∀ e ∈ sks, ∃ u e', e'.strand = e.strand ∧ (s.commit j sts sks).1.strand? e.strand = some (State.newStrand u j e') := by
  unfold State.commit
  have h0 : (s.bindCores j sts).1.job? j = some k := by
    have := congrArg State.jobs (bindCores_unCore s j sts)
    have : (s.bindCores j sts).1.jobs = s.jobs := this
    rw [State.job?, this]; exact hk
  generalize hb : s.bindCores j sts = b at h0
  obtain ⟨b, kept⟩ := b
  dsimp only at h0 ⊢
  simp only [State.modJob, h0]
  generalize hw : State.wakeBuffers _ _ = w
  have hwj : w.job? j = some { k with phase := .committed } := by
    rw [← hw, State.job?, wakeBuffers_jobs]
    exact (show State.job? (State.setJob _ _ _) _ = _ from by simp)
  obtain ⟨h1, h2, h3⟩ := setStrands_holds j sks w
  have hl := modLoupes_keeps (sts.filter (fun e => e.kind == .loupe)) j (sks.foldl (fun s e => s.setStrand e.strand (s.newStrand j e)) w)
  generalize List.foldl (fun (s : State) (e : StationE) => s.modLoupe e.target (fun k => { k with station := some e.station, job := j })) _ _ = v at hl ⊢
  have hv : v.job? j = some { k with phase := .committed } := by
    rw [State.job?, hl.1, h1]; exact hwj
  rw [hv]
  refine ⟨⟨v.reprice sts sks, by simp⟩, fun e he => ?_⟩
  obtain ⟨u, e', h, h'⟩ := h3 e he
  refine ⟨u, e', h, ?_⟩
  rw [← h']
  simp only [State.strand?, setJob_strands, hl.2]


end Sys2Proof.Machine
end

