-- ==== Sys2Proof/Tests/Slice0.lean ====
section
/-! SUPPORT. Tests: an ill-formed term for each check of WellFormed, one step of a small state for each kind of command, and
for each statement with hypotheses a state and operands that meet them. -/

namespace Sys2Proof.Tests

open Sys2Proof.Machine

set_option Elab.async false

/-! ## Well-formedness: an ill-formed term for each check, and its nearest well-formed neighbour -/

def okCells : HostMem := { cells := [(4, 1), (2 ^ 52 - 1, 2)] }
def badOrder : HostMem := { cells := [(4, 1), (4, 2)] }
def badAddr : HostMem := { cells := [(2 ^ 52, 1)] }
def farCoord : Coord := { x := 31, y := 31, z := 32 }

theorem test_wf_doorbell : (Instr.doorbell 0 0 0 0).wellFormed = false ∧ (Instr.doorbell 0 9 0 0).wellFormed = false ∧
    (Instr.doorbell 0 8 4096 0).wellFormed = false ∧ (Instr.doorbell 0 8 4095 0).wellFormed = true := by decide
theorem test_wf_fetch : (Instr.descriptorFetch badOrder false).wellFormed = false ∧ (Instr.descriptorFetch badAddr false).wellFormed = false ∧
    (Instr.descriptorFetch okCells false).wellFormed = true := by decide
theorem test_wf_images : (Instr.work 0 badOrder).wellFormed = false ∧ (Instr.loadStations 0 badAddr).wellFormed = false ∧
    (Instr.loadStrands 0 badOrder).wellFormed = false := by decide
theorem test_wf_hdm : (Instr.hdmCommit (2 ^ 52) 1 1).wellFormed = false ∧ (Instr.hdmCommit 0 (2 ^ 52) 1).wellFormed = false ∧
    (Instr.hdmCommit 0 1 0).wellFormed = false ∧ (Instr.hdmCommit 0 1 1).wellFormed = true := by decide
theorem test_wf_window : (Instr.cxlMemRequest 32 none false false [] false).wellFormed = false ∧
    (Instr.cxlMemRequest 64 (some [none]) false false [] false).wellFormed = false ∧ (Instr.cxlMemRequest 64 none false false [8] false).wellFormed = false ∧
    (Instr.cxlMemRequest 64 none false false [7] false).wellFormed = true := by
  decide
theorem test_wf_registerWrite : (Instr.registerWrite .host .bar0 0 0 0).wellFormed = false ∧ (Instr.registerWrite .host .bar2 0 9 0).wellFormed = false ∧
    (Instr.registerWrite .firmware .bar0 0 8 0).wellFormed = true ∧ (Instr.rllRead .host .bar0 0 0).wellFormed = false ∧
    (Instr.rllRead .host .bar2 0 9).wellFormed = false ∧ (Instr.rllRead .firmware .bar0 0 4).wellFormed = true := by decide
theorem test_wf_assaySweep : (Instr.assaySweep 0 [(2 ^ 24, 0)]).wellFormed = false ∧ (Instr.assaySweep 0 [(2, 0)]).wellFormed = false ∧
    (Instr.assaySweep 260 [(4, 15)]).wellFormed = true := by decide
theorem test_wf_peerReplies : (Instr.fetchResponse 0 [33554432] .none []).wellFormed = false ∧
    (Instr.fetchResponse 0 [] (.data [0] [1]) []).wellFormed = false ∧ (Instr.storeWrite 0 0 (.data [] [0]) []).wellFormed = false ∧
    (Instr.fetchResponse 0 [] .none [33554432]).wellFormed = false ∧ (Instr.storeWrite 0 0 .none [33554432]).wellFormed = false ∧
    (Instr.fetchResponse 0 [33554431] (.data [0] [0]) [33554431]).wellFormed = true := by decide
theorem test_wf_hallmark : (Instr.hallmarkEvent 0 { unit := 0 }).wellFormed = false ∧ (Instr.hallmarkEvent 0 { unit := 11 }).wellFormed = false ∧
    (Instr.hallmarkEvent 0 { unit := 1, col := 256 }).wellFormed = false ∧ (Instr.hallmarkEvent 0 { unit := 1, lane := 256 }).wellFormed = false ∧
    (Instr.rerunDecision 0 [{ unit := 0 }]).wellFormed = false ∧ (Instr.rerunDecision 0 [{}, { lane := 1 }]).wellFormed = false ∧
    (Instr.rerunDecision 0 [{}, { col := 1 }]).wellFormed = true := by decide
theorem test_wf_selfTest : (Instr.targetedSelfTest 0 0 true).wellFormed = false ∧ (Instr.targetedSelfTest 6 0 true).wellFormed = false ∧
    (Instr.targetedSelfTest 1 (2 ^ 32) true).wellFormed = false ∧ (Instr.targetedSelfTest 5 0 true).wellFormed = true := by decide
theorem test_wf_scrub : (Instr.scrubRead (.spad 0) 25088 []).wellFormed = false ∧ (Instr.scrubRead (.spad 0) 0 [(4, .correctable)]).wellFormed = false ∧
    (Instr.scrubRead (.slice 0) 135168 []).wellFormed = false ∧ (Instr.scrubRead (.slice 0) 0 [(64, .correctable)]).wellFormed = false ∧
    (Instr.lds 0 [(4194304, .correctable)]).wellFormed = false ∧ (Instr.tileLand 0 0 [33554432]).wellFormed = false ∧
    (Instr.migrationSwitch 0 [262144]).wellFormed = false ∧ (Instr.peerRequest {} [33554432] []).wellFormed = false ∧ (Instr.peerRequest {} [] [33554432]).wellFormed = false ∧ (Instr.memTripEnd (.hbm 0 0) 1024).wellFormed = false ∧
    (Instr.patrolScrub 4 none).wellFormed = false ∧ (Instr.sliceRepair 0 0 [(8192, true)]).wellFormed = false := by decide
theorem test_wf_analogue : (Instr.memTrip (.hbm 0 0) 1024).wellFormed = false ∧ (Instr.droopStretch 0 1024).wellFormed = false ∧
    (Instr.trip 0 1024 0).wellFormed = false ∧ (Instr.trip 0 0 1024).wellFormed = false ∧ (Instr.heatThrottle 0 256 0).wellFormed = false ∧
    (Instr.heatRelease 0 256).wellFormed = false ∧ (Instr.heatDark 0 256).wellFormed = false := by decide +kernel
theorem test_wf_lists : (Instr.pathDelayMeasure []).wellFormed = false ∧
    (Instr.hardwareLoopTick (List.replicate 133 0) []).wellFormed = false ∧ (Instr.hardwareLoopTick [] [65536]).wellFormed = false ∧ (Instr.pldmSensorUpdate [] none).wellFormed = false ∧
    (Instr.claspBlockReceive 0 [] 0 []).wellFormed = false ∧ (Instr.claspBlockReceive 0 (List.replicate 256 0) 0 [30]).wellFormed = false ∧
    (Instr.pldmSensorUpdate [] (some (true, .fru))).wellFormed = true ∧ (Instr.rollCall (some (0, farCoord)) []).wellFormed = false ∧ (Instr.broadcastBlock 0 0 1 0 []).wellFormed = false := by decide +kernel
theorem test_wf_bringup : (Instr.bringupStart { colFail := [(120, 0)] }).wellFormed = false ∧ (Instr.bringupStart { colFail := [(0, 256)] }).wellFormed = false ∧
    (Instr.bringupStart { coreFail := [120] }).wellFormed = false ∧ (Instr.bringupStart { bankRows := [(0, 32, 1)] }).wellFormed = false ∧
    (Instr.bringupStart { sliceRows := [(0, 128, 1)] }).wellFormed = false ∧ (Instr.bringupStart { loupeFail := [12] }).wellFormed = false ∧
    (Instr.bringupStart { filFail := [16] }).wellFormed = false ∧ (Instr.bringupStart { laneFail := [(6, 0)] }).wellFormed = false ∧
    (Instr.bringupStart { licenceBad := [8] }).wellFormed = false ∧ (Instr.bringupStart { trainFail := [36] }).wellFormed = false ∧
    (Instr.bringupStart { fastFail := [42] }).wellFormed = false ∧ (Instr.bringupStart { links := [(6, [], 0, none)] }).wellFormed = false ∧
    (Instr.bringupStart { monitors := [(132, 0, 0, 0)] }).wellFormed = false ∧ (Instr.bringupStart { monitors := [(0, 0, 0, 256)] }).wellFormed = false ∧
    (Instr.bringupStart { trips := List.replicate 13 0 }).wellFormed = false ∧ (Instr.bringupStart {}).wellFormed = true := by decide
theorem test_wf_coords : (Instr.clsBind none { origin := farCoord }).wellFormed = false ∧ (Instr.clsRelease none 0 farCoord).wellFormed = false ∧
    (Instr.placement {} { coord := farCoord }).wellFormed = false ∧ (Instr.bcastStart {} 0 farCoord {}).wellFormed = false ∧
    (Instr.bcastStart {} 0 {} farCoord).wellFormed = false ∧ (Instr.bcastDone farCoord).wellFormed = false ∧
    (Instr.rollCall none [(farCoord, .matched)]).wellFormed = false ∧ (Instr.bcastDone { x := 31, y := 31, z := 31 }).wellFormed = true := by decide
theorem test_wf_offsets : (Instr.floorplanRead {} 65536 0).wellFormed = false ∧ (Instr.floorplanRead {} 0 65536).wellFormed = false ∧
    (Instr.keepsakeRead {} 0 true (2 ^ 32) 0).wellFormed = false ∧ (Instr.keepsakeRead {} 0 true 0 (2 ^ 32)).wellFormed = false ∧
    (Instr.attestChain {} 65536 0).wellFormed = false ∧ (Instr.attestChain {} 0 65536).wellFormed = false ∧
    (Instr.chainRead 65536 0).wellFormed = false ∧ (Instr.chainRead 0 65536).wellFormed = false := by decide
theorem test_wf_sessions : (Instr.sessionStart [] (List.replicate 32 0)).wellFormed = false ∧ (Instr.sessionStart (List.replicate 97 0) []).wellFormed = false ∧
    (Instr.sessionData (2 ^ 64) [] (List.replicate 16 0)).wellFormed = false ∧ (Instr.sessionData 0 [] []).wellFormed = false ∧
    (Instr.licenceEffect [12] []).wellFormed = false ∧ (Instr.licenceEffect [] [(0, 32)]).wellFormed = false := by decide

/-! ## Small states -/

/-- A module in READY with nothing in it. -/
def ready : State := { gen := { state := .ready } }
/-- A READY module whose ring 0 is given. -/
def onRing (k : RingSt) : State := { ready with rng := { rings := [(0, k)] } }
/-- A descriptor of ring 0: opcode, JOB, TAG, then further fields as (offset, bytes, value). -/
def desc (op job tag : Nat) (more : List (Nat × Nat × Nat) := []) : Desc :=
  { bytes := layout 64 ([(0, 1, op), (2, 2, job), (4, 4, tag)] ++ more) }
/-- A READY module with this descriptor fetched on ring 0. -/
def landed (d : Desc) : State := onRing { state := .on, fetched := [d], outstanding := 1, sizes := 0x1144 }

/-- The command answers a next state of which this holds. -/
def after (c : Instr) (s : State) (p : State → Bool) : Bool := match exec c s with | .next t => p t | _ => false
/-- The command answers this next state. -/
def gives (c : Instr) (s t : State) : Bool := after c s (fun u => decide (u = t))

/-! ## The queue, time, rings and completions -/

theorem test_empty_queue_keeps_reset : State.reset.pending = [] ∧ State.reset.gen.state = .reset := by decide
/-- A doorbell of a ring that is OFF leaves the machine as it is. -/
theorem test_doorbell_off_ring : gives (.doorbell 0 8 0 0xFFFF) ready ready = true := by decide
/-- R281: 16 entries are the most a queue of SQ_SIZE 4 holds; 17 halt the ring. -/
def bell : State := onRing { state := .on, sizes := 0x1144, cqTail := 3, tileTail := 2 }
theorem wit_doorbells : bell.gen.state ≠ .reset ∧ bell.cxl.d3 = false ∧ (bell.ring 0).state = .on ∧
    (16 : W16).toNat ≤ 2 ^ ((bell.ring 0).sizes.toNat % 16) ∧ ¬ (17 : W16).toNat ≤ 2 ^ ((bell.ring 0).sizes.toNat % 16) ∧
    (3 : W16).toNat ≤ ((bell.ring 0).cqTail).toNat ∧ ¬ (4 : W16).toNat ≤ ((bell.ring 0).cqTail).toNat ∧
    (2 : W16).toNat ≤ ((bell.ring 0).tileTail).toNat := by decide
theorem test_doorbell_full : gives (.doorbell 0 8 0 0x0000000200030010) bell
    (bell.setRing 0 { bell.ring 0 with sqTail := 16, cqHead := 3, tileHead := 2 }) = true := by decide
theorem test_doorbell_too_far : after (.doorbell 0 4 0 0x0000000000030011) bell (fun t =>
    decide ((t.ring 0).state = .halted) && decide ((t.ring 0).sqTail = 0) && (t.ring 0).flags.getLsbD 1) = true := by decide
theorem test_doorbell_same : (0 : W16) = (bell.ring 0).sqTail ∧ (0 : W16) = (bell.ring 0).cqHead ∧ (0 : W16) = (bell.ring 0).tileHead := by decide

def fetching : State := onRing { state := .on, sizes := 0x1144, sqTail := 1, sqBase := 4096 }
theorem wit_fetch : fetching.gen.state = .ready ∧ fetching.cxl.d3 = false ∧ fetching.fetchTurn = some 0 ∧ hostFails {} 4096 64 = false := by
  decide
/-- R269: a line with poison halts the ring with FETCH_ERR. -/
theorem test_fetch_poison : after (.descriptorFetch { bad := [64] } false) fetching (fun t =>
    decide ((t.ring 0).state = .halted) && (t.ring 0).flags.getLsbD 2) = true := by decide

theorem wit_nop : (landed (desc 1 0 7)).landing 0 1 = .go (desc 1 0 7) ∧ firstFault (headerFaults (desc 1 0 7)) = none ∧
    (landed (desc 1 0 7)).gen.state = .ready ∧ ((landed (desc 1 0 7)).ring 0).held = [] ∧ 0 < ((landed (desc 1 0 7)).ring 0).cqFree ∧
    (descF (desc 1 0 7) 1 1).testBit 0 = false ∧ (desc 1 0 7).ring = 0 := by decide
/-- R296: a nonzero reserved byte is REJECTED_FORM with the byte's offset in DETAIL. -/
theorem test_nop_reserved : firstFault (headerFaults (desc 1 0 7 [(0x20, 1, 9)])) = some 0x20 := by decide

/-- An item of ring 0 with no windows, and a module that holds it. -/
def item0 : Item := { tag := 5, ring := 0, deadline := 100 }
def holding (k : RingSt) (i : Item := item0) : State := { onRing k with alm := { items := [i] }, cal := 100 <<< 24 }
def doneItem : Item := { item0 with status := some (0x20, 0) }
theorem wit_completions_written : (holding { state := .on, sizes := 0x1144 } doneItem).item? 5 = some doneItem ∧
    (holding { state := .on, sizes := 0x1144 } doneItem).nextFormed doneItem = true ∧
    ((holding { state := .on, sizes := 0x1144 } doneItem).ring 0).silent = false ∧ ((holding { state := .halted } doneItem).ring 0).silent = true ∧
    (holding { state := .halted } doneItem).nextFormed doneItem = true ∧
    0 < ((holding { state := .on, sizes := 0x1144 } doneItem).ring 0).cqFree ∧ doneItem.step = none := by decide
def full : RingSt := { state := .on, sizes := 0x1144, cqTail := 16 }
theorem wit_completions_held : (holding full doneItem).nextFormed doneItem = true ∧ ((holding full doneItem).ring 0).cqFree = 0 ∧
    ((holding full doneItem).ring 0).silent = false ∧
    (holding { full with held := [{ tag := 5, item := true }] } doneItem).nextFormed doneItem = false := by decide
/-- R295: of two completions the one priced earlier is formed first. -/
theorem test_completion_order : let s : State := { onRing { state := .on, sizes := 0x1144 } with
      alm := { items := [{ doneItem with cslot := 9 }, { doneItem with tag := 6, cslot := 8 }] }, cal := 100 <<< 24 }
    s.nextFormed { doneItem with cslot := 9 } = false ∧ s.nextFormed { doneItem with tag := 6, cslot := 8 } = true := by decide
def freeHeld (r : Rec32) : RingSt := { state := .on, sizes := 0x1144, held := [r] }
theorem wit_held_written : ((onRing (freeHeld { tag := 9 })).ring 0).held = [{ tag := 9 }] ∧ ((onRing (freeHeld { tag := 9 })).ring 0).silent = false ∧
    0 < ((onRing (freeHeld { tag := 9 })).ring 0).cqFree ∧ ((onRing { full with held := [{ tag := 9 }] }).ring 0).cqFree = 0 := by decide
/-- R294: the held completion of an item, before its DEADLINE, after it, and of one that has ended. -/
theorem wit_held_item : let r : Rec32 := { tag := 5, item := true }
    ((holding (freeHeld r)).ring 0).held = [r] ∧ (holding (freeHeld r)).item? 5 = some item0 ∧
    ({ holding (freeHeld r) with cal := 101 <<< 24 } : State).now > item0.deadline.toNat ∧ (holding (freeHeld r)).now ≤ item0.deadline.toNat ∧
    (holding (freeHeld r) doneItem).item? 5 = some doneItem ∧ doneItem.status = some (0x20, 0) := by decide
def heldRing : RingSt := { full with held := [{ tag := 5, item := true }] }
theorem wit_host_stall : (holding heldRing).item? 5 = some item0 ∧ item0.status = none ∧ (holding heldRing).heldItem item0 = true ∧
    item0.deadline.toNat ≤ (holding heldRing).now ∧ (({ holding heldRing with cal := 0 } : State)).now < item0.deadline.toNat := by decide

/-- A job 1 whose strand 3 runs from core station 0 to HOST station 1 on ring 0. -/
def hostJob : JobSt := { phase := .committed, stations := some [{ station := 0, kind := .core, cores := [0] }, { station := 1, kind := .host, target := 0 }],
                         strands := some [{ strand := 3, src := 0, dst := 1, depth := 1 }] }
def outStrand : StrandSt := { job := 1, entry := { strand := 3, src := 0, dst := 1, depth := 1 }, bound := true, outbound := [{ strand := 3, work := 5 }] }
def hostSide (r : RingSt) : State := { onRing r with jobs := [(1, hostJob)], strands := [(3, outStrand)], alm := { items := [{ item0 with job := 1 }] }, cal := 100 <<< 24 }
theorem wit_host_tiles : (hostSide { state := .on, sizes := 0x1144 }).strand? 3 = some outStrand ∧
    (hostSide { state := .on, sizes := 0x1144 }).dstStn outStrand = some { station := 1, kind := .host, target := 0 } ∧
    0 < ((hostSide { state := .on, sizes := 0x1144 }).ring 0).tileFree ∧ ((hostSide { state := .on, sizes := 0x0044 }).ring 0).tileFree = 0 := by
  decide
theorem wit_host_tiles_peer : ({ hostSide { state := .on, sizes := 0x1144 } with strands := [(3, { outStrand with entry := { outStrand.entry with place := .fromPeer } })] } : State).strand? 3 =
    some { outStrand with entry := { outStrand.entry with place := .fromPeer } } ∧ ((hostSide { state := .halted }).ring 0).state = .halted := by decide
def busyItem : Item := { item0 with job := 1, wins := [{ station := 0 }] }
theorem wit_host_abort : let s := { hostSide { state := .on, sizes := 0x1144 } with alm := { items := [busyItem] } }
    s.item? 5 = some busyItem ∧ s.hostBlocked busyItem = true ∧ s.heldItem busyItem = false ∧ busyItem.deadline.toNat ≤ s.now := by decide
/-- R258: a buffer with room does not keep an item from its tiles. -/
theorem test_host_not_blocked : ({ hostSide { state := .on, sizes := 0x1144 } with alm := { items := [busyItem] }, strands := [(3, { outStrand with entry := { outStrand.entry with depth := 2 } })] } : State).hostBlocked busyItem = false := by
  decide
theorem test_host_tile_no_slot : gives (.hostTileWrite 3 true) (hostSide { state := .on, sizes := 0x0044 }) (hostSide { state := .on, sizes := 0x0044 }) = true := by
  decide

/-- R297: a coalesced vector sends one message a microsecond; a masked one sets its pending bit. -/
def waitingVector : State := { ready with rng := { msixOn := true, coalesce := [(2047, true)], msix := [(8191, 0)] } }
theorem wit_coalesce : tget? waitingVector.rng.coalesce 2047 = some true ∧ waitingVector.masked 2047 = false ∧
    ({ waitingVector with rng := { coalesce := [(0, true)] } } : State).masked 0 = true ∧
    tget? ({ ready with rng := { coalesce := [(7, false)] } } : State).rng.coalesce 7 = some false := by decide
theorem wit_rings : ready.cxl.d3 = false ∧ (ready.ring 8191).state = .off ∧ ready.cfgFault (ready.ring 8191) ≠ 0 ∧
    (onRing { state := .off, sizes := 0x0066, sqBase := 4096, cqBase := 8192, units := 1 }).cfgFault { state := .off, sizes := 0x0066, sqBase := 4096, cqBase := 8192, units := 1 } = 0 ∧
    ((onRing { state := .on }).ring 0).outstanding = 0 ∧ (onRing { state := .on }).ringBusy 0 = false ∧
    (hostSide { state := .on }).ringBusy 0 = true ∧ (landed (desc 1 0 7)).ringBusy 0 = false ∧ ((landed (desc 1 0 7)).ring 0).outstanding ≠ 0 := by decide
theorem test_disable_idle : after (.ringDisable 0) (onRing { state := .on }) (fun t => decide ((t.ring 0).state = .off)) = true := by decide
theorem test_disable_busy : after (.ringDisable 0) (hostSide { state := .on }) (fun t =>
    decide ((t.ring 0).state = .on) && (t.ring 0).flags.getLsbD 4) = true := by decide

/-! ## Descriptors, jobs and work items -/

/-- A READY module with a descriptor landing on ring 0 and the given jobs. -/
def withJobs (d : Desc) (jobs : Tab JobSt) : State := { landed d with jobs := jobs }
/-- The descriptor lands whatever its own operand faults. -/
abbrev lands0 (s : State) (op : Nat) (d : Desc) : Prop :=
  s.landing 0 op = .go d ∧ firstFault (headerFaults d) = none ∧ s.gen.state = .ready

theorem wit_refusals : (landed (desc 0x7F 0 1)).landing 0 1 = .refuse (desc 0x7F 0 1) ∧
    (landed (desc 1 9 1)).landing 0 1 = .go (desc 1 9 1) ∧ firstFault (headerFaults (desc 1 9 1)) = some 2 ∧
    (landed (desc 0x10 1 1)).landing 0 0x10 = .go (desc 0x10 1 1) ∧ firstFault (headerFaults (desc 0x10 1 1)) = none ∧
    ({ landed (desc 0x10 1 1) with gen := { state := .stopped } } : State).landing 0 0x10 = .go (desc 0x10 1 1) ∧
    ready.landing 0 1 = .wait := by decide

theorem wit_job_open : lands0 (withJobs (desc 0x10 65535 1) []) 0x10 (desc 0x10 65535 1) ∧ descJob (desc 0x10 65535 1) = 65535 ∧
    (withJobs (desc 0x10 1 1) [(1, {})]).job? 1 = some {} := by decide
theorem test_job_open : after (.jobOpen 0) (withJobs (desc 0x10 65535 1) []) (fun t => decide (t.job? 65535 = some {})) = true := by
  decide

/-- An image of one entry at host address 4096: kind, job, entry (R49). -/
def image (kind job : Nat) (entry : List Byte) : List Byte :=
  layout 64 [(0, 1, kind), (2, 2, job), (4, 2, 1), (8, 4, (crc32c entry).toNat)] ++ entry
def hostBytes (a : Nat) (bs : List Byte) : HostMem := { cells := bs.zipIdx.map (fun x => (a + x.2, x.1)) }
/-- A HOST station 7 on ring 8191, and a strand 4095 from station 1 to station 0. -/
def hostEntry : List Byte := layout 64 [(0, 2, 7), (2, 1, 6), (6, 2, 8191)]
def strandEntry : List Byte := layout 32 [(0, 2, 4095), (2, 2, 1), (4, 2, 0), (0xA, 1, 64), (0xC, 2, 1), (0xE, 2, 8000)]
def loadDesc (op n : Nat) : Desc := desc op 1 9 [(0x08, 8, 4096), (0x10, 4, n)]

theorem wit_load_stations :
    (withJobs (loadDesc 0x11 128) [(1, {})]).landing 0 0x11 = .go (loadDesc 0x11 128) ∧
    firstFault (headerFaults (loadDesc 0x11 128) ++ (withJobs (loadDesc 0x11 128) [(1, {})]).loadFaults 64 1024 (loadDesc 0x11 128)) = none ∧
    fetchImage (hostBytes 4096 (image 1 1 hostEntry)) 1 64 1024 (loadDesc 0x11 128) = some (image 1 1 hostEntry) := by decide +kernel
theorem wit_load_stations_entries :
    stationsOf (fun a n => (withJobs (loadDesc 0x11 128) [(1, {})]).hostAddrOk a 64 n) (hostBytes 4096 (image 1 1 hostEntry)) 0 []
      (imageEntries 64 (image 1 1 hostEntry)) = .inr [{ station := 7, kind := .host, target := 8191 }] := by decide +kernel
theorem wit_load_strands :
    fetchImage (hostBytes 4096 (image 2 1 strandEntry)) 2 32 4096 (loadDesc 0x12 96) = some (image 2 1 strandEntry) ∧
    strandsOf 0 [] (imageEntries 32 (image 2 1 strandEntry)) =
      .inr [{ strand := 4095, src := 1, dst := 0, depth := 64, maxKib := 1, rate := 8000 }] ∧
    (withJobs (loadDesc 0x12 96) [(1, {})]).unlicensed { strand := 4095, src := 1, dst := 0, depth := 64 } = false ∧
    firstFault (headerFaults (loadDesc 0x12 96) ++ (withJobs (loadDesc 0x12 96) []).loadFaults 32 4096 (loadDesc 0x12 96)) = none := by
  decide +kernel

/-- Core station 0 on logical core 0 with END alone, and an HBM station 1 of field 0, with a strand from the second to the first. -/
def endWord : W64 := 0x0100000000000000
def coreStn : StationE :=
  { station := 0, kind := .core, width := 256, cores := [0], program := { width := 256, code := [endWord] },
    card := { wPeak := 1, plans := [{ plan := 0, busyBase := 100 }] } }
def memStn : StationE := { station := 1, kind := .hbm, target := 0, regionLen := 1 }
def inStrand : StrandE := { strand := 3, src := 1, dst := 0, depth := 2 }
def twoStations : JobSt := { stations := some [coreStn, memStn], strands := some [inStrand] }
/-- Logical core 0 on physical core 0, its region ON, and a device cap that binds nothing. -/
def served (s : State) : State :=
  { s with gen := { state := .ready, assign := [(0, some 0)] }, pwr := { regions := [(0, { state := .on })] },
           thm := { capDev := 0xFFFF } }
theorem wit_commit : let s := served (withJobs (desc 0x13 1 9) [(1, twoStations)])
    lands0 s 0x13 (desc 0x13 1 9) ∧ s.job? 1 = some twoStations ∧ commitForm [coreStn, memStn] [inStrand] = none ∧
    s.heldElsewhere 1 [coreStn, memStn] [inStrand] = false ∧ s.unlicensed inStrand = false := by decide +kernel
theorem wit_commit_state : let s := served (withJobs (desc 0x13 1 9) [(1, twoStations)])
    ((boundCores [coreStn, memStn]).foldl (fun s l => s.boundary l) (s.take 0)).commitState 1 [coreStn, memStn] [inStrand] = none ∧
    (let r := withJobs (desc 0x13 1 9) [(1, twoStations)]
     ((boundCores [coreStn, memStn]).foldl (fun s l => s.boundary l) (r.take 0)).commitState 1 [coreStn, memStn] [inStrand] = some 0x8004) := by
  decide +kernel

/-- R74, R285: the JOB_KILL of job 1 that ring 1, or the commit's own ring, has fetched overtakes the commit; another job holds
station 0. -/
theorem wit_commit_killed : let s := served (withJobs (desc 0x13 1 9) [(1, twoStations)])
    let kill : Desc := { desc 0x15 1 9 with ring := 1 }
    let k : State := { s with rng := { rings := [(0, s.ring 0), (1, { state := .on, fetched := [kill], outstanding := 1 })] } }
    (k.take 0).killWaits 1 = true ∧ (s.take 0).killWaits 1 = false ∧
    ({ s with rng := { rings := [(0, { s.ring 0 with fetched := [desc 0x13 1 9, desc 0x15 1 8] })] } } : State).killWaits 1 = true ∧
    ({ s with jobs := [(1, twoStations), (2, twoStations)] } : State).heldElsewhere 1 [coreStn, memStn] [inStrand] = true ∧
    commitForm [memStn] [inStrand] ≠ none ∧ (withJobs (desc 0x13 1 9) [(1, {})]).job? 1 = some {} := by decide +kernel

theorem wit_close_and_kill : lands0 (withJobs (desc 0x14 1 9) [(1, {})]) 0x14 (desc 0x14 1 9) ∧
    lands0 (withJobs (desc 0x15 1 9) [(1, {})]) 0x15 (desc 0x15 1 9) ∧
    lands0 (withJobs (desc 0x14 1 9) [(1, { phase := .committed })]) 0x14 (desc 0x14 1 9) ∧
    (withJobs (desc 0x14 1 9) [(1, { phase := .committed })]).fst.streams = [] := by decide
/-- An item of job 1 with one unfinished window of station 0. -/
def runItem : Item := { tag := 5, job := 1, deadline := 100, wins := [{ station := 0, first := 1, last := 2 }] }
def withItem (s : State) (i : Item) : State := { s with alm := { items := [i] } }
theorem wit_kill_items : let s := withItem (withJobs (desc 0x15 1 9) [(1, { twoStations with phase := .committed })]) runItem
    s.item? 5 = some runItem ∧ runItem.wins.all (s.winDone runItem) = false ∧ lands0 s 0x15 (desc 0x15 1 9) := by decide

theorem wit_closed_jobs : let s : State := { ready with jobs := [(1, { phase := .closing })], cores := [(0, { job := 1 })] }
    s.job? 1 = some { phase := .closing } ∧ s.jobItems 1 = [] ∧ (s.core 0).job = 1 ∧ (s.core 1).job ≠ 1 ∧
    (withItem s runItem).jobItems 1 ≠ [] := by decide
/-- With no fault pending, no retirement is due for any core or link. -/
theorem wit_closed_jobs_due (c l : Nat) : ready.unitsDue c = false ∧ ready.pairsDue l = [] := by
  constructor <;> rfl
/-- A trunk of job 2 over link 2, which needs the CL licence: commit is refused REJECTED_LICENCE for entry 0 (R72, R85). -/
def farStrand : StrandE := { strand := 3, src := 1, dst := 0, depth := 2, place := .toPeer, peer := { z := 1 } }
theorem wit_commit_licence : let s : State := { ready with cls := { place := some { extent := { x := 4, y := 4, z := 2 } } } }
    s.unlicensed farStrand = true ∧ firstIdx s.unlicensed [farStrand] = some 0 := by decide

def workDesc (mode : Nat := 0) : Desc := desc 2 1 5 [(0x08, 8, 1000000000), (0x18, 1, mode), (0x1A, 2, 1)]
def workState : State := served (withJobs (workDesc) [(1, { twoStations with phase := .committed })])
/-- The state that judges the work: its mark that it waits for intake is gone, the tiles are read, the verdict's time is noted. -/
def judged : State := ((workState.modRing 0 (fun k => { k with waitIntake := false })).readTiles {} workDesc).noteVerdict
theorem wit_work : workState.intakeUse + intakeNeed {} workDesc ≤ 16777216 ∧ workState.landing 0 0x02 = .go workDesc ∧
    firstFault (headerFaults workDesc ++ judged.workFaults workDesc) = none ∧ descF workDesc 0x1C 1 ≤ 64 ∧
    planStations [coreStn, memStn] [inStrand] 0 ≠ [] ∧ tileList {} workDesc = some [] ∧ workState.alm.holdover = false ∧
    workState.now ≤ descF workDesc 0x08 8 ∧ descF workDesc 0x10 8 ≤ workState.now + 10000000000 ∧ descF workDesc 0x18 1 ≠ 2 ∧
    descF (workDesc 2) 0x18 1 = 2 ∧ (judged.take 0).listTiles {} ((judged.take 0).hostStrandOk 1 0) 0 0 [] [] = .inr [] := by decide +kernel
/-- A tile of 17 MB of an admitted item fills the intake buffer, so that a WORK with a tile waits. -/
theorem wit_work_waits (t : Tile) (h : 16777216 < tileBytes t) : 16777216 < (withItem workState { runItem with tiles := [t] }).intakeUse := by
  have hs : ∀ e ∈ workState.strands, e.2.hostQ = [] := by decide +kernel
  have hh : (workState.strands.flatMap (fun e => e.2.hostQ)) = [] := by
    rw [List.flatMap_eq_nil_iff]; exact hs
  show 16777216 < ((([{ runItem with tiles := [t] }] : List Item).flatMap (·.tiles) ++ workState.strands.flatMap (fun e => e.2.hostQ)).map tileBytes).foldl (· + ·) 0
  rw [hh]
  simpa using h
theorem wit_work_place : (match (judged.take 0).verdict 1000000000 0 ((judged.take 0).windows [coreStn, memStn] [inStrand] 0 1 {}) with
    | .place _ _ w => !w.isEmpty | .late => false) = true ∧
    (judged.take 0).verdict 1 0 ((judged.take 0).windows [coreStn, memStn] [inStrand] 0 1 {}) = .late := by decide +kernel
theorem wit_work_checks : (judged.take 0).workState workDesc { twoStations with phase := .committed } [coreStn, memStn] [inStrand] 0 [] = none := by
  decide +kernel
theorem wit_work_full (n : Nat) : ((List.replicate n runItem).filter (fun i => i.step.isNone)).length = n := by
  simp [runItem]

theorem wit_abort : let s := withItem (withJobs (desc 3 0 9 [(8, 4, 5)]) [(1, { twoStations with phase := .committed })]) runItem
    lands0 s 3 (desc 3 0 9 [(8, 4, 5)]) ∧ s.item? 5 = some runItem ∧ s.isEnding runItem = false ∧
    (withItem s { runItem with status := some (0x20, 0) }).isEnding { runItem with status := some (0x20, 0) } = true ∧
    (withItem s { runItem with tag := 6 }).item? 5 = none := by decide
theorem wit_release : let i : Item := { runItem with released := false, release := 50 }
    (withItem ready i).item? 5 = some i ∧ (withItem ready i).now < i.release.toNat ∧
    i.release.toNat ≤ ({ withItem ready i with cal := 50 <<< 24 } : State).now := by decide
/-- R247: a RELEASE that has come frees the item's runs. -/
theorem test_release : let i : Item := { runItem with released := false, release := 50 }
    after (.timedRelease 5) { withItem ready i with cal := 50 <<< 24 } (fun t => (t.item? 5).any (·.released)) = true ∧
    gives (.timedRelease 5) (withItem ready i) (withItem ready i) = true := by decide
theorem wit_reprice : (served (withJobs (desc 1 0 1) [(1, { twoStations with phase := .committed })])).job? 1 =
    some { twoStations with phase := .committed } := by decide +kernel

/-! ## Locket, Feast and the CXL attachment -/

/-- A READY module with this descriptor landing and this Locket. -/
def locket (d : Desc) (l : LktSt) : State := { landed d with lkt := l }
def addDesc (op : Nat) : Desc := desc op 0 9 [(0x08, 1, 11), (0x09, 1, 0), (0x0C, 4, 2), (0x10, 4, 6)]
theorem wit_pools : lands0 (locket (addDesc 0x20) {}) 0x20 (addDesc 0x20) ∧
    firstFault (headerFaults (addDesc 0x20) ++ (locket (addDesc 0x20) {}).poolFaults (addDesc 0x20)) = none ∧
    (locket (addDesc 0x20) {}).pool 11 false = [] ∧ (locket (addDesc 0x20) {}).frameUsed 11 false 7 = false ∧
    lands0 (locket (addDesc 0x21) { hbmPool := [(11, [6, 7, 9])] }) 0x21 (addDesc 0x21) ∧
    6 ∈ (locket (addDesc 0x21) { hbmPool := [(11, [6, 7, 9])] }).pool 11 false ∧
    7 ∈ (locket (addDesc 0x21) { hbmPool := [(11, [6, 7, 9])] }).pool 11 false := by decide +kernel
/-- R201: removal takes the named frames out and leaves the others. -/
theorem test_pool_remove : after (.lktPoolRemove 0) (locket (addDesc 0x21) { hbmPool := [(11, [6, 7, 9])] }) (fun t =>
    decide (t.pool 11 false = [9])) = true := by decide +kernel

/-- Maps entries 4 and 5 to field 0: tier 0 HBM, 1 LPDDR, 2 a peer at tray position 1. -/
def mapDesc (tier : Nat) : Desc := desc 0x22 0 9 [(0x08, 4, 4), (0x0C, 4, 2), (0x10, 1, tier), (0x12, 1, if tier = 2 then 1 else 0), (0x13, 1, if tier = 2 then 1 else 0), (0x14, 4, if tier = 2 then 8 else 0)]
theorem wit_map : let s := locket (mapDesc 0) { hbmPool := [(0, [6, 7])] }
    lands0 s 0x22 (mapDesc 0) ∧ firstFault (headerFaults (mapDesc 0) ++ s.mapFaults (mapDesc 0)) = none ∧
    (s.entry 4).state = .free ∧ (s.entry 5).state = .free ∧ s.pool 0 false = [6, 7] ∧ (s.pool 0 false).Nodup ∧
    (locket (mapDesc 0) {}).pool 0 false = [] := by decide +kernel
/-- A module at (0,0,0) of a 2 x 1 x 1 block whose tray position 1 is its neighbour. -/
def trayed (s : State) : State := { s with cls := { cfg := 0x0F, place := some { extent := { x := 2, y := 1, z := 1 }, tray := [some {}, some { x := 1 }] } }, gen := { state := .ready, cl := true } }
theorem wit_map_peer : let s := trayed (locket (mapDesc 2) {})
    lands0 s 0x22 (mapDesc 2) ∧ firstFault (headerFaults (mapDesc 2) ++ s.mapFaults (mapDesc 2)) = none ∧ s.gen.cl = true ∧
    (s.trayRoute 1).getD [] ≠ [] ∧ (∃ l ∈ (({ s with gen := { s.gen with cl := false } } : State).trayRoute 1).getD [], l < 2) ∧ s.cls.cfg.toNat % 16 ≠ 0 ∧ 8 + 2 * s.pageUnits ≤ lpSize / 65536 := by decide +kernel
def rangeDesc (op : Nat) (more : List (Nat × Nat × Nat) := []) : Desc := desc op 0 9 ([(0x08, 4, 2097151), (0x0C, 4, 1)] ++ more)
def oneEntry (e : LktEntry) : LktSt := { entries := [(2097151, e)] }
theorem wit_unmap_pin_read : lands0 (locket (rangeDesc 0x23) (oneEntry { state := .hbm, frame := 3 })) 0x23 (rangeDesc 0x23) ∧
    firstFault (headerFaults (rangeDesc 0x23) ++ rangeFaults (rangeDesc 0x23)) = none ∧
    ((locket (rangeDesc 0x23) (oneEntry { state := .hbm, frame := 3 })).entry 2097151).owned = false ∧
    ((locket (rangeDesc 0x23) (oneEntry { state := .hbm, owned := true })).entry 2097151).owned = true ∧
    lands0 (locket (rangeDesc 0x24 [(0x10, 1, 1)]) (oneEntry { state := .hbm })) 0x24 (rangeDesc 0x24 [(0x10, 1, 1)]) ∧
    firstFault (headerFaults (rangeDesc 0x25 [(0x10, 8, 4096)]) ++ rangeFaults (rangeDesc 0x25 [(0x10, 8, 4096)])) = none ∧
    (locket (rangeDesc 0x25) {}).hostAddrOk 4096 64 8 = true := by decide +kernel
theorem test_unmap : after (.lktUnmap 0) (locket (rangeDesc 0x23) (oneEntry { state := .hbm, field := 2, frame := 3 })) (fun t =>
    decide ((t.entry 2097151).state = .free) && decide (t.pool 2 false = [3])) = true := by decide +kernel
theorem test_unmap_owned : after (.lktUnmap 0) (locket (rangeDesc 0x23) (oneEntry { state := .hbm, owned := true, slot := 9 })) (fun t =>
    (t.entry 2097151).owned) = true := by decide +kernel

/-- A lender of field 3, of which requester 1 has mapped frame 2. -/
def lender : State := { ready with lkt := { lend := 8, peerMaps := [(3, 1, 2)] } }
theorem wit_lender_maps : lender.gen.state ≠ .reset ∧ lender.lkt.lend.getLsbD 3 = true ∧
    (∀ e ∈ lender.lkt.peerMaps, e.1 = 3 → e.2.2 ∉ (List.range 2).map (lpSize / 65536 - 2 + ·)) ∧ 2 ∈ (List.range 2).map (1 + ·) := by decide +kernel
/-- A lender whose link X- is UP: its answers go out there. -/
def lenderUp : State := { lender with cls := { links := [(0, { state := .up })] } }
theorem test_lender_refuses_overlap :
    gives (.peerMapMessage { requester := 2, field := 3, first := 1, frames := 2 }) lender lender = true ∧
    after (.peerMapMessage { requester := 2, field := 3, first := 1, frames := 2 }) lenderUp (fun t =>
      decide (t.out.head? = some (.peerMapAnswer 2 false)) && decide (t.lkt = lender.lkt)) = true := by decide +kernel
theorem wit_lender_link : (lenderUp.link (lenderUp.trayLink 1)).carries = true ∧ (lender.link (lender.trayLink 1)).carries = false ∧
    (∃ x ∈ lender.peerRoutes { requester := 1, field := 3, frame := 2, len := 4096 }, x.1 ≠ []) ∧ wireBad (memField (lpBase 3)) 0 [7] = [7] := by decide +kernel
theorem wit_lender_requests : let r : PeerReq := { requester := 1, field := 3, frame := 2, len := 4096 }
    r.epoch = lender.cls.lendEpoch ∧ lender.peerMapped r = true ∧ lender.thm.coolantStop = false ∧
    lender.peerMapped { r with offset := 65536 } = false ∧ ({ r with epoch := 1 } : PeerReq).epoch ≠ lender.cls.lendEpoch ∧
    lender.rangeTripped (lpBase 3 + 131072) 4096 = false ∧ lender.wordPoison ((lpBase 3 + 131072) / 8 + 511) = false := by decide +kernel

/-- Slot 6 READY, owning LPDDR entry 4 of field 0; migration on. -/
def migrating : State :=
  { ready with
    lkt := { cfg := 0xFFF0, hbmPool := [(0, [9])], lpPool := [(0, [5])], hbmLow := 1,
             entries := [(4, { state := .lpddr, owned := true, slot := 6, frame := 2 }), (5, { state := .hbm, frame := 3, age := 40 })] }
    fst := { slots := [(6, { state := .ready, stream := 0, base := 4, pages := 1 })], streams := [(0, { job := 1 })] } }
theorem wit_migrate : migrating.copyIdle 0 = true ∧ migrating.promoteNext 0 = some 4 ∧ migrating.pool 0 false ≠ [] ∧
    migrating.demoteNext 0 = some 5 ∧ (migrating.pool 0 false).length < 32 * migrating.lkt.hbmLow.toNat ∧ migrating.pool 0 true ≠ [] ∧
    migrating.copyIdle 11 = true ∧ migrating.demoteNext 11 = none ∧ ({ migrating with lkt := { migrating.lkt with cfg := 0 } } : State).copyIdle 0 = false := by
  decide +kernel
def copying : State := { migrating with lkt := { migrating.lkt with copies := [(0, { entry := 4, dst := 9, up := true })] } }
theorem wit_switch : tget? copying.lkt.copies 0 = some { entry := 4, dst := 9, up := true } ∧ copying.cxl.selfRefresh = false ∧
    copying.fieldTripped 0 = false ∧ copying.copyRuns 0 = true ∧
    ({ copying with lkt := { copying.lkt with cfg := 0 } } : State).copyRuns 0 = false := by decide +kernel
theorem wit_switch_poison (w : Nat) (h : isHbm (8 * w) = false) : copying.wordPoison w = false := by
  simp only [State.wordPoison, h]; rfl
theorem wit_switch_source : isHbm ((copying.entry 4).addr 0) = false ∧ isHbm ((copying.entry 4).addr 0 + 65535) = false ∧ copying.pageBytes = 65536 := by
  decide +kernel

/-- Strand 3 from KV station 1 to core station 0 of the committed job 1. -/
def kvJob : JobSt := { phase := .committed, stations := some [coreStn, { station := 1, kind := .kv }], strands := some [{ inStrand with maxKib := 1 }] }
def bindDesc : Desc := desc 0x30 1 9 [(0x08, 1, 7), (0x09, 1, 8), (0x0A, 2, 3), (0x0C, 2, 64), (0x0E, 2, 64), (0x12, 2, 1)]
def kvState (d : Desc) : State := { withJobs d [(1, kvJob)] with strands := [(3, { job := 1, entry := inStrand, bound := true, credits := [(0, 2)] })] }
theorem wit_bind : lands0 (kvState bindDesc) 0x30 bindDesc ∧ firstFault (headerFaults bindDesc ++ bindFaults bindDesc) = none ∧
    (kvState bindDesc).strand? 3 = some { job := 1, entry := inStrand, bound := true, credits := [(0, 2)] } ∧
    (kvState bindDesc).srcKind { job := 1, entry := inStrand, bound := true, credits := [(0, 2)] } = some .kv ∧
    (16 * 64 + 31) / 32 * 32 ≤ inStrand.maxKib * 1024 ∧ inStrand.maxKib * 1024 < (16 * 65 + 31) / 32 * 32 ∧
    tget? (kvState bindDesc).fst.streams 7 = none := by decide +kernel
theorem test_bind : after (.feastBind 0) (kvState bindDesc) (fun t => t.streamLive 7) = true := by decide +kernel
def streamDesc (op : Nat) (more : List (Nat × Nat × Nat)) : Desc := desc op 0 9 more
theorem wit_unbind_read : lands0 { landed (streamDesc 0x31 [(0x08, 1, 7)]) with fst := { streams := [(7, { job := 1 })] } } 0x31 (streamDesc 0x31 [(0x08, 1, 7)]) ∧
    ({ ready with fst := { streams := [(7, { job := 1 })] } } : State).streamLive 7 = true ∧
    ({ ready with fst := { streams := [(7, { job := 1 })] } } : State).inFlight 7 = 0 ∧ ready.streamLive 7 = false ∧
    lands0 (landed (streamDesc 0x32 [(0x08, 4, 2047), (0x0C, 4, 1), (0x10, 8, 4096)])) 0x32 (streamDesc 0x32 [(0x08, 4, 2047), (0x0C, 4, 1), (0x10, 8, 4096)]) ∧
    ready.hostAddrOk 4096 64 32 = true := by decide +kernel

def slotDesc (op : Nat) : Desc := desc op 0 9 [(0x08, 2, 2047)]
def slotState (op : Nat) (k : SlotSt) : State := { landed (slotDesc op) with fst := { slots := [(2047, k)] } }
theorem wit_slots : lands0 (slotState 0x34 { state := .ready }) 0x34 (slotDesc 0x34) ∧ lands0 (slotState 0x35 { state := .paused, maxTokens := 1 }) 0x35 (slotDesc 0x35) ∧
    lands0 (slotState 0x36 { state := .running }) 0x36 (slotDesc 0x36) ∧ lands0 (slotState 0x37 { state := .faulted }) 0x37 (slotDesc 0x37) ∧
    firstFault (headerFaults (slotDesc 0x34) ++ slotFaults (slotDesc 0x34)) = none ∧ (slotState 0x37 { state := .faulted }).rangePoisoned { state := .faulted } = false := by
  decide +kernel
theorem test_resume_at_limit : after (.seqResume 0) (slotState 0x35 { state := .paused }) (fun t => decide ((t.slot 2047).state = .paused)) = true := by
  decide +kernel
theorem test_pause_running : after (.seqPause 0) (slotState 0x34 { state := .running }) (fun t =>
    decide ((t.slot 2047).state = .running) && (t.slot 2047).pauseBy.isSome && decide (t.out = [])) = true := by decide +kernel

/-- A job whose card's plan 15 prices a step. -/
def stepCore : StationE := { coreStn with card := { wPeak := 1, plans := [{ plan := 15, busyBase := 100 }] } }
def stepJob : JobSt := { kvJob with stations := some [stepCore, { station := 1, kind := .kv }] }
def openDesc : Desc := desc 0x33 0 9 [(0x08, 2, 2047), (0x0A, 1, 7), (0x0C, 4, 4), (0x10, 4, 1), (0x18, 4, 1), (0x1C, 4, 4294967295)]
def openState (e : LktEntry) : State :=
  { withJobs openDesc [(1, stepJob)] with
    fst := { streams := [(7, { job := 1, strand := 3, stepMax := 64 })] }
    lkt := { entries := [(4, e)] }
    strands := [(3, { job := 1, entry := inStrand, bound := true })] }
theorem wit_open : lands0 (openState { state := .hbm }) 0x33 openDesc ∧ ((openState { state := .hbm }).slot 2047).state = .free ∧
    (openState { state := .hbm }).streamLive 7 = true ∧ ((openState { state := .hbm }).entry 4).state ≠ .free ∧
    (openState { state := .hbm }).alm.holdover = false ∧ ((openState { state := .poisoned }).entry 4).state = .poisoned := by decide +kernel
theorem wit_open_fits : (openState { state := .hbm }).seqFits 7 { job := 1, strand := 3, stepMax := 64 } 4294967295 = true ∧
    (openState { state := .hbm }).seqFits 7 { job := 1, strand := 3, stepMax := 1 } 1 = false := by decide +kernel

/-- Stream 7 with READY slot 6. -/
def stepStream : StreamSt := { job := 1, strand := 3, budget := 60000, stepWait := 1 }
def stepState (due : W64) (c : Nat) : State :=
  served { (kvState (desc 1 0 1)) with
    jobs := [(1, stepJob)]
    fst := { streams := [(7, stepStream)], slots := [(6, { state := .ready, stream := 7, base := 4, pages := 1, maxTokens := 9, due := due })],
             stepTiles := [(3, { strand := 3, work := 5 })] }
    lkt := { entries := [(4, { state := .hbm, owned := true, slot := 6 })] }
    strands := [(3, { job := 1, entry := inStrand, bound := true, credits := [(0, c)] })] }
theorem wit_step_assembly : (stepState 0 2).stepMembers 7 stepStream = [6] ∧ (stepState 0 2).job? 1 = some stepJob ∧
    (stepState 0 2).planState stepJob [stepCore, { station := 1, kind := .kv }] [{ inStrand with maxKib := 1 }] 15 = none ∧
    (match (stepState 0 2).verdict 60000000 0 ((stepState 0 2).windows [stepCore, { station := 1, kind := .kv }] [{ inStrand with maxKib := 1 }] 15 1 {}
      (some ((stepState 0 2).stepMix [6]))) with | .place .. => true | .late => false) = true := by decide +kernel
/-- The ways a step is refused: its KV strand unbound, no room, a deadline that is too early; its completion finds a free entry. -/
theorem wit_step_refused : let sts : List StationE := [stepCore, { station := 1, kind := .kv }]
    let sks : List StrandE := [{ inStrand with maxKib := 1 }]
    let s := stepState 0 2
    s.stepState stepStream stepJob sts sks = none ∧
    (({ s with strands := [(3, { job := 1, entry := inStrand })] } : State).stepState stepStream stepJob sts sks).isSome = true ∧
    s.alm.items = [] ∧ s.verdict 1 0 (s.windows sts sks 15 1 {} (some (s.stepMix [6]))) = .late ∧
    ascending (s.stepMembers 7 stepStream) = [6] ∧ (s.slot 6).pauseBy = none ∧ (s.ring stepStream.ring).state = .on ∧ (s.ring stepStream.ring).held = [] ∧
    0 < (s.ring stepStream.ring).cqFree ∧ (∀ e ∈ s.lkt.entries, e.2.owned = true → e.2.slot = 6 → e.2.state ≠ .demoting) := by decide +kernel
theorem wit_step_wait : stepStream.lastAsm.toNat + 1000 * stepStream.stepWait ≤ ({ ready with cal := 1000 <<< 24 } : State).now ∧
    ({ ready with cal := 999 <<< 24 } : State).now < stepStream.lastAsm.toNat + 1000 * stepStream.stepWait ∧
    ready.stepMembers 7 stepStream = [] ∧ ({ stepState 0 2 with jobs := [] } : State).job? 1 = none := by decide +kernel
theorem wit_step_tile : (stepState 0 2).fst.stepTiles.find? (fun y => y.1 == 3) = some (3, { strand := 3, work := 5 }) ∧
    (stepState 0 2).hasCredit { job := 1, entry := inStrand, bound := true, credits := [(0, 2)] } 0 = true ∧
    (stepState 0 0).hasCredit { job := 1, entry := inStrand, bound := true, credits := [(0, 0)] } 0 = false := by decide +kernel

theorem wit_d3hot : ready.linkDown = false ∧ ready.reachable = true ∧ (∀ e ∈ ready.rng.rings, e.2.state = .off) ∧ (∃ e ∈ bell.rng.rings, e.2.state ≠ .off) ∧
    ({ ready with cxl := { d3 := true, hdm := some (0, 64) } } : State).cxl.d3 = true := by decide
/-- R264: D3hot only while every ring is OFF. -/
theorem test_d3hot : after (.d3hotRequest true) ready (fun t => t.cxl.d3) = true ∧ after (.d3hotRequest true) bell (fun t => !t.cxl.d3) = true := by decide
/-- A window of 256 MiB at the start of the LPDDR5X tier. -/
def window (c : CxlSt) : State := { ready with cxl := { c with hdmTarget := 0x2000, hdm := some (0, 0x10000000) } }
theorem wit_window : (window {}).linkDown = false ∧ (window {}).cxl.d3 = false ∧ (window {}).devTripped 0x20000000000 = false ∧ 0x10000000 - 64 + 64 ≤ 0x10000000 ∧ 0x10000000 < 0x10000000 + 64 ∧
    (window {}).cxl.selfRefresh = false ∧ (window { selfRefresh := true }).cxl.selfRefresh = true ∧ (window {}).wordPoison (0x20000000000 / 8) = false ∧
    0x2000 % 32768 * 0x10000000 = 0x20000000000 := by decide +kernel
theorem test_window_outside : gives (.cxlMemRequest 0x10000000 none false false [] false) (window {}) ((window {}).put (.memAbort 0x10000000)) = true ∧
    gives (.cxlMemRequest 0 none false false [] true) (window {}) (window {}).cxlError = true ∧
    gives (.cxlMemRequest 0 none false false [] false) { ready with cxl := { d3 := true } } (({ ready with cxl := { d3 := true } } : State).put (.memAbort 0)) = true := by
  decide +kernel
theorem test_hdm_ways : after (.hdmCommit 0 0x10000000 2) (window {}) (fun t => t.cxl.hdm.isNone && t.cxl.hdmErr) = true ∧
    after (.hdmCommit 0 0x10000000 1) (window {}) (fun t => decide (t.cxl.hdm = some (0, 0x10000000)) && !t.cxl.hdmErr) = true := by decide +kernel

/-- A tray whose position 1 lies over the row from position 0: link 2, which the licence bit CL gates. -/
def overRow : State := { ready with cls := { cfg := 0x0F, place := some { extent := { x := 1, y := 2, z := 1 }, tray := [some {}, some { y := 1 }] } } }
theorem wit_map_licence : overRow.gen.cl = false ∧ (∃ l ∈ (overRow.trayRoute 1).getD [], 2 ≤ l) := by decide +kernel
theorem wit_lender_tripped : ({ lender with thm := { memLp := 0xF000 } } : State).rangeTripped (lpBase 3 + 131072) 4096 = true ∧
    ({ lender with thm := { memLp := 0xF000 } } : State).peerMapped { requester := 1, field := 3, frame := 2, len := 4096 } = true := by decide +kernel
/-! ## Cores: the sequencer, the array and the vector unit -/

/-- Two shapes of one row each. -/
def shapes : List Shape := [{ fmt := 7, rows := 1, cols := 2, payload := 32 }, { fmt := 1, rows := 1, cols := 8, payload := 32 }]
/-- Core 0, ON, in the run of item 5 at an instruction word. -/
def atWord (w : W64) (k : CoreSt := {}) : State :=
  { served ready with
    cores := [(0, { k with run := some { work := 5 }, station := some 0, job := 1, member := 2, members := 3, cwidth := 256,
                           prog := some { width := 256, shapes := shapes, code := [w] } })] }
/-- A word of an opcode and a low part. -/
def word (op low : Nat) : W64 := BitVec.ofNat 64 (op * 2 ^ 56 + low)
/-- The terms of Safety.Issues. -/
abbrev issues (s : State) (w : W64) (op : Nat) : Prop :=
  (s.core 0).run = some { work := 5 } ∧ (s.core 0).word = some w ∧ fOp w = op ∧ ({ work := 5 } : Run).ending = false ∧ (s.region 0).state = .on
theorem wit_issues : ∀ op ∈ [0x00, 0x01, 0x02, 0x03, 0x04, 0x05, 0x06, 0x07, 0x08, 0x09, 0x10, 0x11, 0x12, 0x13, 0x14, 0x15, 0x18, 0x20, 0x21, 0x22, 0x23,
    0x24, 0x25, 0x30, 0x31, 0x32, 0x33, 0x34], issues (atWord (word op 0)) (word op 0) op := by decide +kernel
theorem wit_issues_lands : ∀ op ∈ [0x00, 0x22, 0x34], Safety.Issues (atWord (word op 0)) 0 { work := 5 } (word op 0) op := by
  unfold Safety.Issues; decide +kernel
theorem wit_no_issue : ((served ready).core 0).run = none ∧ (ready.region 0).state ≠ .on ∧
    (({ atWord (word 0 0) with cores := [(0, { run := some { ending := true } })] } : State).core 0).word = none := by decide
theorem test_no_issue_off : gives (.movi 0) { atWord (word 2 0) with pwr := {} } { atWord (word 2 0) with pwr := {} } = true := by decide +kernel

/-- D is bits [55:51], A [50:46], B [45:41] (R114). -/
def fields (op d a b low : Nat) : W64 := BitVec.ofNat 64 (op * 2 ^ 56 + d * 2 ^ 51 + a * 2 ^ 46 + b * 2 ^ 41 + low)
/-- R114: ADDI sign-extends its 24-bit immediate. -/
theorem test_addi_minus_one : after (.addi 0) (atWord (fields 3 31 0 0 0xFFFFFF)) (fun t => decide ((t.core 0).gr 31 = 0xFFFFFFFF)) = true := by
  decide +kernel
/-- R103: g0 reads 0, a write to it is ignored. -/
theorem test_movi_g0 : after (.movi 0) (atWord (fields 2 0 0 0 0xFFFFFFFF)) (fun t => decide ((t.core 0).gr 0 = 0) && decide ((t.core 0).pc = 1)) = true := by
  decide +kernel
theorem test_mul_wraps : after (.mul 0) (atWord (fields 5 3 1 2 0) { g := [(1, 0xFFFFFFFF), (2, 3)] }) (fun t => decide ((t.core 0).gr 3 = 0xFFFFFFFD)) = true := by
  decide +kernel
theorem wit_sys : ∀ n ∈ [0, 1, 2, 3, 4, 5, 6, 7], issues (atWord (word 6 n)) (word 6 n) 6 ∧ bits (word 6 n).toNat 7 0 = n ∧
    (atWord (word 6 n)).logicalOf 0 = some 0 ∧ ((atWord (word 6 n)).core 0).station = some 0 := by decide +kernel
theorem test_sys_members : after (.sys 0) (atWord (fields 6 1 0 0 1)) (fun t => decide ((t.core 0).gr 1 = 3)) = true := by decide +kernel

/-- Control: one iteration left and two, a body of one instruction (R103, R114). -/
theorem wit_control : ∀ n ∈ [1, 2], let k : CoreSt := { pc := 4, loops := [{ first := 3, past := 5, left := n }] }
    k.pc + 1 = 5 ∧ (n = 1 → k.next.pc = 5 ∧ k.next.loops = []) ∧ (n = 2 → k.next.pc = 3 ∧ k.next.loops = [{ first := 3, past := 5, left := 1 }]) := by
  decide +kernel
theorem wit_skip_loop : issues (atWord (fields 8 0 1 0 9)) (fields 8 0 1 0 9) 8 ∧ ((atWord (fields 8 0 1 0 9) { g := [(1, 7)] }).core 0).gr 1 ≠ 0 ∧
    ((atWord (fields 8 0 1 0 9)).core 0).gr 1 = 0 ∧ bits (fields 7 0 0 0 (65535 * 2 ^ 20 + 1)).toNat 35 20 = 65535 ∧
    ((atWord (fields 7 0 1 0 (2 ^ 20 + 1))).core 0).gr 1 = 0 := by decide +kernel
/-- R114: a loop of no iterations skips its body. -/
theorem test_loop_none : after (.loop 0) (atWord (fields 7 0 1 0 (5 * 2 ^ 20 + 3))) (fun t => decide ((t.core 0).pc = 4)) = true := by decide +kernel

/-- Strand 3 into core station 0 with a landed tile for member 2. -/
def rxStrand : StrandSt := { job := 1, entry := { inStrand with depth := 1, dstMember := 2 }, bound := true, slots := [{ group := 0, member := 2, idx := 0, tile := { strand := 3, work := 5 } }] }
def receiving (w : W64) (x : StrandSt) : State :=
  { atWord w with jobs := [(1, { twoStations with phase := .committed })], strands := [(3, x)] }
theorem wit_receive : let s := receiving (fields 0x10 1 0 0 3) rxStrand
    issues s (fields 0x10 1 0 0 3) 0x10 ∧ s.strand? 3 = some rxStrand ∧ rxStrand.heldBy 2 < rxStrand.entry.depth ∧
    (rxStrand.nextTile 2).isSome = true ∧ ({ rxStrand with slots := [] } : StrandSt).nextTile 2 = none ∧ s.storing (s.core 0) 3 = false ∧
    (s.areaPoisoned 0 (areaOf 0) 8 = false) ∧ ({ atWord (word 9 0) with cores := [(0, { spadPoison := [0] })] } : State).areaPoisoned 0 (areaOf 0) 8 = true := by
  decide +kernel
/-- R61, R107: the tile is held in its slot; gD gets the word address of its header, 32 bytes into the slot. -/
theorem test_recv_holds : after (.recv 0) (receiving (fields 0x10 1 0 0 3) rxStrand) (fun t =>
    (t.strand? 3).any (fun x => decide (x.heldBy 2 = 1)) && decide ((t.core 0).gr 1 = 4)) = true := by decide +kernel
/-- R149: a SUSPECT tile marks the run only if it is one of the run's own work item. -/
def suspectTile (w : W32) : StrandSt := { rxStrand with slots := [{ group := 0, member := 2, idx := 0, tile := { strand := 3, work := w, suspect := true } }] }
theorem test_recv_suspect :
    after (.recv 0) (receiving (fields 0x10 1 0 0 3) (suspectTile 5)) (fun t => (t.core 0).run.any (·.suspect)) = true ∧
    after (.recv 0) (receiving (fields 0x10 1 0 0 3) (suspectTile 6)) (fun t => (t.core 0).run.any (fun r => !r.suspect)) = true := by
  decide +kernel
theorem wit_waits : ∀ m ∈ [1, 2], issues (atWord (word 0x18 m)) (word 0x18 m) 0x18 ∧ ((atWord (word 0x18 m)).core 0).passes = [] ∧
    ((atWord (word 0x18 m) { dmaQ := [{}] }).core 0).dmaQ ≠ [] ∧ ((atWord (word 0x18 m) { passes := [{}] }).core 0).passes ≠ [] ∧
    ((atWord (word 0x18 m) { arrQ := [{}] }).core 0).arrQ ≠ [] := by decide +kernel
theorem test_wait_dma : gives (.wait 0) (atWord (word 0x18 2) { dmaQ := [{}] }) (atWord (word 0x18 2) { dmaQ := [{}] }) = true := by decide +kernel

theorem wit_dma : ((atWord (word 0x12 0) { dmaQ := List.replicate 16 {} }).core 0).dmaQ.length = 16 ∧
    ((atWord (word 0x12 0) { dmaQ := List.replicate 15 {} }).core 0).dmaQ.length = 15 ∧ ({} : DmaOp).kind ≠ 2 ∧
    ((atWord (word 0x13 3)).core 0).dmaQ = [] ∧ (receiving (word 0x13 3) rxStrand).strand? (fStrand (word 0x13 3)) = some rxStrand := by decide +kernel
theorem test_emit_stalls : after (.emit 0) (atWord (word 0x12 0) { dmaQ := List.replicate 16 {} }) (fun t =>
    decide ((t.core 0).dmaQ.length = 16) && decide ((t.core 0).pc = 0)) = true := by decide +kernel

/-- Core 0 bound to station 0, with the item of job 1 next. -/
def idleCore (k : CoreSt) (i : Item) : State :=
  { withItem (served ready) i with jobs := [(1, { twoStations with phase := .committed })], cores := [(0, { k with station := some 0, job := 1, member := 0, prog := some { code := [endWord] } })] }
theorem wit_run_start : let s := idleCore {} runItem
    s.nextItem (s.core 0) = some runItem ∧ (s.core 0).run = none ∧ (s.core 0).passes = [] ∧ (s.core 0).arrQ = [] ∧ runItem.released = true ∧ (s.core 0).prog ≠ none ∧
    (s.region 0).subst = none ∧ (s.region 0).state = .on ∧ s.trippedAt 0 = none ∧ (idleCore { passes := [{}] } runItem).nextItem ((idleCore { passes := [{}] } runItem).core 0) = some runItem ∧
    ({ s with pwr := { regions := [(0, { state := .on, tripped := true })] } } : State).trippedAt 0 = some 0 ∧ (served ready).nextItem ((served ready).core 0) = none := by
  decide +kernel
theorem test_run_start : after (.runStart 0) (idleCore {} runItem) (fun t => decide ((t.core 0).run = some { work := 5 })) = true := by decide +kernel
theorem wit_run_end : let s := idleCore { run := some { work := 5, ending := true } } runItem
    (s.core 0).run = some { work := 5, ending := true } ∧ (s.core 0).station = some 0 ∧ (s.core 0).arrQ = [] ∧ (s.core 0).loading = false ∧ (s.core 0).dmaQ = [] ∧
    s.item? 5 = some runItem ∧ s.stn 1 0 = some coreStn ∧ cardPlan? coreStn.card 0 = some { plan := 0, busyBase := 100 } ∧ ¬ (100 < 100) ∧ 100 < 101 ∧ runItem.status = none := by
  decide +kernel
/-- R245: a run over its card ends its item; one at its card goes on. -/
theorem test_overrun : after (.cardOverrun 0) (idleCore { run := some { work := 5, busy := 101 } } runItem) (fun t =>
      (t.item? 5).any (fun i => decide (i.status = some (0x20, 0x1003)))) = true ∧
    after (.cardOverrun 0) (idleCore { run := some { work := 5, busy := 100 } } runItem) (fun t => (t.item? 5).any (fun i => i.status.isNone)) = true := by
  decide +kernel

/-- An array instruction that waits in the queue. -/
def waitsOp (op : Nat) : ArrOp := { word := word op 0, work := 5 }
theorem wit_array_queue : ∀ op ∈ [0x20, 0x21, 0x22, 0x23, 0x25],
    ((atWord (word op 0) { arrQ := List.replicate 8 (waitsOp 0x22) }).core 0).arrQ.length = 8 ∧
    ((atWord (word op 0) { hstop := true, arrQ := List.replicate 7 (waitsOp 0x22) }).core 0).arrQ.length = 7 ∧
    Safety.ArrayWaits { hstop := true, arrQ := List.replicate 7 (waitsOp 0x22) } (waitsOp 0x22) ∧ ¬ Safety.ArrayWaits {} (waitsOp op) ∧
    (op < 0x22 → Safety.ArrayWaits { load0 := some {} } (waitsOp op)) ∧
    (op = 0x25 → Safety.ArrayWaits { drain := some { op := waitsOp 0x25 } } (waitsOp op)) := by
  unfold Safety.ArrayWaits; decide +kernel
/-- An ADRAIN under way whose next row a pass will still write, whose row's destination a load holds, and one that may read on. -/
theorem wit_drain : let d : Drain := { op := waitsOp 0x25 }
    ({ passes := [{ writes := [{ row := 0, col := 0 }] }] } : CoreSt).drainStalls d shapes[0] = true ∧
    ({ load0 := some { words := 4 } } : CoreSt).drainStalls d shapes[0] = true ∧ ({} : CoreSt).drainStalls d shapes[0] = false ∧
    ({ drain := some d } : CoreSt).mayIssue 0 1 = true ∧ ({ drain := some d, prog := some { shapes := shapes } } : CoreSt).mayIssue 0 1 = false := by decide +kernel
/-- R382: with 32/64 every second cycle is a bubble; in it nothing issues. -/
def bubbling (n : Nat) : State := { atWord (word 2 7) with
  pwr := { regions := [(0, { state := .on, loop := 32 })] }, clk := { frame := n } }
theorem wit_bubbled : (bubbling 1).bubbled 0 = true ∧ (bubbling 0).bubbled 0 = false ∧ (atWord (word 2 0)).bubbled 0 = false ∧
    gives (.movi 0) (bubbling 1) (bubbling 1) = true := by decide +kernel
/-- R388: a word from a tripped memory device ends its item FAULT_THERMAL, another poisoned one FAULT_MEMORY. -/
theorem wit_hot : let s : State := { atWord (word 9 0) with cores := [(0, { spadPoison := [0, 1], spadHot := [1] })] }
    s.areaPoisoned 0 (areaOf 0) 8 = true ∧ s.areaHot 0 (areaOf 0) 8 = false ∧ s.areaHot 0 (areaOf 0) 16 = true := by decide +kernel
theorem wit_weights : ((atWord (word 0x20 0)).core 0).loading = false ∧ ((atWord (word 0x20 0) { load0 := some {} }).core 0).loading = true ∧
    (atWord (word 0x20 0)).areaPoisoned 0 (areaOf 0) 32 = false ∧ ((atWord (word 0x20 0)).core 0).shape 0 = { fmt := 7, rows := 1, cols := 2, payload := 32 } ∧
    ({ atWord (word 9 0) with cores := [(0, { spadPoison := [0] })] } : State).areaPoisoned 0 (areaOf 0) 32 = true ∧
    ((atWord (word 0x24 0) { passes := [{}] }).core 0).passes ≠ [] ∧ fOp (waitsOp 0x22).word = 0x22 ∧ fOp (waitsOp 0x20).word = 0x20 ∧
    ((atWord (word 0x21 0) { load0 := some {}, load1 := some { done := true } }).core 0).load0 = some {} := by decide +kernel
theorem test_swap_queued : after (.swap 0) (atWord (word 0x21 0) { load0 := some {} }) (fun t =>
      !(t.core 0).active && decide ((t.core 0).arrQ.length = 1) && decide ((t.core 0).pc = 1)) = true ∧
    after (.swap 0) (atWord (word 0x21 0)) (fun t => (t.core 0).active && decide ((t.core 0).arrQ = [])) = true := by decide +kernel
/-- R104: the queue holds 8; a ninth stalls the sequencer. -/
theorem test_array_queue_full : gives (.swap 0) (atWord (word 0x21 0) { load0 := some {}, arrQ := List.replicate 8 (waitsOp 0x21) })
    (atWord (word 0x21 0) { load0 := some {}, arrQ := List.replicate 8 (waitsOp 0x21) }) = true := by decide +kernel
/-- R95: the anchor is 16 bits signed. -/
theorem test_anch : after (.anch 0) (atWord (word 0x24 0xFFF0)) (fun t => decide ((t.core 0).anchor = -16)) = true := by decide +kernel

theorem wit_passes : ((atWord (word 0x22 0)).core 0).hstop = false ∧ ((atWord (word 0x22 0) { hstop := true }).core 0).hstop = true ∧
    (word 0x23 (2 ^ 29)).toNat.testBit 29 = true ∧ (word 0x23 0).toNat.testBit 29 = false ∧
    (let w : List BankWrite := [{ row := 0, col := 0 }, { row := 0, col := 1 }]
     (∀ x ∈ w, x.held = false ∧ x.col < 256) ∧ w.Pairwise (fun x y => ¬ (x.row = y.row ∧ x.col = y.col))) := by decide +kernel
/-- R94: ACC = 0 replaces an entry, ACC = 1 adds to it. -/
def retiring (acc : Bool) : State := atWord (word 0 0) { passes := [{ acc := acc, writes := [{ row := 511, col := 255, entry := { val := 5 } }] }], bank := [(256 * 511 + 255, { val := 2 })] }
theorem test_retire : after (.passRetire 0) (retiring false) (fun t => decide (((t.core 0).bankAt 511 255).val = 5)) = true ∧
    after (.passRetire 0) (retiring true) (fun t => decide (((t.core 0).bankAt 511 255).val = 7)) = true := by decide +kernel
theorem wit_bank_add : -accS ≤ accS - 1 + 1 ∧ accS - 1 + 1 ≤ accS ∧ ({ val := accS } : AccEntry).fp = false := by decide +kernel

theorem wit_lanes : ∀ n ∈ [0, 1, 2, 3, 4, 5, 6, 7, 8, 9, 10], issues (atWord (word 0x30 n)) (word 0x30 n) 0x30 ∧ bits (word 0x30 n).toNat 3 0 = n := by
  decide +kernel
theorem wit_reductions : ∀ n ∈ [0, 1, 2], issues (atWord (word 0x34 n)) (word 0x34 n) 0x34 ∧ bits (word 0x34 n).toNat 1 0 = n := by decide +kernel
theorem wit_anchored_order : ([1, 2, 3] : List W32).Perm [3, 1, 2] := by decide
/-- Worked by hand: 1.0 + 1.0 = 2.0, 2.0 × 3.0 = 6.0, and the larger of two. -/
theorem test_lanes : fAdd 0x3F800000 0x3F800000 = 0x40000000 ∧ fMul 0x40000000 0x40400000 = 0x40C00000 ∧ fMax 0xBF800000 0x3F800000 = 0x3F800000 := by
  decide +kernel

theorem wit_areas : (98303 : Nat).testBit 31 = false ∧ ([1, 2] : List Byte).length ≤ 786432 ∧ (areaOf 98303).base = 786424 := by decide +kernel
theorem test_area_wraps : let s := (atWord (word 0 0)).areaWrite 0 (areaOf 98303) [1, 2, 3, 4, 5, 6, 7, 8, 9]
    Memory.get? (s.core 0).spad 0 = some 9 ∧ Memory.get? (s.core 0).spad 786424 = some 1 := by decide +kernel
theorem wit_vectors : (atWord (word 0x31 7)).areaPoisoned 0 (areaOf 0) (vecBytes 7) = false ∧ vecBytes 7 = 512 ∧
    ((atWord (word 0x32 7)).core 0).locked (areaOf 0) 1024 = false ∧ ((atWord (word 0x32 7) { load0 := some { words := 1 } }).core 0).locked (areaOf 0) 1024 = true ∧
    ((atWord (word 0x33 0)).core 0).rowsDue 0 1 = false ∧ ((retiring true).core 0).rowsDue 511 1 = true ∧ ((atWord (word 0x33 0)).core 0).rowQueued 0 = false ∧
    ((atWord (word 0x33 0) { arrQ := [waitsOp 0x22] }).core 0).rowQueued 0 = true := by
  decide +kernel
theorem test_vst_locked : gives (.vst 0) (atWord (word 0x32 7) { load0 := some { words := 1 } }) (atWord (word 0x32 7) { load0 := some { words := 1 } }) = true := by
  decide +kernel

/-! ## Tiles, memory stations, Loupe, Hallmark and the stores -/

/-- Strand 3 out of core station 0, member 0 its source, with some credits. -/
def outStrand3 (c : Nat) (k : StrandSt := {}) : StrandSt :=
  { k with job := 1, entry := { strand := 3, src := 0, dst := 1, depth := 2 }, bound := true, credits := [(0, c)] }
/-- Core 0 sends on it; station 1 is the given destination. -/
def sendJob (dst : StationE) : JobSt := { phase := .committed, stations := some [coreStn, dst], strands := some [(outStrand3 0).entry] }
def sending (c : Nat) (dst : StationE := memStn) (k : StrandSt := {}) : State :=
  { served ready with
    jobs := [(1, sendJob dst)]
    strands := [(3, outStrand3 c k)]
    cores := [(0, { station := some 0, job := 1, dmaQ := [{ kind := 0, strand := 3, shape := 0, work := 5 }],
                    prog := some { width := 256, shapes := shapes, code := [endWord] } })] }
theorem wit_send : ((sending 1).core 0).dmaQ = [{ kind := 0, strand := 3, shape := 0, work := 5 }] ∧ (sending 1).strand? 3 = some (outStrand3 1) ∧
    sends ((sending 1).core 0) (outStrand3 1) = true ∧ (sending 1).hasCredit (outStrand3 1) 0 = true ∧ (sending 0).hasCredit (outStrand3 0) 0 = false ∧
    (sending 1).areaPoisoned 0 (areaOf 0) 32 = false ∧ (outStrand3 1).entry.place ≠ .toPeer := by decide +kernel
theorem test_send : after (.tileSend 0 [] []) (sending 1) (fun t => (t.strand? 3).any (fun x => decide (x.flight.length = 1) && decide (tget x.nextSeq 0 0 = 1)) &&
    decide ((t.core 0).dmaQ = [])) = true := by decide +kernel
def hostStn : StationE := { station := 1, kind := .host, target := 0 }
def flying (dst : StationE) : State := sending 1 dst { flight := [{ strand := 3, work := 5 }] }
theorem wit_land : (flying hostStn).dstKind (outStrand3 1 { flight := [{ strand := 3, work := 5 }] }) = some .host ∧
    (flying { coreStn with station := 1 }).dstKind (outStrand3 1 { flight := [{ strand := 3, work := 5 }] }) = some .core ∧
    isDuplicate (outStrand3 1) { strand := 3, work := 5 } = false ∧ isDuplicate (outStrand3 1 { expSeq := [(0, 1)] }) { strand := 3, work := 5 } = true ∧
    (flying { coreStn with station := 1 }).dests (outStrand3 1) 0 = [0] := by decide +kernel
theorem test_land_host : after (.tileLand 3 0 []) (flying hostStn) (fun t => (t.strand? 3).any (fun x => decide (x.flight = []) && decide (x.outbound.length = 1))) = true := by
  decide +kernel
def freed : StrandSt := outStrand3 0 { slots := [{ phase := 2 }] }
theorem wit_credit : freed.entry.place = .locl ∧
    freed.slots.find? (fun r => decide (r.phase = 2) && (sending 0 hostStn { slots := [{ phase := 2 }] }).returnable freed r) = some { phase := 2 } ∧
    (outStrand3 0).slots.find? (fun r => decide (r.phase = 2) && (sending 0).returnable (outStrand3 0) r) = none := by decide +kernel

/-- A tile of an ended item from another module; a strand to another module (R76, R398). -/
def fromPeer : StrandSt := { outStrand3 0 with ended := [5], entry := { (outStrand3 0).entry with place := .fromPeer } }
def toPeer : StrandSt := { outStrand3 0 with entry := { (outStrand3 0).entry with place := .toPeer }, unacked := [(0, 0, 5, 0)] }
theorem wit_credit_peer : fromPeer.entry.place = .fromPeer ∧ (5 : W32) ∈ fromPeer.ended ∧ isDuplicate fromPeer { strand := 3, work := 5 } = false ∧
    toPeer.entry.place = .toPeer ∧ toPeer.bound = true ∧ 0 < ({ sending 0 with strands := [(3, toPeer)] } : State).groups toPeer ∧
    tget toPeer.credits 0 0 < toPeer.entry.depth := by decide +kernel
/-- R65, R66: a credit that a full pacing window holds back. -/
theorem test_paced : (sending 1).hasCredit (outStrand3 1 { sent := [(0, [((sending 1).now, 1000000)])] }) 0 = false ∧ (sending 1).hasCredit (outStrand3 1 { sent := [(1, [((sending 1).now, 1000000)])] }) 0 = true := by
  decide +kernel

/-- A fetch of 32 bytes at the last 32 of a region of 64 KiB, and one that wraps (R68). -/
def fetched (off : W32) : StrandSt :=
  { job := 1, entry := inStrand, bound := true, credits := [(0, 1)], fetchQ := [{ offset := off, shape := { fmt := 1, rows := 1, cols := 8, payload := 96 }, work := 5 }] }
def lpStn : StationE := { memStn with kind := .lpddr }
def fetchState (off : W32) : State :=
  { served ready with jobs := [(1, { twoStations with phase := .committed, stations := some [coreStn, lpStn] })], strands := [(3, fetched off)] }
theorem wit_fetch_response : (fetchState 1023).strand? 3 = some (fetched 1023) ∧ (fetchState 1023).srcStn (fetched 1023) = some lpStn ∧
    (fetchState 1023).hasCredit (fetched 1023) 0 = true ∧ 0 < lpStn.regionLen ∧ (fetchState 1023).thm.memHbm = 0 ∧ (fetchState 1023).thm.memLp = 0 := by
  decide +kernel
theorem wit_fetch_clean : isHbm (lpBase 0) = false ∧ isHbm (lpBase 0 + 65535) = false := by decide +kernel
theorem wit_store_write : (flying lpStn).dstStn (outStrand3 1) = some lpStn ∧
    (sending 1 lpStn { flight := [{ strand := 3, payload := [1], offset := 1023 }] }).strand? 3 =
      some (outStrand3 1 { flight := [{ strand := 3, payload := [1], offset := 1023 }] }) := by decide +kernel
/-- R68: a store past the end of the region wraps to its start. -/
theorem test_store_wraps : after (.storeWrite 3 0 .none []) (sending 1 lpStn { flight := [{ strand := 3, payload := (List.range 65).map (BitVec.ofNat 8), offset := 1023 }] })
    (fun t => decide (Memory.get? t.mem.bytes (lpBase 0) = some 64) && decide (Memory.get? t.mem.bytes (lpBase 0 + 65535) = some 63)) = true := by
  decide +kernel

/-- R76: a tile from another module of an item that has ended here stores nothing. -/
theorem test_store_ended : after (.storeWrite 3 0 .none []) { sending 1 lpStn with strands := [(3, { fromPeer with flight := [{ strand := 3, work := 5, payload := [1] }] })] }
    (fun t => decide (t.mem.bytes = []) && (t.strand? 3).any (fun x => decide (x.flight = []))) = true := by decide +kernel

/-- Loupe 0 serves station 1 of job 1 with item 5 open. -/
def loupeStn : StationE := { station := 1, kind := .loupe, target := 0, loupe := { shardRows := 4, tileRows := 2, qcols := 1, queries := 1, k := 2 } }
def loupeUnit : LoupeSt := { powered := true, station := some 1, job := 1, workTag := some 5 }
def loupeState (l : LoupeSt := loupeUnit) : State := { sending 1 loupeStn { slots := [{ tile := { strand := 3, work := 5 } }] } with lou := [(0, l)] }
theorem wit_loupe_consume : loupeState.strand? 3 = some (outStrand3 1 { slots := [{ tile := { strand := 3, work := 5 } }] }) ∧
    ((outStrand3 1 { slots := [{ tile := { strand := 3, work := 5 } }] }).rotated 0 1).nextTile 0 = some { tile := { strand := 3, work := 5 } } ∧
    loupeState.dstStn (outStrand3 1) = some loupeStn ∧ (loupeState.loupe 0).closed = false ∧ (loupeState.loupe 0).workTag = some 5 ∧
    (3, 0) ∉ (loupeState.loupe 0).lastSeen ∧ ((loupeState { loupeUnit with closed := true }).loupe 0).closed = true := by decide +kernel
/-- A unit without an open item, whose next is item 5. -/
def loupeIdle (i : Item) (regions : Tab RegionSt := []) : State :=
  { sending 1 loupeStn { slots := [{ tile := { strand := 3, work := 5 } }] } with
    alm := { items := [i] }
    lou := [(0, { loupeUnit with workTag := none })]
    pwr := { regions := regions } }
def loupeItem : Item := { runItem with released := true, wins := [{ station := 1, first := 1, last := 2 }] }
theorem wit_loupe_open : ((loupeIdle loupeItem).loupe 0).workTag = none ∧ (loupeIdle loupeItem).nextLoupe ((loupeIdle loupeItem).loupe 0) = some loupeItem ∧
    ((loupeIdle loupeItem).region 120).tripped = false ∧ ((loupeIdle loupeItem [(120, { tripped := true })]).region 120).tripped = true ∧
    (loupeState { loupeUnit with workTag := none }).nextLoupe { loupeUnit with workTag := none } = none := by decide +kernel
theorem wit_loupe_scores : ofFp32 0x7FC00000 = .nan ∧ ofFp32 0xFF800000 = .inf true ∧ (tget loupeUnit.lists 0 []).length ≤ 2 ∧
    loupeStn.loupe.shardRows ≤ tget ({ loupeUnit with ordinals := [(0, 2)] } : LoupeSt).ordinals 0 0 / (loupeStn.loupe.queries / loupeStn.loupe.qcols) * loupeStn.loupe.tileRows := by
  decide +kernel
theorem wit_loupe_close : loupeState.inputClosed loupeUnit = false ∧
    (loupeState { loupeUnit with lastSeen := [(3, 0)] }).inputClosed { loupeUnit with lastSeen := [(3, 0)] } = true := by decide +kernel
/-- R149, R289: the marks of an EMPTY tile of an item that the unit has finished are not kept; those of one still to open are. -/
theorem test_loupe_empty : let t : Tile := { strand := 3, work := 6, empty := true, suspect := true }
    (loupeUnit.passEmpty 3 t false).ahead = [] ∧ (loupeUnit.passEmpty 3 t true).ahead ≠ [] := by decide +kernel
theorem test_loupe_not_yet : gives (.loupeClose 0 none) loupeState loupeState = true := by decide +kernel

/-- A run whose last vector instruction wrote 256 lanes of 1, and a drain of one row of two elements. -/
def vecRun : Run := { work := 5, lastVec := some { units := [7], vals := List.replicate 256 { p := 1, q := 1 }, reg := some 1 }, lastDrain := some { units := [10], vals := [{ p := 1, q := 1 }, { p := 2, q := 2 }], cols := 2, width := 16 } }
def afterVector : State := { atWord endWord with cores := [(0, { run := some vecRun, station := some 0, job := 1, cwidth := 256 })] }
theorem wit_hallmark_vector : (afterVector.core 0).run = some vecRun ∧ ((served ready).core 0).run = none ∧
    outsideArray { unit := 7, lane := 255 } = true ∧ outsideArray { unit := 10, drain := true, lane := 1 } = true ∧ outsideArray { unit := 3, vector := true } = true ∧
    outsideArray { unit := 6 } = false ∧ ({ work := 5 } : Run).lastVec = none ∧
    (∀ v ∈ vecRun.lastVec, 7 ∈ v.units ∧ 255 < v.vals.length ∧ (v.codes 255 { unit := 7, lane := 255 }).1 ≠ (v.codes 255 { unit := 7, lane := 255 }).2 ∧
      (v.codes 255 { unit := 7, delta := 7 }).1 = (v.codes 255 { unit := 7, delta := 7 }).2) ∧
    (∀ v ∈ vecRun.lastDrain, 10 ∈ v.units ∧ 0 * v.cols + 1 < v.vals.length ∧ 1 < v.cols) := by decide +kernel
/-- R141: without a fault the codes of a rounded product agree (5 × 0.1 rounds), with an error of 1 in the result they do not. -/
theorem test_rounding_relation : let r := relMul 0x40A00000 0x3DCCCCCD (fMul 0x40A00000 0x3DCCCCCD)
    r.t < 0 ∧ (r.codes true 0 false).1 = (r.codes true 0 false).2 ∧ (r.codes true 1 false).1 ≠ (r.codes true 1 false).2 := by decide +kernel
theorem test_hallmark_vector : after (.hallmarkEvent 0 { unit := 7, lane := 255 }) afterVector (fun t =>
      decide (t.gen.hallmarks = 1) && ((t.core 0).run.any (·.suspect)) && decide ((t.field 0).hmQueue.length = 1)) = true ∧
    gives (.hallmarkEvent 0 { unit := 7, lane := 255, delta := 7 }) afterVector afterVector = true := by decide +kernel
theorem wit_hallmark_full (n : Nat) (bs : List Byte) : ((onRing {}).setField 0 { hmQueue := List.replicate n bs }).field 0 = { hmQueue := List.replicate n bs } ∧
    (List.replicate n bs).length = n := ⟨rfl, List.length_replicate⟩
def passed (p : Pass) : State := atWord endWord { passes := [p] }
/-- One activation row of one element under one column: 0 × 0, whose column adder is unit 4. -/
def onePass : Pass := { work := 5, rows := 1, shapeA := { fmt := 1, rows := 1, cols := 1, payload := 32 }, shapeB := { fmt := 1, rows := 1, cols := 1, payload := 32 },
                        writes := [{ row := 0, col := 0 }] }
theorem wit_hallmark_array : ((passed onePass).core 0).passes[0]? = some onePass ∧ ((passed onePass).core 0).logicalCol 0 = some 0 ∧
    unitInPass {} onePass = true ∧ onePass.waits = false ∧ 0 < ((passed onePass).core 0).cwidth ∧ (passed onePass).coreBound 0 = true ∧
    (((passed onePass).core 0).arrayCodes 0 onePass 0 {}).1 ≠ (((passed onePass).core 0).arrayCodes 0 onePass 0 {}).2 ∧
    (((passed onePass).core 0).arrayCodes 0 onePass 0 { delta := 7 }).1 = (((passed onePass).core 0).arrayCodes 0 onePass 0 { delta := 7 }).2 ∧
    ((passed onePass).core 0).run = some { work := 5 } ∧ ((passed onePass).core 0).passes[1]? = none ∧ (({ colOut := [3] } : CoreSt).logicalCol 3) = none := by decide +kernel
theorem test_hallmark_array : after (.hallmarkEvent 0 {}) (passed onePass) (fun t => (t.core 0).hstop && ((t.core 0).passes.any (fun p => p.events.length == 1 && !p.waits)) &&
    decide (t.gen.hallmarks = 1)) = true := by decide +kernel
def heldPass (n : Nat) : Pass := { onePass with landed := true, events := List.replicate n {}, writes := [{ row := 0, col := 0, held := true }] }
theorem wit_rerun : ((passed (heldPass 1)).core 0).passes.all (·.waits) = true ∧ (heldPass 1).noRerun false = none ∧ (heldPass 2).noRerun false = some 3 ∧
    (heldPass 1).noRerun true = some 2 := by decide +kernel
/-- A module whose processors 0 and 1 run. -/
def managed (s : State) : State := { s with mgmt := { s.mgmt with procs := [(0, { state := .running }), (1, { state := .running })] } }
def queued : State := managed { ready with fields := [(0, { hmQueue := [[1]] })] }
theorem wit_forward : (queued.field 0).hmQueue = [[1]] ∧ (queued.field 0).hmSent = false ∧ queued.managerUp 0 = true ∧ queued.portUp = true ∧
    ready.portUp = false := by decide +kernel
theorem test_forward_once : after (.hallmarkForward 0) queued (fun t => (t.field 0).hmSent && decide (t.out.map (fun o => o == .ibi) = [false, true])) = true := by decide +kernel

def fieldOn (k : FieldSt) : State := { served ready with pwr := { regions := [(0, { state := .on }), (120, { state := .on })] }, fields := [(0, k)] }
theorem wit_scrub : ((served ready).region 0).state = .on ∧ ((served ready).region 119).state ≠ .on ∧ (served ready).coreBound 0 = false ∧
    (sending 1).coreBound 0 = true ∧ 4 * 25087 + 3 ∉ ((served ready).core 0).spadPoison ∧
    tget? ((served ready).core 0).spadCe ((4 * 25087 + 3) / 4 % 32) ≠ some (4 * 25087 + 4, true) ∧ ((fieldOn {}).region 120).state = .on ∧
    (∀ row ∈ [0, 131071, 135167], let b := sliceWordBank (64 * row)
      tget ((fieldOn {}).field 0).ret b .awake ≠ .retained ∧ ((fieldOn {}).field 0).fenced.getLsbD (b / 8) = false ∧
      tget ((fieldOn { ret := [(b, .retained)] }).field 0).ret b .awake = .retained ∧ ((fieldOn { fenced := 0xFFFF }).field 0).fenced.getLsbD (b / 8) = true ∧
      64 * row + 63 ∉ ((fieldOn {}).field 0).slicePoison) := by decide +kernel
theorem wit_patrol : isHbm 0 = true ∧ ready.devTripped 0 = false ∧ ({ ready with mem := { bytes := [(0, 1)] } } : State).wordPoison 0 = false := by decide +kernel
def sliceRec : State := managed { fieldOn {} with heirloom := [{ kind := 3, index := 0, state := .permanent }] }
theorem wit_slice_repair : sliceRec.repairDue 0 0 = true ∧ sliceRec.sliceHeld 0 0 0x400000 = false ∧ sliceRec.managerUp 0 = true ∧
    (∀ b < 8, tget (sliceRec.field 0).sliceRows b 0 ≤ 32) ∧
    32 < tget ([(0, 32)] : Tab Nat) 0 0 + (([(0, true)] : List (Nat × Bool)).filter (fun x => decide (x.1 < 8192) && decide (x.1 / 1024 = 0))).length ∧ ready.repairDue 0 15 = false := by decide +kernel
theorem wit_retention : ∀ b ∈ [0, 127], let s := fieldOn { ret := [(b, .pending)] }
    tget (s.field 0).ret b .awake = .pending ∧ s.heldAwake 0 b = false ∧ tget ((fieldOn { ret := [(b, .entering)] }).field 0).ret b .awake = .entering ∧
    ((fieldOn { retReq := (List.range 8).map (·, 0xFFFF) }).field 0).retBit b = true ∧ ((fieldOn {}).field 0).retBit b = false ∧
    (b, RetState.retained) ∈ ((fieldOn { ret := [(b, .retained)] }).field 0).ret ∧ ((fieldOn { memStatus := 16 }).field 0).memStatus.getLsbD 4 = true := by
  decide +kernel
theorem test_late_access : after (.lateAccess 0 127) (fieldOn { ret := [(127, .retained)] }) (fun t => (t.field 0).cancelled &&
    decide (tget (t.field 0).ret 127 .awake ≠ .retained)) = true := by decide +kernel
theorem wit_rearm : ((fieldOn { rearmWait := some [(5, 0)], cancelled := true }).field 0).rearmWait = some [(5, 0)] ∧
    (∀ x ∈ [((5 : W32), 0)], x ∉ (fieldOn {}).runsIn 0) ∧ (∃ x ∈ [((5 : W32), 0)], x ∈ (receiving endWord rxStrand).runsIn 0) := by decide +kernel

def watched : HRec := { kind := 1, index := 0 }
theorem wit_heirloom : (managed ready).masterUp = true ∧ ready.masterUp = false ∧ State.reset.gen.state = .reset ∧
    (managed { fieldOn {} with heirloom := [watched] }).heir? 1 0 = some watched ∧ (managed { fieldOn {} with heirloom := [watched] }).unitFree 1 0 = true ∧
    (managed { fieldOn {} with heirloom := [watched] }).managerUp (unitField 1 0) = true ∧ unitField 3 0 = 0 ∧
    (managed { ready with heirloom := [{ kind := 3 }] }).unitFree 3 0 = true ∧ ((managed ready).region (physCore (0 % 256))).state ≠ .on := by decide +kernel
theorem test_heirloom_order : after .heirloomWrite (managed { ready with hwQueue := [watched, { watched with index := 1 }] }) (fun t =>
    decide (t.hwQueue = [{ watched with index := 1 }]) && decide (t.flash.heirloom = [watched])) = true := by decide +kernel

/-! ## Power, heat and clocks -/

/-- A READY module whose region n is given; all processors of interest run. -/
def withRegion (n : Nat) (r : RegionSt) (s : State := ready) : State :=
  { s with pwr := { s.pwr with regions := [(n, r)] }, mgmt := { procs := [(0, { state := .running }), (13, { state := .running })] } }
theorem wit_supply : ready.pwr.convOk.getLsbD 23 = true ∧ ({ ready with pwr := { convOk := 0x7FFFFF } } : State).pwr.convOk.getLsbD 23 = false ∧
    ready.pwr.faulted = false ∧ ready.powerCause true = some (2, 255) ∧ ready.powerCause false = none ∧ ready.sequencerUp = false ∧
    (({ ready with pwr := { convOk := 0 } } : State).powerCause false) = some (1, 255) := by decide +kernel
theorem wit_phase_sensor : ((withRegion 131 { state := .on }).region 131).state = .on ∧ 5 < phaseCount 131 ∧ phaseCount 0 ≤ 11 ∧
    ((withRegion 0 { state := .on, phasesOut := [1] }).region 0).phasesOut = [1] ∧ 0 < phaseCount 0 ∧
    ((withRegion 131 { state := .on }).region 131).live = true ∧ ((withRegion 131 { state := .on }).region 131).sensorValid.getLsbD 15 = true ∧
    (ready.region 0).live = false := by decide +kernel
theorem test_phase_again : gives (.phaseLoss 0 1) (withRegion 0 { state := .on, phasesOut := [1] }) (withRegion 0 { state := .on, phasesOut := [1] }) = true := by
  decide +kernel
theorem wit_droop : let s := withRegion 0 { state := .on, setpoint := 100 }
    (s.region 0).live = true ∧ s.periodNo ∉ (s.region 0).stretched ∧ (s.region 0).deniedAt ≠ some s.periodNo ∧
    2 ≤ (([0, 1] : List Nat).filter (fun q => decide (s.periodNo < q + 32))).length ∧ ((served ready).core 0).aligned = false ∧
    2 * (649 : BitVec 10).toNat + 300 < setpoint2 100 ∧ ¬ 2 * (650 : BitVec 10).toNat + 300 < setpoint2 100 := by decide +kernel
theorem test_breach : after (.droopBreach 0 0 649) (withRegion 0 { state := .on, setpoint := 100 }) (fun t => decide (t.clk.breaches = 1)) = true := by
  decide +kernel
/-- R350, R355: stretches of 75 mV in both regions in one period leave the crossing where it was. -/
def bothSides : State := { withRegion 0 { state := .on, setpoint := 100 } with cores := [(0, { aligned := true })], pwr := { regions := [(0, { state := .on, setpoint := 100 }), (120, { state := .on, setpoint := 100 })] } }
theorem test_stretch_both : after (.droopStretch 0 75) bothSides (fun t => decide ((t.core 0).slip = 2) &&
    after (.droopStretch 120 75) t (fun u => decide ((u.core 0).slip = 0))) = true := by decide +kernel
theorem wit_slip : ∀ v ∈ [(4 : Int), -4, 7], ((({ ready with cores := [(0, { aligned := true, holding := true, slip := v })] } : State).core 0).aligned &&
    (({ ready with cores := [(0, { aligned := true, holding := true, slip := v })] } : State).core 0).holding) = true ∧
    ((({ ready with cores := [(0, { aligned := true, slip := v })] } : State).core 0).holding) = false := by decide +kernel
theorem test_slip_hold : after (.slipHold 0) { ready with cores := [(0, { aligned := true, holding := true, slip := -4 })] } (fun t =>
    decide ((t.core 0).slip = -2) && (t.core 0).holding) = true := by decide +kernel

/-- Region 5 as it waits to park: heat darkens its unbound core. -/
def parking : State := { withRegion 5 { state := .on, heat := true, parkSince := some 0, rampStart := some 0 } with cal := 10000000 <<< 24 }
theorem wit_park : (parking.region 5).parkSince = some 0 ∧ parking.parkWanted 5 = true ∧ (0 : W64).toNat + 100000 ≤ parking.now ∧
    (0 : W64).toNat + 10000000 ≤ parking.now ∧ (ready.region 5).parkSince = none := by decide +kernel
def waiting : State := { withRegion 5 { state := .waiting, waitSince := some 0 } with cal := 200000 <<< 24 }
theorem wit_ramp : (waiting.region 5).state = .waiting ∧ waiting.fieldRamping 0 = false ∧ waiting.waitsBefore 5 = false ∧
    (tget waiting.thm.capFieldEff 0 0).toNat = 0 ∧ (0 : W64).toNat + 200000 ≤ waiting.now := by decide +kernel
def ramping (done : Bool) : State := { withRegion 5 { state := .ramping, rampStart := some 0, rampDone := done } with cal := 8000 <<< 24 }
theorem wit_ramp_end : ((ramping false).region 5).state = .ramping ∧ (0 : W64).toNat + 8000 ≤ (ramping false).now ∧
    ({ ramping false with cal := 7999 <<< 24 } : State).now < (0 : W64).toNat + 8000 ∧ ((ramping true).region 5).rampDone = true := by decide +kernel
/-- R370: with both PLLs locked the region is ON. -/
theorem test_pll_lock : after (.pllLock 5) (ramping true) (fun t => decide ((t.region 5).state = .on) && (t.core 5).aligned) = true := by decide +kernel
/-- After a COOLANT_OK stop a setpoint of F1 to F11 is not raised (R389). -/
theorem test_setpoint_stopped : let s := { withRegion 131 { setpoint := 7 } with thm := { coolantStop := true } }
    after (.setpointUpdate 131 1 2 140) s (fun t => decide ((t.region 131).setpoint = 7)) = true := by decide +kernel
theorem wit_setpoint : (withRegion 5 { setpoint := 7 }).sequencerUp = true ∧ ((withRegion 5 { setpoint := 7 }).region 5).setAt = none ∧
    (7 : Byte).toNat < Nat.max (140 : Byte).toNat (tget ready.part.floors 5 0).toNat ∧ (140 : Byte).toNat ≤ 140 ∧ 140 < (141 : Byte).toNat ∧
    (ready).now < (1 : W64).toNat + 10000 ∧ ready.cxl.d3 = false := by decide +kernel
/-- R362: one code in 10 µs, toward the target. -/
theorem test_setpoint : after (.setpointUpdate 5 1 2 140) (withRegion 5 { setpoint := 7 }) (fun t => decide ((t.region 5).setpoint = 8)) = true ∧
    after (.setpointUpdate 5 1 2 140) (withRegion 5 { setpoint := 7, setAt := some 0 }) (fun t => decide ((t.region 5).setpoint = 7)) = true := by decide +kernel

def lowered : State := { ready with thm := { capDev := 5000 } }
theorem wit_caps : lowered.capLower .dev = true ∧ lowered.capMet .dev = true ∧ ready.capLower .dev = false ∧
    ({ ready with thm := { capDev := 1 } } : State).capMet .dev = false := by decide +kernel
theorem test_cap_apply : after (.capLowerApply .dev) lowered (fun t => decide (t.thm.capDevEff = 5000)) = true := by decide +kernel
theorem wit_loop_trim : ready.thm.capFieldEff = [] ∧ ({ ready with thm := { capDevEff := 0 } } : State).thm.capDevEff = 0 ∧ (ready.region 0).state ≠ .on ∧
    56 ≤ (ready.region 0).trim.toNat ∧ (ready.region 0).trim.toNat ≤ 72 ∧ State.reset.gen.state = .reset := by decide +kernel
def hot (m : Nat) : State := { idleCore { run := some { work := 5 } } { runItem with plan := m } with gen := { state := .ready, assign := [(0, some 0)] } }
theorem wit_power_halt : ((hot 0).core 0).run = some { work := 5 } ∧ (hot 0).corePeak 0 = some 1 ∧ (hot 0).item? 5 = some runItem ∧ 8 * 1 ≤ 9 * 1 ∧ 9 * 1 < 8 * 2 := by
  decide +kernel
theorem wit_heat : (withRegion 5 { state := .on }).sequencerUp = true ∧ (withRegion 5 { state := .on }).coreBound 5 = false ∧
    ((withRegion 5 { state := .on }).region 5).state = .on ∧ ((withRegion 5 {}).field 0).heatCap = 0 ∧ (fieldOn { heatCap := 160 }).field 0 = { heatCap := 160 } ∧
    ready.sequencerUp = false := by decide +kernel
theorem test_heat_94 : gives (.heatDark 5 94) (withRegion 5 { state := .on }) (withRegion 5 { state := .on }) = true ∧
    after (.heatDark 5 95) (withRegion 5 { state := .on }) (fun t => (t.region 5).heat) = true := by decide +kernel

/-- A field at 95 °C throttled 100 ms ago, raised 1 s ago, and cool for 1 s; its opposites stand for less. -/
def cooling : State := { fieldOn { heatCap := 160, heatAt := some 0, coolSince := some 0 } with cal := 1000000000 <<< 24 }
theorem wit_heat_due : cooling.heatDue 0 100000000 = true ∧ cooling.heatDue 0 1000000000 = true ∧ cooling.cooledFor (cooling.field 0).coolSince 1000000000 = true ∧
    ({ cooling with cal := 99999999 <<< 24 } : State).heatDue 0 100000000 = false ∧ ready.heatDue 0 100000000 = true := by decide +kernel
/-- R386: the fields' dark regions return after 1 s below 85 °C, not after less. -/
theorem test_heat_returns : let s (ms : Nat) : State := { withRegion 5 { state := .retention, heat := true, darkCause := 2 } with
      fields := [(0, { coolSince := some 0 })], cal := BitVec.ofNat 88 (ms * 1000000 * 2 ^ 24) }
    after (.heatRelease 0 84) (s 1000) (fun t => !(t.region 5).heat) = true ∧ after (.heatRelease 0 84) (s 999) (fun t => (t.region 5).heat) = true := by
  decide +kernel
theorem wit_trip : ((withRegion 131 { state := .on }).region 131).tripped = false ∧ ((withRegion 131 { state := .on }).region 131).state = .on ∧ 420 ≤ 420 ∧ ¬ 420 ≤ 419 ∧
    (let s := { withItem (atWord endWord) runItem with jobs := [(1, { twoStations with phase := .committed })] }
     s.itemOn (fun c => c == 0) (fun _ => false) runItem = true) := by decide +kernel
/-- R387: 105 °C is 420 quarters; one sample of it is no trip. -/
theorem test_trip : after (.trip 131 420 420) (withRegion 131 { state := .on }) (fun t => (t.region 131).tripped) = true ∧
    gives (.trip 131 420 419) (withRegion 131 { state := .on }) (withRegion 131 { state := .on }) = true := by decide +kernel
theorem wit_mem_trip : ready.memTripped (.hbm 11 1) = false ∧ ready.memTripped (.lpddr 11 3) = false ∧
    ({ ready with thm := { memHbm := 0xFFFFFF } } : State).memTripped (.hbm 11 1) = true := by decide +kernel
theorem test_mem_trip : after (.memTrip (.lpddr 11 3) 381) ready (fun t => t.memTripped (.lpddr 11 3) && !t.memTripped (.lpddr 11 2)) = true ∧
    gives (.memTrip (.lpddr 11 3) 380) ready ready = true := by decide +kernel
/-- R387, R388: a trip ends 10 ms after the last reading at or above 95 °C, 85 °C of a memory. -/
def cooled (ns : Nat) : State := { withRegion 131 { state := .on, tripped := true, coolSince := some 0 } with
  thm := { memHbm := 0x800000, memCool := [(devKey (.hbm 11 1), 0)] }, cal := BitVec.ofNat 88 (ns * 2 ^ 24) }
theorem wit_trip_end : ((cooled 10000000).region 131).sensorFailed = [] ∧ ((cooled 10000000).region 131).coolSince = some 0 ∧
    (0 : W64).toNat + 10000000 ≤ (cooled 10000000).stamp.toNat ∧ ¬ (0 : W64).toNat + 10000000 ≤ (cooled 9999999).stamp.toNat ∧
    (cooled 0).memTripped (.hbm 11 1) = true ∧ tget? (cooled 0).thm.memCool (devKey (.hbm 11 1)) = some 0 := by decide +kernel
theorem test_trip_end : after (.tripEnd 131) (cooled 10000000) (fun t => !(t.region 131).tripped) = true ∧
    gives (.tripEnd 131) (cooled 9999999) (cooled 9999999) = true ∧
    after (.memTripEnd (.hbm 11 1) 339) (cooled 10000000) (fun t => !t.memTripped (.hbm 11 1)) = true ∧
    after (.memTripEnd (.hbm 11 1) 340) (cooled 10000000) (fun t => t.memTripped (.hbm 11 1)) = true := by decide +kernel
theorem wit_sensor_failed : 3 ∉ (ready.region 0).sensorFailed ∧ 7 ∉ (ready.region 120).sensorFailed ∧ 4 ≤ (4 : Fin 8).val := by decide +kernel
theorem wit_coolant : ready.thm.coolantStop = false ∧ ready.regulated = true ∧ State.reset.regulated = false ∧ ready.gen.bringup = none ∧ runItem.status = none ∧ (withItem ready runItem).item? 5 = some runItem := by decide +kernel
theorem test_coolant_reset : gives .coolantAssert State.reset State.reset = true := by decide +kernel

def ref (r : RefState) (valid : Bool) : State := { ready with clk := { ref := r, refValid := valid } }
theorem wit_reference : (ref .holdover false).clk.ref = .holdover ∧ ¬ ((ref .locked true).clk.ref = .holdover ∧ (ref .locked true).clk.refValid = false) ∧
    (ref .holdover true).clk.refValid = true ∧ (ref .pullIn true).clk.ref = .pullIn := by decide +kernel
theorem test_reference : after .referenceLoss (ref .locked true) (fun t => t.alm.holdover && decide (t.clk.refLoss = 1)) = true ∧
    after .relock (ref .holdover true) (fun t => decide (t.clk.ref = .pullIn)) = true ∧
    after .relock (ref .locked true) (fun t => decide (t.clk.ref = .locked) && t.clk.status.getLsbD 1) = true := by decide +kernel
theorem wit_pull_in : (({ ref .pullIn true with cores := [(119, { aligned := true })] } : State).core 119).aligned = true ∧ (3 : Int).natAbs ≤ 3 ∧ 3 < (-4 : Int).natAbs := by
  decide +kernel
/-- A bring-up that waits in RESET for the reference; a core being realigned. -/
theorem wit_reference_reset : let s : State := { State.reset with gen := { bringup := some {} } }
    s.gen.state = .reset ∧ s.gen.bringup = some {} ∧ s.clk.ref ≠ .holdover ∧ (ref .pullIn true).gen.bringup = none := by decide +kernel
/-- R353, R355: a core 4 entries off is realigned, its queues emptied; when that is over admission resumes. -/
def slipped : State := { ref .pullIn true with cores := [(119, { aligned := true, arrQ := [waitsOp 0x22] })], alm := { holdover := true } }
theorem test_realign : after (.pullInEnd [(119, 4, 0)]) slipped (fun t => (t.core 119).realigning && decide ((t.core 119).arrQ = []) && t.clk.realigning &&
      t.alm.holdover && t.bubbled 119 && !t.endRealign.alm.holdover && !(t.endRealign.core 119).realigning) = true ∧
    after (.pullInEnd [(119, 3, 0)]) slipped (fun t => !(t.core 119).realigning && !t.alm.holdover) = true := by decide +kernel
theorem wit_calendar : let s := fieldOn { calDiff := 16, pathDelay := 5 }
    s.gen.state ≠ .reset ∧ ((s.field 0).calDiff + (5 : Nat) - (s.field 0).pathDelay).natAbs ≤ 16 ∧ (s.field 0).slewPhase ≠ 64 ∧
    (16 : Int) < ((s.field 0).calDiff + (6 : Nat) - (s.field 0).pathDelay) ∧ ((fieldOn { calDiff := -17 }).field 0).calDiff + (0 : Nat) - 0 < -16 ∧
    ((fieldOn { slewPhase := 64 }).field 0).slewPhase = 64 := by decide +kernel
/-- R339, R340: 16 ns is slewed, 17 ns ahead holds, and a hold goes on. -/
theorem test_calendar : after (.calendarSync 0 0) (fieldOn { calDiff := 16 }) (fun t => decide ((t.field 0).slew = -16)) = true ∧
    after (.calendarSync 0 0) (fieldOn { calDiff := 17 }) (fun t => decide ((t.field 0).slewPhase = 64) && t.clk.status.getLsbD 7) = true ∧
    after (.calendarSync 0 0) (fieldOn { calDiff := 3, slewPhase := 64 }) (fun t => decide ((t.field 0).slewPhase = 64)) = true := by decide +kernel
theorem wit_paths_beats : ([10] : List Nat)[0]? = some 10 ∧ ([10] : List Nat)[11]? = none ∧ (∀ n ws, BeatCargo.calendar ≠ .strandMsg n ws) ∧
    (∀ ws, BeatCargo.calendar ≠ .eventSignal ws) := ⟨rfl, rfl, (fun _ _ h => by cases h), (fun _ h => by cases h)⟩
theorem test_path_delay : after (.pathDelayMeasure [11]) ready (fun t => decide ((t.field 0).pathDelay = 5)) = true := by decide +kernel

/-! ## Clasp -/

/-- A READY module whose link 0 is given. -/
def withLink (k : LinkSt) (s : State := ready) : State := { s with cls := { s.cls with links := [(0, k)] } }
/-- The link UP with every lane, to neighbour 9. -/
def linkUp : LinkSt := { state := .up, lanes := List.range 32, nbr := some { serial := 9 }, lastUp := some (9, 0) }
/-- A good CONTROL block of BSEQ 0 that acknowledges all before BSEQ 1, and a DATA block with the whole of a small tile on channel 2. -/
def control : List Byte := blockBytes 0 false 0 1 0 0 []
def data : List Byte := blockBytes 1 false 0 0 0x302 0 (List.replicate 32 0)
set_option maxRecDepth 100000 in
theorem wit_block_good : blockGood control = true ∧ blockGood data = true ∧ blockGood (control.drop 1) = false := by decide +kernel
theorem wit_block_fields : BitVec.ofNat 16 (fld control 2 2) = linkUp.rxNext ∧ (fld control 0 1).testBit 4 = false ∧ fld control 0 1 % 16 ≠ 1 ∧
    fld data 0 1 % 16 = 1 ∧ (fld data 6 2).testBit 8 = true ∧ (fld data 6 2).testBit 9 = true ∧ fld data 6 2 % 256 = 2 ∧
    ((1 : W16) - linkUp.txAcked).toNat ≤ ({ linkUp with replay := [([], [])] } : LinkSt).replay.length ∧ linkUp.replay.length < ((1 : W16) - linkUp.txAcked).toNat ∧
    (({ linkUp with inCh := [(2, { strand := 3 })] } : LinkSt).inCh.find? (fun c => c.1 == 2)) = some (2, { strand := 3 }) := by decide +kernel
theorem wit_links : ((withLink linkUp).link 0).serves = true ∧ (ready.link 0).serves = false ∧ ((withLink linkUp).link 0).carries = true ∧
    ((withLink { linkUp with replay := [([], [])] }).link 0).replay ≠ [] ∧ 31 ∈ ((withLink linkUp).link 0).lanes ∧ 31 ∉ (ready.link 0).lanes ∧ ready.heirloom.length < 16384 := by
  decide +kernel
/-- R398, R399: after 1 µs without progress both blocks go again, and an episode begins; before that nothing does. -/
def unheard (ns : Nat) : State := { withLink { linkUp with replay := [([1], []), ([2], [3])], sends := [3, 1] } with cal := BitVec.ofNat 88 (ns * 2 ^ 24) }
theorem test_ack_timeout : after (.ackTimeout 0) (unheard 1000) (fun t =>
      decide (t.out = [.claspBlock 0 [2] [3], .claspBlock 0 [1] []]) && (t.link 0).episode == some 1000 && (t.link 0).sends == [4, 2]) = true ∧
    gives (.ackTimeout 0) (unheard 999) (unheard 999) = true := by decide +kernel
/-- The conditions of R399: a block sent 4 times, an episode of 3 µs, 3 µs without a block, more than 3 µs of retries in 1 ms. -/
theorem wit_link_failed : ({ linkUp with sends := [4] } : LinkSt).failed 0 = true ∧ ({ linkUp with episode := some 0 } : LinkSt).failed 3000 = true ∧
    linkUp.failed 3000 = true ∧ linkUp.failed 2999 = false ∧ ({ linkUp with episodeLog := [(0, 3001)] } : LinkSt).retryExcess 4000 = true ∧
    ({ linkUp with episodeLog := [(0, 3000)] } : LinkSt).retryExcess 4000 = false := by decide +kernel
theorem test_link_down_declare : gives (.linkDownDeclare 0 false) (withLink linkUp) (withLink linkUp) = true ∧
    after (.linkDownDeclare 0 false) (withLink { linkUp with sends := [4] }) (fun t => decide ((t.link 0).state = .down) && decide ((t.link 0).downs = 1)) = true := by
  decide +kernel
/-- R397: with PEER_SHARE 4 of 16, PEER has every fourth block while DATA waits too; of two DATA channels the one owed more by its RATE comes first;
CONTROL goes after 20 other blocks at most. -/
def contended : LinkSt := { linkUp with outCh := [(0, { strand := 3, rate := 2 }), (1, { strand := 4, rate := 0 })], given := [(0, 1)], sinceCtl := 5
                                        waiting := [{ type := 2 }, { type := 1 }, { type := 1, channel := 1 }, { type := 3 }] }
theorem test_next_block : contended.nextKind 4 = some (1, some 0) ∧ ({ contended with given := [(0, 3)] } : LinkSt).nextKind 4 = some (1, some 1) ∧
    ({ contended with peerTurn := 12 } : LinkSt).nextKind 4 = some (2, none) ∧ ({ contended with sinceCtl := 20 } : LinkSt).nextKind 4 = some (3, none) := by
  decide +kernel
/-- R395: LANE_PAR is the parity of what is dealt to each lane: one byte of 1 at place 1 is on lane 1, or 2 where the block begins on lane 1. -/
theorem test_lane_par : lanePar (List.range 32) 0 (0 :: 1 :: List.replicate 254 0) = 2 ∧ lanePar (List.range 32) 1 (0 :: 1 :: List.replicate 254 0) = 4 ∧
    lanePar [5, 9] 0 (0 :: 1 :: List.replicate 254 0) = 2 ^ 9 := by decide +kernel
/-- A link DOWN, of a licensed module with its links enabled. -/
def linkDown (k : LinkSt := {}) (st : LinkState := .down) : State := { withLink { k with state := st } with gen := { state := .ready, cl := true } }
theorem wit_retrain : (linkDown.link 0).state = .down ∧ linkDown.linkOffCause 0 = 0 ∧ (ready.link 0).state ≠ .down ∧ (linkDown.link 0).pairsOut = [] ∧
    (linkDown.link 0).lastUp = none ∧ ((linkDown { lastUp := some (8, 0) }).link 0).lastUp ≠ some ((9 : W64), 0) ∧ 150 < 151 ∧ linkDown.pairsDue 0 = [] := by decide +kernel

theorem wit_wraps : Placement.wraps { extent := { x := 3, y := 1, z := 1 }, wrapX := true } 0 = true := by decide
theorem wit_retrain_wait : (linkDown { failedAt := some 5 }).now < 5 + 1000000000 ∧ ((linkDown {} .training).link 0).state = .training ∧
    (linkDown {} .training).hasSaved 3 36 (9, 0) = false := by decide +kernel
theorem test_retrain_starts : after (.linkRetrain 0 [] 0 none 0 false) linkDown (fun t => decide ((t.link 0).state = .training)) = true ∧
    gives (.linkRetrain 0 [] 0 none 0 false) (linkDown { failedAt := some 0 }) (linkDown { failedAt := some 0 }) = true := by decide +kernel
theorem test_retrain_held : ((linkDown { lastUp := some (8, 0) } .training).trainSaved 0 (List.range 32) 150 (some { serial := 9 }) 0 false |>.1.link 0).state = .held ∧
    ((linkDown {} .training).trainSaved 0 (List.range 32) 151 (some { serial := 9 }) 0 false |>.1.link 0).offCause = 3 ∧
    ((linkDown {} .training).trainSaved 0 [] 0 none 0 false |>.1.link 0).state = .down := by decide +kernel
theorem wit_train : ((withLink { state := .training }).link 0).state = .training ∧ (ready.link 0).state ≠ .training := by decide +kernel

/-- A module at (1,0,0) of a 2 x 1 x 1 block with a strand 3 to the one at (0,0,0), which lies on link 0. -/
def peerEntry : StrandE := { strand := 3, src := 0, dst := 1, depth := 2, place := .toPeer, rate := 1 }
def peerStrand : StrandSt := { job := 1, entry := peerEntry, binding := true }
def origin (k : LinkSt) (x : StrandSt := peerStrand) : State :=
  let s := withLink k
  { s with cls := { s.cls with place := some { coord := { x := 1 }, extent := { x := 2, y := 1, z := 1 } } }
           jobs := [(1, { phase := .committed, stations := some [coreStn], strands := some [peerEntry] })]
           strands := [(3, x)], gen := { state := .ready, cl := true, assign := [(0, some 0)] } }
theorem wit_bind_origin : (origin linkUp).coresPlaced peerStrand = true ∧ peerStrand.mayTry 0 = true ∧ ({ peerStrand with tried := some 0 } : StrandSt).mayTry 9999999 = false ∧
    (origin linkUp).strand? 3 = some peerStrand ∧ peerStrand.bound = false ∧ (origin linkUp).ownChannel 3 true = none ∧
    strandRoute { coord := { x := 1 }, extent := { x := 2, y := 1, z := 1 } } peerEntry none = [0] ∧ (origin linkUp).channelFault 0 1 = none ∧
    (origin { linkUp with outCh := (List.range 256).map (·, { strand := 4 }) }).channelFault 0 1 = some .noChannel ∧ peerStrand.altRoute = none := by decide +kernel
theorem test_bind_retry : after (.bindRetry 3) (origin linkUp) (fun t => decide (t.out = [.claspBind 0 { entry := peerEntry, origin := { x := 1 }, members := 1 }])) = true := by decide +kernel
/-- The other end: the strand comes from (1,0,0). -/
def farEntry : StrandE := { peerEntry with place := .fromPeer, peer := { x := 1 } }
def destination (e : StrandE) : State :=
  let s := withLink linkUp
  { s with cls := { s.cls with place := some { extent := { x := 2, y := 1, z := 1 } } }
           jobs := [(1, { phase := .committed, stations := some [{ coreStn with station := 1 }], strands := some [e] })]
           strands := [(3, { job := 1, entry := e, binding := true })], gen := { state := .ready, assign := [(0, some 0)] } }
theorem wit_bind_destination : (destination farEntry).coresPlaced { job := 1, entry := farEntry, binding := true } = true ∧
    ({ destination farEntry with gen := {} } : State).coresPlaced { job := 1, entry := farEntry, binding := true } = false ∧ (freeChannel ((ready.dropChannel 3).link 0).inCh).isSome = true ∧ freeChannel ((List.range 256).map (·, {})) = none ∧
    entriesAgree farEntry { entry := peerEntry, origin := { x := 1 } } {} = true ∧ entriesAgree { farEntry with depth := 3 } { entry := peerEntry, origin := { x := 1 } } {} = false ∧
    (destination farEntry).strand? 3 = some { job := 1, entry := farEntry, binding := true } ∧ peerEntry.peer = ({} : Coord) := by decide +kernel
def transit : LinkSt := { linkUp with outCh := [(0, { strand := 3, other := some (1, 7) })] }
def owning : LinkSt := { linkUp with outCh := [(0, { strand := 3 })] }
/-- R414: LINK_DOWN that goes round a wrapped axis, of whose two links the module has both. -/
def ringed (k : LinkSt) : State :=
  { ready with cls := { links := [(0, linkUp), (1, k)], place := some { extent := { x := 3, y := 1, z := 1 }, wrapX := true } } }
theorem wit_link_down : oppLink 0 = 1 ∧ (((ringed transit).link 1).transitOf 3) = some (1, 7) ∧ ((ringed linkUp).link 0).transitOf 3 = none ∧
    ((ringed transit).link 1).downTransit { strand := 3 } = some 1 ∧ ((ringed transit).link 1).holds { strand := 3 } = true ∧ ((ringed transit).link 0).holds { strand := 3 } = false ∧
    ((ringed owning).link 1).holds { strand := 3 } = true ∧ ((ringed owning).link 1).downTransit { strand := 3 } = none ∧
    ((ringed owning).link 1).owns 3 = true ∧ (ringed linkUp).wayAround 0 = true ∧ (withLink linkUp).wayAround 0 = false ∧ ((ringed linkUp).link 0).serves = true := by
  decide +kernel
theorem test_link_down_round : after (.clsLinkDown 0 { strand := 3, round := true }) (ringed linkUp) (fun t => decide (t.out = [.claspLinkDown 1 { strand := 3, round := true }])) = true ∧
    gives (.clsLinkDown 0 { strand := 3 }) (ringed linkUp) (ringed linkUp) = true := by decide +kernel
/-- R423: LINK_DOWN of a route that the strand has left is ignored. -/
theorem test_link_down_old : let s := origin owning { peerStrand with bound := true, altRoute := some 1 }
    after (.clsLinkDown 0 { strand := 3 }) s (fun t => decide (t.strands = s.strands)) = true ∧
    after (.clsLinkDown 0 { strand := 3 }) (origin owning { peerStrand with bound := true }) (fun t => (t.strand? 3).any (fun x => !x.bound)) = true := by decide +kernel
theorem wit_binds : (origin owning).jobBinds peerStrand = true ∧ ({ origin owning with jobs := [] } : State).jobBinds peerStrand = false ∧
    (destination farEntry).membersFault { job := 1, entry := farEntry, binding := true } 1 = none ∧
    (destination { farEntry with srcMode := .gather, rate := 4294967295 }).membersFault { job := 1, entry := { farEntry with srcMode := .gather, rate := 4294967295 } } 96 ≠ none := by
  decide +kernel
theorem wit_channels : (((withLink transit).link 0).transitOf 3) = some (1, 7) ∧ (((withLink owning).link 0).transitOf 3) = none ∧ ((withLink owning).link 0).owns 3 = true ∧
    ((withLink linkUp).link 0).owns 3 = false ∧ (origin owning).ownLinkOf 3 true = some 0 ∧ ((origin owning).ownChannel 3 true).isSome = true ∧
    ({ peerStrand with reroute := true } : StrandSt).reroute = true ∧ ((transit.outCh ++ transit.inCh).find? (fun c => c.2.strand == 3 && c.2.origin == {})) = some (0, { strand := 3, other := some (1, 7) }) := by
  decide +kernel
theorem test_bound_in_transit : after (.clsBound 0 (.bound 3 2 1)) { ready with cls := { links := [(0, transit), (1, linkUp)] } } (fun t => decide (t.out = [.claspBound 1 (.bound 3 2 1)])) = true := by decide +kernel
theorem test_bound_at_origin : after (.clsBound 0 (.bound 3 1 1)) (origin owning) (fun t => (t.strand? 3).any (fun x => x.bound && decide (tget x.credits 0 0 = 2)))= true := by
  decide +kernel
def lostItem : Item := { runItem with wins := [] }
theorem wit_lost_items : (withItem (origin owning) lostItem).hasTiles 3 { peerStrand with bound := true, unacked := [(0, 0, 5, 0)] } lostItem = true ∧
    (∃ u ∈ [((0 : Nat), (0 : W32), (5 : W32), (0 : Nat))], u.2.2.2 + 64000 + 20000 * 1 ≤ ({ origin owning with cal := 84000 <<< 24 } : State).now) ∧ peerStrand.unacked = [] := by
  decide +kernel
/-- R413: with one hop, a tile unacknowledged for 84 µs is timed out, and at 83,999 ns it is not. -/
theorem test_timed_out : ({ peerStrand with hops := 1, unacked := [(0, 0, 5, 0)] } : StrandSt).timedOut 84000 = true ∧
    ({ peerStrand with hops := 1, unacked := [(0, 0, 5, 0)] } : StrandSt).timedOut 83999 = false := by decide +kernel
theorem wit_resync : (destination farEntry).strand? 3 = some { job := 1, entry := farEntry, binding := true } ∧ farEntry.place = .fromPeer ∧ farEntry.srcMode ≠ .gather ∧
    ({ farEntry with srcMode := .gather } : StrandE).srcMode = .gather := by decide +kernel

/-- The management port runs, and a request's header is right. -/
def heard (s : State := ready) : State := { s with mgmt := { s.mgmt with procs := [(0, { state := .running })] } }
abbrev hears (s : State) (h : VHdr) : Prop := s.portUp = true ∧ h.iana = 0x0000D5A3 ∧ h.flags = 0
theorem wit_heard : Safety.Heard heard {} := by unfold Safety.Heard; decide +kernel
theorem wit_placement : hears heard {} ∧ placementFault { extent := { x := 32, y := 32, z := 32 }, coord := { x := 31, y := 31, z := 31 } } = none ∧
    placementFault { extent := { x := 33, y := 1, z := 1 } } = some 1 ∧ placementFault { extent := { x := 1, y := 1, z := 1 }, coord := { x := 1 } } = some 2 := by decide +kernel
theorem wit_placement_apply : let s : State := heard { ready with cls := { pendingPlace := some { epoch := 7 } } }
    s.cls.pendingPlace = some { epoch := 7 } ∧ s.placeable = true ∧ ({ s with lkt := { entries := [(0, { state := .peer })] } } : State).placeable = false ∧
    ready.cls.pendingPlace = none := by decide +kernel
def timed : State := let s := withLink linkUp
  { s with clk := { cfg := 2 }, cls := { s.cls with place := some { extent := { x := 2, y := 1, z := 1 }, timeParent := some 0 } } }
theorem wit_time_parent : (timed.link 0).carries = true ∧ (ready.link 0).carries = false ∧ timed.parentLink = some 0 ∧ ready.parentLink = none := by decide +kernel
theorem test_time : after (.timePathDelay 0 11) timed (fun t => decide (t.cls.timeDelay = 5)) = true := by decide +kernel

/-! ## Management, firmware, attestation and licences -/

/-- A vendor response of INSTANCE 0 on I3C, byte by byte (R434): IANA, COMMAND, RESPONSE, INSTANCE, RESULT; an in-band interrupt goes before it. -/
def told (s : State) (cmd result : Byte) (data : List Byte := []) : State := (s.put .ibi).put (.vendor 0 ([0, 0, 0xD5, 0xA3, cmd, 1, 0, 0, result] ++ data))

def recA : Rec64 := { bytes := [1] }
def recB : Rec64 := { bytes := [2] }
def sinkState (q : SinkQ) : State := let s := heard; { s with mgmt := { s.mgmt with records := q } }
def alien : VHdr := { eth := true, udpPort := 69 }
theorem wit_vendor_kinds : VHdr.isVendor alien = false ∧ VHdr.isVendor { msgType := 0 } = false ∧ VHdr.isVendor {} = true ∧ (0x7F : Byte) ∉ vendorCommands := by decide
theorem wit_vendor : Safety.vendorRequest (.bcastAbort { inst := 9 }) = some (0x42, { inst := 9 }) ∧ ready.portUp = false ∧ heard.portUp = true ∧
    ({ iana := 1 } : VHdr).iana ≠ 0x0000D5A3 ∧ ({ flags := 1 } : VHdr).flags ≠ 0 := by decide +kernel
/-- R434: a wrong IANA, or a COMMAND that is not in the table, is UNSUPPORTED, a reserved bit BAD_FORM. -/
theorem test_vendor_header : gives (.heirloomRead { iana := 1 }) heard (told heard 0x10 1) = true ∧
    gives (.heirloomRead { unknown := some 0x7F }) heard (told heard 0x7F 1) = true ∧ gives (.heirloomRead alien) heard heard = true ∧
    gives (.heirloomRead { flags := 1 }) heard (told heard 0x10 2) = true := by decide +kernel
theorem wit_sink : (sinkState {}).mgmt.records.queue = [] ∧ (sinkState { queue := [recA] }).mgmt.records.queue = [recA] ∧ (sinkState { queue := [recA] }).mgmt.records.sent = false ∧
    (sinkState { queue := [recA], sent := true }).portUp = true := by decide +kernel
theorem wit_reads : (heard.gen.floorplanSeq = 0) ∧ ({ heard with gen := { state := .ready, floorplanSeq := 1 } } : State).gen.floorplanSeq ≠ 0 ∧ 10288 + 1008 ≤ 11296 ∧
    11296 < 10289 + 1008 ∧ 262143 + 1 ≤ 262144 ∧ 262144 < 262144 + 1 ∧ heard.mgmt.bcast = none ∧ heard.cxl.d3 = false := by decide +kernel
theorem test_floorplan_none : gives (.floorplanRead {} 0 8) heard (told heard 0x11 4) = true := by decide +kernel

def processor (p : Nat) (k : ProcSt) : State := { ready with mgmt := { procs := [(p, k)] } }
theorem wit_crash : ((processor 13 { state := .running }).proc 13).state = .running ∧ ((processor 13 { state := .running }).proc 0).state ≠ .running ∧
    ((processor 0 { state := .restarting }).proc 0).state = .restarting ∧ (((processor 13 { state := .running, buffer := some [1] }).proc 13).buffer = some [1]) ∧
    3 ≤ ((processor 13 { state := .running, recent := [0, 0, 0] }).crashesHour 13).length ∧ ready.gen.bringup = none := by decide +kernel
theorem test_restart : after (.processorRestart 13) (processor 13 { state := .restarting }) (fun t => decide ((t.proc 13).state = .running)) = true ∧
    gives (.processorRestart 13) (processor 13 { state := .halted }) (processor 13 { state := .halted }) = true := by decide +kernel
theorem wit_fw_restart : hears (heard) {} ∧ (heard.proc 0).state = .running ∧ (heard.proc 13).state = .boot ∧
    ({ heard with mgmt := { procs := [(0, { state := .running }), (13, { state := .halted })] } } : State).portUp = true := by decide +kernel
theorem wit_keepsake : let s : State := { heard with mgmt := { procs := [(0, { state := .running, buffer := some [1] })] } }
    s.masterUp = true ∧ (s.proc 0).buffer = some [1] ∧ tget s.flash.keepsake 0 [] = [] ∧ tget ({ keepsake := [(0, [1])] } : FlashSt).keepsake 0 [] ≠ [] := by
  decide +kernel
theorem wit_record_queue : (sinkState { queue := [recA, recB], sent := true }).mgmt.records.queue = [recA, recB] ∧
    (sinkState { queue := [recA, recB], sent := true }).mgmt.lostCount = (sinkState {}).mgmt.lostTold ∧
    ({ heard.mgmt with lostCount := 1 } : MgmtSt).lostCount ≠ heard.mgmt.lostTold := by decide +kernel
/-- R435: the answer to the head lets the next record go. -/
theorem test_record_answer : after (.recordAnswer none) (sinkState { queue := [recA, recB], sent := true }) (fun t =>
    decide (t.out = [.record none recB, .ibi]) && t.mgmt.records.sent) = true := by decide +kernel
def sentHallmark : State := { managed ready with fields := [(0, { hmQueue := [[1]], hmSent := true })] }
theorem wit_field_queue : (sentHallmark.field 0).hmQueue = [[1]] ∧ (sentHallmark.field 0).hmSent = true ∧ sentHallmark.portUp = true ∧ sentHallmark.managerUp 0 = true ∧
    (sentHallmark.field 0).hmLost = (sentHallmark.field 0).hmLostTold ∧ (sentHallmark.field 11).hmSent = false := by decide +kernel

/-- A manifest that checks nothing. -/
def plainManifest : List Byte := let bs := layout 128 [(0, 1, 1)]; putBytes bs 0x1C (le 4 (crc32c bs).toNat)
set_option maxRecDepth 100000 in
theorem wit_manifest : (parseManifest plainManifest).isSome = true ∧ parseManifest [] = none := by decide +kernel
def inState (g : DevState) : State := let s := heard; { s with gen := { state := g } }
theorem wit_recovery_enter : (inState .stopped).inSession = false ∧ hears (inState .booting) {} ∧ (inState .booting).gen.state = .booting ∧
    ¬ ((inState .ready).gen.state = .stopped ∨ (inState .ready).gen.state = .booting ∨ (inState .ready).gen.state = .training) := by decide +kernel
theorem test_recovery_refused : gives (.recoveryEnter {}) heard (told heard 0x50 4) = true := by decide +kernel
/-- A package of three empty images is complete, and not valid. -/
def emptyPackage : FwPackage := { master := some [], field := some [], power := some [] }
theorem wit_package : packageParts emptyPackage = some [[], [], []] ∧ packageParts {} = none ∧ heard.packageValid [[], [], []] = false ∧
    ({ State.reset with gen := { state := .recovery } } : State).ifaceUp false = true ∧ ({ State.reset with gen := { state := .recovery } } : State).ifaceUp true = false := by
  decide +kernel
def updatingAt (n : Nat) : State := let s := heard; { s with mgmt := { s.mgmt with update := some { pkg := emptyPackage, stage := n } } }
def activatingOn (p : Nat) (k : ProcState) : State := { processor p { state := k } with gen := { state := .ready }, mgmt := { procs := [(0, { state := .running }), (p, { state := k })], activation := some { left := [p, 0] } } }
theorem wit_update : (updatingAt 0).mgmt.update = some { pkg := emptyPackage } ∧ (updatingAt 2).ifaceUp true = true ∧ ({} : FwPackage) ≠ emptyPackage ∧ (updatingAt 1).updating = true ∧
    heard.updating = false ∧ heard.mgmt.update = none ∧ heard.mgmt.activation = none ∧ (updatingAt 2).gen.state ≠ .recovery := by decide +kernel
theorem wit_activation : (activatingOn 3 .running).mgmt.activation = some { left := [3, 0] } ∧ (activatingOn 3 .running).masterUp = true ∧
    ((activatingOn 3 .running).proc 3).state = .running ∧ ((activatingOn 3 .restarting).proc 3).state ≠ .running ∧ ((activatingOn 3 .halted).proc 3).state = .halted := by
  decide +kernel
/-- R439: a package without every component is refused; one that is not valid is discarded. -/
theorem test_package : gives (.pldmFirmwareUpdate {} 0 true) heard (heard.put (.pldmUpdate .refused)) = true ∧
    after (.pldmFirmwareUpdate emptyPackage 1 true) (updatingAt 0) (fun t => t.mgmt.update.isNone && decide (t.out = [.pldmUpdate .failed])) = true ∧
    gives (.pldmFirmwareUpdate {} 1 true) (updatingAt 0) ((updatingAt 0).put (.pldmUpdate .busy)) = true := by decide +kernel
/-- R428, R439: activation goes past a halted processor. -/
theorem test_activation : after (.processorRestart 3) (activatingOn 3 .restarting) (fun t => decide ((t.proc 3).state = .running) && decide ((t.proc 0).state = .restarting)) = true ∧
    ((activatingOn 3 .halted).activateFrom {} [3]).mgmt.activation.isNone = true := by decide +kernel
/-- R437: a request for the types the device supports. -/
theorem test_pldm_types : gives (.pldmSensorUpdate [] (some (true, .types))) heard (heard.put (.pldmTypes [0, 2, 4, 5])) = true := by decide +kernel

/-- A root at (0,0,0) of a 2 x 1 x 1 block whose session 7 runs over the whole of it. -/
def block2 : Placement := { extent := { x := 2, y := 1, z := 1 } }
def casting (b : Option BcastSt) : State := let s := heard
  { s with cls := { place := some block2 }, mgmt := { s.mgmt with staging := some emptyPackage, bcast := b } }
def rootSession : BcastSt := { session := 7, root := true, hi := { x := 1 } }
theorem wit_bcast_start : (casting none).inSession = false ∧ (casting none).mgmt.staging.bind packageParts = some [[], [], []] ∧ (casting none).cls.place = some block2 ∧
    Placement.holds block2 { x := 1 } = true ∧ Placement.holds block2 { x := 2 } = false ∧ (casting (some rootSession)).inSession = true ∧
    heard.mgmt.staging.bind packageParts = none := by decide +kernel
theorem wit_bcast_targets : bcastTargets (casting (some rootSession)).here {} { x := 1 } = [{ x := 1 }] ∧ bcastLinks block2 {} {} { x := 1 } = [1] := by decide +kernel
theorem test_bcast_abort : after (.bcastAbort {}) (casting (some rootSession)) (fun t => t.mgmt.bcast.isNone) = true := by
  decide +kernel
theorem wit_bcast_block (bs : List Byte) (h : bs.length = 4096) : (casting none).portUp = true ∧ (casting none).cls.place = some block2 ∧ bs.length = 4096 ∧ 1 < 2 ∧
    (casting none).mgmt.bcast = none := ⟨by decide +kernel, by decide +kernel, h, by decide, rfl⟩
theorem wit_bcast_block_length : (List.replicate 4096 (0 : Byte)).length = 4096 := List.length_replicate
/-- A target that holds the header block 0 of a box that it lies in. -/
def leaf : BcastSt := { session := 7, total := 3, have_ := [0], data := [(0, layout 21 [(18, 1, 1)])] }
theorem wit_bcast_forward : tget? leaf.data 0 = some (layout 21 [(18, 1, 1)]) ∧ 1 ∉ leaf.have_ ∧ 0 ∈ leaf.have_ ∧ leaf.have_.length + 1 ≠ leaf.total ∧
    inBox (headerCoord (layout 21 [(18, 1, 1)]) 1) (headerCoord (layout 21 [(18, 1, 1)]) 2) block2.coord = true := by decide +kernel
theorem test_roll_call : after (.rollCall none [({ x := 1 }, .matched)]) (casting (some rootSession)) (fun t => t.mgmt.bcast.any (·.activating)) = true ∧
    after (.rollCall none [({ x := 1 }, .mismatch)]) (casting (some rootSession)) (fun t => t.mgmt.bcast.isNone) = true ∧
    after (.rollCall none [({ x := 1 }, .busy)]) (casting (some rootSession)) (fun t => t.mgmt.bcast.isNone) = true ∧
    after (.rollCall none []) (casting (some rootSession)) (fun t => t.mgmt.bcast.any (fun b => b.rounds == 1)) = true := by decide +kernel
/-- A target asked in its session, in another, and with none (R442, R444). -/
theorem wit_roll_answer : (casting (some leaf)).inSession = true ∧ (casting none).inSession = false ∧ (casting none).updating = false ∧ leaf.session = 7 ∧ leaf.ended = false ∧
    (casting (some leaf)).portUp = true ∧ gives (.rollCall (some (7, {})) []) (casting none) (casting none) = true := by decide +kernel
theorem wit_activate : let b : BcastSt := { leaf with matched := [{}] }
    (casting (some b)).mgmt.bcast = some b ∧ b.root = false ∧ b.session = 7 ∧ b.matched ≠ [] ∧ (casting (some b)).portUp = true ∧ leaf.matched = [] := by decide +kernel
theorem wit_bcast_done : let b : BcastSt := { rootSession with activating := true }
    (casting (some b)).mgmt.bcast = some b ∧ ({ x := 1 } : Coord) ∉ b.done ∧ ({ x := 1 } : Coord) ∈ bcastTargets (casting (some b)).here b.lo b.hi ∧
    (∀ d ∈ bcastTargets (casting (some b)).here b.lo b.hi, d ≠ ({ x := 1 } : Coord) → d ∈ b.done) ∧
    (∃ d ∈ bcastTargets ({} : Coord) {} { x := 2 }, d ≠ ({ x := 1 } : Coord) ∧ d ∉ b.done) := by decide +kernel
theorem test_bcast_done : after (.bcastDone { x := 1 }) (casting (some { rootSession with activating := true })) (fun t => t.mgmt.bcast.any (·.ended)) = true := by
  decide +kernel

def licenceFile (serial : Nat) : List Byte := layout 129 [(0, 1, 1), (1, 1, 3), (2, 2, 1), (4, 4, 5), (8, 8, serial)]
theorem wit_attest_licence : (List.replicate 32 (0 : Byte)).length = 32 ∧ licenceForm (licenceFile 9) = true ∧ licenceForm [] = false ∧
    fld (licenceFile 9) 8 8 ≠ heard.part.serial.toNat ∧ fld (licenceFile heard.part.serial.toNat) 8 8 = heard.part.serial.toNat := by decide +kernel
/-- R478: a file for another part is refused and counted. -/
theorem test_licence_serial : let u : State := { heard with sec := { licRefused := 1 } }
    decide (heard.finishLicence { file := some (licenceFile 9) } = told u 0x31 0 [1]) = true := by decide +kernel
/-- R478: a second LICENCE meanwhile is BUSY; R476: so is a second REPORT, and another OP is BAD_FORM. -/
theorem test_one_at_a_time : let s : State := { heard with sec := { licensing := some {}, signing := some {} } }
    gives (.licenceList {}) s (told s 0x31 3) = true ∧ gives (.attestReport {} none (List.replicate 32 0)) s (told s 0x30 3) = true ∧
    gives (.attestReport {} (some 2) (List.replicate 32 0)) s (told s 0x30 2) = true := by decide +kernel
def licensed (f : Nat) : State := { heard with flash := { licences := [(0, { id := 5, features := f, valid := true })] } }
theorem wit_licensing : heard.licensable = true ∧ (inState .training).licensable = false ∧ heard.sec.licensing = none ∧ heard.sec.signing = none ∧
    (licensed 3).licenceSlot 5 = some 1 ∧ (licensed 3).licenceSlot 5 ≠ none := by decide +kernel
theorem wit_licence_effect : ((licensed 3).licensed.testBit 0 && !(licensed 3).gen.cl) = true ∧ ((licensed 1).licensed.testBit 1) = false ∧ (licensed 1).masterUp = true ∧
    heard.licensed.testBit 0 = false ∧ (licensed 1).cls.linkEn.getLsbD 5 = true ∧ ((licensed 1).link 5).outService = false := by decide +kernel
theorem wit_session : heard.portUp = true ∧ heard.cxl.d3 = false ∧ heard.sec.session = none ∧ keyPoint [] = none ∧
    ({ heard with sec := { session := some { rxSeq := 4 } } } : State).sec.session = some { rxSeq := 4 } := by decide +kernel
/-- The generator of the curve is a public key (R468). -/
theorem wit_session_key : keyPoint (keyBytes bpG) ≠ none := by decide +kernel
/-- A message of no bytes opens under its own tag (R475). -/
theorem wit_session_message (key iv : List Byte) : gcmOpen key iv [] (gcmTag (aesKeys key) iv []) = some [] := by
  simp [gcmOpen, xorBytes]
/-- SHA-384 of "abc", FIPS 180-4's example. -/
theorem test_sha384 : sha384 [0x61, 0x62, 0x63] = be 48 0xcb00753f45a35e8bb5a03d699ac65007272c32ab0eded1631a8b605a43ff5bed8086072ba1e7cc2358baeca134c825a7 := by
  decide +kernel
theorem wit_addresses : heard.ifaceUp true = true ∧ heard.ifaceUp false = true ∧ ready.ifaceUp false = false ∧ ready.ifaceUp true = false ∧
    heard.mgmt.ipv4 = none ∧ (0xA9FEFFFF : W32) >>> 16 = 0xA9FE ∧ (0xA9FD0000 : W32) >>> 16 ≠ 0xA9FE := by decide +kernel
theorem test_link_local : after (.linkLocalFallback 0xA9FE0101) heard (fun t => decide (t.mgmt.ipv4 = some 0xA9FE0101)) = true ∧
    gives (.linkLocalFallback 0x0A000001) heard heard = true := by decide +kernel

/-! ## Registers, the Assay, stops, resets and the whole machine -/

theorem wit_register_writes : ready.writable = true ∧ State.reset.writable = false ∧ 0x10 % 4 = 0 ∧ configMask 0x10 = some 0x87FF ∧ configMask 0x70000 = some 0xFFF7 ∧
    (0xFFFF : W32).toNat < 65536 ∧ 65536 ≤ (0x10000 : W32).toNat ∧ ready.asy.state = .opened ∧ ready.anyCommitted = false ∧
    (withJobs (desc 1 0 1) [(1, { phase := .committed })]).anyCommitted = true ∧ ready.lkt.hbmPool = [] ∧ ready.lkt.lpPool = [] ∧
    ({ ready with asy := { state := .armed } } : State).asy.state ≠ .opened := by decide +kernel
/-- R306: a masked write of one bit leaves the others; a status bit is cleared by a 1 under MASK. -/
theorem test_masked_write : after (.registerWrite .host .bar0 0x60000 4 0x0002FFFF) { ready with alm := { betaDev := 0x10 } } (fun t => decide (t.alm.betaDev = 0x12)) = true := by
  decide +kernel
theorem test_status_clear : after (.registerWrite .host .bar0 0x60040 4 0x00020006) { ready with alm := { status := 6 } } (fun t => decide (t.alm.status = 4)) = true := by
  decide +kernel
theorem wit_register_reads : ready.reachable = true ∧ State.reset.reachable = false ∧ ready.reg 0 ≠ .lo 0 ∧ (0xF00000 : Nat) % 4 = 0 ∧ (0xF0FFFC : Nat) < 0xF10000 := by
  decide +kernel
theorem wit_reads_by_kind : (match ready.reg 0x10 with | .word _ => true | _ => false) = true := by decide +kernel
def recovering : State := { State.reset with gen := { state := .recovery }, cxl := { down := false } }
/-- R316, R320: in RECOVERY a configuration write and an Assay command set their flags. -/
theorem test_recovery_writes : after (.registerWrite .host .bar0 0x60000 4 0x0002FFFF) recovering (fun t => decide (t.asy.status = 2)) = true ∧
    after .asyOpen recovering (fun t => decide (t.asy.status = 4)) = true := by decide +kernel
theorem wit_recovery_writes : recovering.reachable = true ∧ recovering.writable = false ∧ configMask 0x50000 = none ∧ 65536 ≤ (0x00010001 : W32).toNat ∧
    configMask 0x60040 = none := by decide +kernel
theorem wit_assay : ready.gen.state = .ready ∧ ({ ready with asy := { state := .committing, waitSweep := true } } : State).asy.waitSweep = true ∧
    (∀ a ∈ [AssayState.opened, .committing, .armed, .fault], ({ ready with asy := { state := a } } : State).asy.state = a) := by decide +kernel
theorem test_commit_waits : after .asyCommit ready (fun t => decide (t.asy.state = .committing) && t.asy.waitSweep) = true ∧
    after .asyCommit { ready with asy := { state := .armed } } (fun t => t.asy.status.getLsbD 2) = true := by decide +kernel
/-- R308, R306: a processor writes no configuration register, and a masked write of MASK 0 has no effect of any kind. -/
theorem test_port_write : gives (.registerWrite .firmware .bar0 0x60000 4 0x0002FFFF) ready ready = true ∧
    gives (.registerWrite .host .bar0 0x60000 2 0x0002FFFF) ready ready = true ∧ gives (.registerWrite .host .bar0 0xB0008 4 0xFFFF) ready ready = true := by
  decide +kernel
/-- R266: a read of another size reads 0. -/
theorem test_read_size : gives (.rllRead .host .bar0 0x10 8) ready (ready.put (.regRead .host 0x10 0)) = true := by decide +kernel
theorem wit_ports : ready.gen.state ≠ .reset ∧ ready.cxl.down = false ∧ ready.cxl.d3 = false ∧ ready.rng.pba = [] ∧ (blockOf 0x60040).isSome = true ∧
    configMask 0x60040 = none ∧ State.reset.gen.state = .reset ∧ 8 * 8191 + 7 < 65536 ∧ BarSpace.msixControl ≠ .bar0 := by decide +kernel
/-- A sweep with one register left to read, and one whose registers' words give a CRC that is ASY_REF or another. -/
theorem wit_sweep_reads : ready.asy.seen.length ≠ configRegs.length ∧ (ready.asy.seen ++ ((configRegs.take 0).drop ready.asy.seen.length).map (fun e => ready.regValue e.1)).length = 0 := by
  decide +kernel
theorem wit_sweep (crc : W32) : ({ ref := crc } : AsySt).ref = crc ∧ crc ≠ ({ ref := ~~~ crc } : AsySt).ref := by
  refine ⟨rfl, fun e => ?_⟩
  have := congrArg (fun x => BitVec.getLsbD x 0) e
  simp at this
theorem wit_sweep_done (s : State) (h : s.asy.seen = []) : (s.asy.seen ++ ((configRegs.take configRegs.length).drop s.asy.seen.length).map
    (fun e => s.regValue e.1)).length = configRegs.length := by simp [h]

theorem test_host_stop : after (.hostStop true) ready (fun t => t.gen.stopHost && decide (t.gen.state = .stopped)) = true := by decide +kernel
theorem wit_stops : ready.gen.state ≠ .reset ∧ ready.gen.state ≠ .recovery ∧ runItem.status = none ∧ (withItem ready runItem).item? 5 = some runItem := by decide +kernel
theorem test_link_down_in_reset : gives (.cxlLinkDown true) State.reset State.reset = true := by decide +kernel
theorem wit_bringup : State.reset.gen.state = .reset ∧ State.reset.imagesPass { imagesOk := false } = false ∧ State.reset.imagesPass {} = true ∧
    State.reset.thm.coolantStop = false ∧ State.reset.pwr.faulted = false ∧ (∀ p < 14, (State.reset.proc p).state = .boot) ∧ ({ trainFail := [3], fastFail := [3] } : BringIn).hubFail = false ∧
    State.reset.pins.perstLow = true ∧ ({ released := false } : BringIn).released = false ∧ ({ inRange := false } : BringIn).inRange = false ∧
    ({ refValid := false } : BringIn).refValid = false ∧ State.reset.pins.refBad = false ∧ State.reset.clk.ref = .locked ∧ ({} : BringIn).hubFail = false ∧ ({} : BringIn).filFail = [] ∧
    ({} : BringIn).trainFail = [] ∧ ({ cxlWidth := 4 } : BringIn).cxlWidth ≠ 8 ∧ ({ State.reset with clk := { ref := .holdover } } : State).clk.ref ≠ .locked := by decide +kernel
/-- R487: bring-up waits in RESET while PERST_N is low; R446: it waits there for REFCLK. -/
theorem test_bringup_waits : gives (.bringupStart { released := false }) State.reset State.reset = true ∧
    after (.bringupStart { refValid := false }) State.reset (fun t => decide (t.gen.state = .reset) && t.gen.bringup.isSome && !t.pins.perstLow) = true := by decide +kernel
/-- R440: an image that does not verify. -/
theorem test_bringup_recovery : after (.bringupStart { imagesOk := false }) State.reset (fun t => decide (t.gen.state = .recovery)) = true := by decide +kernel
def agreeing (m : Option Manifest) : State := { inState .agreement with mgmt := { heard.mgmt with manifest := m } }
theorem wit_agreement : (agreeing none).gen.state = .agreement ∧ ((agreeing none).proc 0).state = .running ∧ (agreeing none).manifest = none ∧ (agreeing none).thm.coolantStop = false ∧
    (agreeing (some { serial := 9 })).disagreements { serial := 9 } = 64 ∧ (agreeing (some {})).disagreements {} = 0 := by decide +kernel
theorem wit_tidy : Safety.Tidy ready ∧ Memory.wf (some 0) [(4, 0)] = false ∧ Memory.wf (some 0) [(4, 1), (4, 2)] = false ∧ Memory.wf (some 0) [(4, 1), (5, 2)] = true := by
  unfold Safety.Tidy; decide +kernel
/-- The table gives no row bits. -/
theorem test_no_words : decodeTableWord 8 0 = none ∧ (State.reset.withFetchWord 8 0).pending = [] := by decide
theorem test_step_takes_the_front : (match step { ready with pending := [.d3hotRequest true, .viral] } with | .next t => decide (t.pending = [.viral]) && t.cxl.d3 | _ => false) = true := by
  decide +kernel


end Sys2Proof.Tests
end

section
/-! PROOFS. Memory stations (R68, R69): the addresses that an access to a region reaches, what a read of them answers, and
what a store to them changes. -/

namespace Sys2Proof.Machine

/-! ## Requests to this module's own memory -/

/-- The addresses of a piece's bytes, in payload order. -/
def Piece.addrs (p : Piece) : List Nat := (List.range p.len).map (p.addr.getD 0 + ·)

/-- The addresses of a request's bytes, in payload order. -/
def pieceAddrs (ps : List Piece) : List Nat := ps.flatMap Piece.addrs

/-- A request that reaches this module's own memory alone: no page of a peer, no hole, no empty piece. -/
def OwnMemory (ps : List Piece) : Prop := ∀ p ∈ ps, ∃ a n, 0 < n ∧ p = { addr := some a, len := n }

@[simp] theorem pieceAddrs_nil : pieceAddrs [] = [] := rfl
@[simp] theorem pieceAddrs_cons (p : Piece) (ps : List Piece) : pieceAddrs (p :: ps) = p.addrs ++ pieceAddrs ps := rfl
@[simp] theorem Piece.length_addrs (p : Piece) : p.addrs.length = p.len := by simp [Piece.addrs]

theorem mem_addrs_run {a n x : Nat} : x ∈ ({ addr := some a, len := n } : Piece).addrs ↔ ∃ i < n, a + i = x := by
  simp [Piece.addrs]

theorem ownMemory_cons {p : Piece} {ps : List Piece} (h : OwnMemory (p :: ps)) :
    (∃ a n, 0 < n ∧ p = { addr := some a, len := n }) ∧ OwnMemory ps :=
  ⟨h p (by simp), fun q hq => h q (by simp [hq])⟩

theorem anyPeer_ownMemory {ps : List Piece} (h : OwnMemory ps) : anyPeer ps = false := by
  simp only [anyPeer, List.any_eq_false]
  intro p hp
  obtain ⟨a, n, -, rfl⟩ := h p hp
  simp

/-- A request to this module's own memory sends nothing to a peer. -/
theorem foldl_peerRequest_ownMemory {ps : List Piece} (h : OwnMemory ps) (s : State) :
    ps.foldl (fun s p => if p.peer.isSome then s.peerRequest p none else s) s = s := by
  induction ps with
  | nil => rfl
  | cons p ps ih =>
    obtain ⟨⟨a, n, -, rfl⟩, hps⟩ := ownMemory_cons h
    simpa using ih hps

/-! ## The pieces of an access to a region (R69) -/

theorem regionPieces_ownMemory (base size fuel pos n : Nat) (hs : 0 < size) : OwnMemory (regionPieces base size fuel pos n) := by
  induction fuel generalizing pos n with
  | zero => simp [regionPieces, OwnMemory]
  | succ fuel ih =>
    have hlt := Nat.mod_lt pos hs
    by_cases hn : n = 0
    · simp [regionPieces, OwnMemory, hn]
    · rw [regionPieces, if_neg hn]
      intro p hp
      rcases List.mem_cons.1 hp with rfl | hp
      · exact ⟨_, _, by omega, rfl⟩
      · exact ih _ _ p hp

/-- The pieces of an access cover its bytes in payload order, byte i at (pos + i) mod size of the region; each piece but
the first begins at the region's start, so that an access meets its end at most once per `size` bytes. -/
theorem regionPieces_addrs (base size fuel pos n : Nat) (hs : 0 < size) (hf : 0 < n → n + pos % size ≤ fuel * size) :
    pieceAddrs (regionPieces base size fuel pos n) = (List.range n).map (fun i => base + (pos + i) % size) := by
  induction fuel generalizing pos n with
  | zero =>
    have : n = 0 := by omega
    simp [regionPieces, this]
  | succ fuel ih =>
    by_cases hn : n = 0
    · simp [regionPieces, hn]
    have hlt := Nat.mod_lt pos hs
    have hf' := hf (by omega)
    rw [Nat.succ_mul] at hf'
    obtain ⟨k, hk⟩ : ∃ k, k = min n (size - pos % size) := ⟨_, rfl⟩
    have hwrap : k < n → (pos + k) % size = 0 := fun h => by
      have hk' : k = size - pos % size := by omega
      have : pos + k = size * (pos / size + 1) := by
        have := Nat.div_add_mod pos size
        rw [Nat.mul_add, Nat.mul_one]
        omega
      rw [this, Nat.mul_mod_right]
    have hrest := ih (pos + k) (n - k) (fun h => by rw [hwrap (by omega)]; omega)
    rw [regionPieces, if_neg hn, ← hk, pieceAddrs_cons, hrest]
    obtain ⟨j, rfl⟩ : ∃ j, n = k + j := ⟨n - k, by omega⟩
    rw [List.range_add, List.map_append, List.map_map, Nat.add_sub_cancel_left]
    congr 1
    · refine List.map_congr_left fun i hi => ?_
      have hi : i < k := List.mem_range.1 hi
      have : (pos + i) % size = pos % size + i := by
        rw [← Nat.mod_add_mod, Nat.mod_eq_of_lt (by omega)]
      simp only [Option.getD_some, this]
      omega
    · refine List.map_congr_left fun i _ => ?_
      simp only [Function.comp_apply, Nat.add_assoc]

theorem mod_add_ne {size pos i j : Nat} (hij : i < j) (hj : j < size) : (pos + i) % size ≠ (pos + j) % size := by
  intro h
  have hz := Nat.sub_mod_eq_zero_of_mod_eq h.symm
  rw [Nat.add_sub_add_left, Nat.mod_eq_of_lt (by omega)] at hz
  omega

/-- Bytes of an access no longer than its region lie at different addresses. -/
theorem nodup_regionAddrs (base size pos n : Nat) (hn : n ≤ size) :
    ((List.range n).map (fun i => base + (pos + i) % size)).Nodup := by
  refine List.pairwise_map.2 (List.pairwise_lt_range.imp_of_mem fun _ hj hij h => ?_)
  have hj := List.mem_range.1 hj
  exact mod_add_ne hij (by omega) (Nat.add_left_cancel h)

/-- REGION_BASE of an HBM or LPDDR station, as an address of its tier (R69, R189). -/
def regionAt (st : StationE) : Nat := (if st.kind = .hbm then hbmBase st.target else lpBase st.target) + st.regionBase

/-- The address that an HBM or LPDDR station uses for byte i of a payload at an OFFSET (R69). -/
def stationByte (st : StationE) (offset i : Nat) : Nat := regionAt st + (offset * 64 + i) % (st.regionLen * 65536)

theorem stationPieces_region (s : State) {st : StationE} (hk : st.kind = .hbm ∨ st.kind = .lpddr) (offset n : Nat) :
    s.stationPieces st offset n = regionPieces (regionAt st) (st.regionLen * 65536) 8 (offset * 64) n := by
  rcases hk with hk | hk <;> simp [State.stationPieces, regionAt, hk]

theorem stationPieces_ownMemory (s : State) {st : StationE} (hk : st.kind = .hbm ∨ st.kind = .lpddr) (hl : 0 < st.regionLen) (offset n : Nat) :
    OwnMemory (s.stationPieces st offset n) := by
  rw [stationPieces_region s hk]
  exact regionPieces_ownMemory _ _ _ _ _ (by omega)

theorem stationPieces_addrs (s : State) {st : StationE} (hk : st.kind = .hbm ∨ st.kind = .lpddr) (hl : 0 < st.regionLen) (offset n : Nat)
    (hn : n ≤ 262144) : pieceAddrs (s.stationPieces st offset n) = (List.range n).map (stationByte st offset) := by
  have := Nat.mod_lt (offset * 64) (show 0 < st.regionLen * 65536 by omega)
  rw [stationPieces_region s hk]
  exact regionPieces_addrs (regionAt st) (st.regionLen * 65536) 8 (offset * 64) n (by omega) (fun _ => by omega)

/-! ## Devices in service (R388) -/

/-- Stacks and packages interleave in grains of 256 bytes (R189). -/
theorem devTripped_grain (s : State) {a b : Nat} (h : a / 256 = b / 256) : s.devTripped a = s.devTripped b := by
  have hb : isHbm a = isHbm b := by
    simp only [isHbm, decide_eq_decide]
    omega
  have hf : memField a = memField b := by
    simp only [memField, hb]
    split <;> omega
  simp only [State.devTripped, hb, hf, h]

/-- A run of bytes none of which lies on a tripped device: each grain that the range test looks at holds one of them. -/
theorem rangeTripped_eq_false (s : State) (a n : Nat) (hn : 0 < n) (h : ∀ i < n, s.devTripped (a + i) = false) :
    s.rangeTripped a n = false := by
  simp only [State.rangeTripped, Bool.and_eq_false_iff, List.any_eq_false, List.mem_range, Bool.not_eq_true]
  refine .inr fun i hi => ?_
  rw [devTripped_grain s (b := a + (256 * i - a % 256)) (by omega)]
  exact h _ (by omega)

theorem devTripped_congr {s t : State} (h : t.thm = s.thm) (a : Nat) : t.devTripped a = s.devTripped a := by
  simp only [State.devTripped, h]

/-- No byte of a request lies on a tripped device. -/
def State.InService (s : State) (ps : List Piece) : Prop := ∀ x ∈ pieceAddrs ps, s.devTripped x = false

theorem State.InService.congr {s t : State} {ps : List Piece} (h : s.InService ps) (ht : t.thm = s.thm) : t.InService ps :=
  fun x hx => (devTripped_congr ht x).trans (h x hx)

theorem inService_cons {s : State} {a n : Nat} {ps : List Piece} (hn : 0 < n) (h : s.InService ({ addr := some a, len := n } :: ps)) :
    s.rangeTripped a n = false ∧ s.InService ps := by
  refine ⟨rangeTripped_eq_false s a n hn fun i hi => h _ ?_, fun x hx => h x ?_⟩
  · exact List.mem_append_left _ (mem_addrs_run.2 ⟨i, hi, rfl⟩)
  · exact List.mem_append_right _ hx

theorem piecesTripped_inService {s : State} {ps : List Piece} (hl : OwnMemory ps) (h : s.InService ps) : s.piecesTripped ps = false := by
  induction ps with
  | nil => rfl
  | cons p ps ih =>
    obtain ⟨⟨a, n, hn, rfl⟩, hps⟩ := ownMemory_cons hl
    obtain ⟨ha, hr⟩ := inService_cons hn h
    simpa [State.piecesTripped, ha] using ih hps hr

/-! ## What reads and marks of module memory leave alone -/

/-- The state less marks of poison, fields, fault records and messages. -/
def State.unMark (s : State) : State := { s with mem.poison := [], fields := [], mgmt := {}, out := [] }

/-- The state less what a read of module memory may change: those marks, and Locket's entries. -/
def State.unRead (s : State) : State := { s.unMark with lkt := {} }

theorem sendRecord_unMark (s : State) : s.sendRecord.unMark = s.unMark := by
  simp only [State.sendRecord, State.tell]
  repeat' split
  all_goals rfl

theorem memRecord_unMark (s : State) (a : Nat) : (s.memRecord a).unMark = s.unMark := by
  simp only [State.memRecord, State.record]
  split
  · rfl
  · exact sendRecord_unMark _

theorem setPoison_unMark (s : State) (w : Nat) (p : Bool) : (s.setPoison w p).1.unMark = s.unMark := by
  simp only [State.setPoison]
  repeat' split
  all_goals rfl

theorem poisonWord_unMark (s : State) (w : Nat) : (s.poisonWord w).unMark = s.unMark := by
  simp only [State.poisonWord]
  split
  · exact setPoison_unMark s w true
  · exact (memRecord_unMark _ _).trans (setPoison_unMark s w true)

theorem unRead_of_unMark {s t : State} (h : t.unMark = s.unMark) : t.unRead = s.unRead := by simp only [State.unRead, h]

theorem dropCopy_unRead (s : State) (n : Nat) : (s.dropCopy n).unRead = s.unRead := by
  simp only [State.dropCopy, State.freeFrame]
  repeat' split
  all_goals rfl

theorem poisonEntry_unRead (s : State) (n : Nat) : (s.poisonEntry n).unRead = s.unRead := by
  simp only [State.poisonEntry]
  split
  · rfl
  · exact dropCopy_unRead s n

theorem strands_of_unRead {s t : State} (h : t.unRead = s.unRead) : t.strands = s.strands :=
  show t.unRead.strands = s.unRead.strands from by rw [h]
theorem bytes_of_unRead {s t : State} (h : t.unRead = s.unRead) : t.mem.bytes = s.mem.bytes :=
  show t.unRead.mem.bytes = s.unRead.mem.bytes from by rw [h]
theorem epoch_of_unRead {s t : State} (h : t.unRead = s.unRead) : t.mem.epoch = s.mem.epoch :=
  show t.unRead.mem.epoch = s.unRead.mem.epoch from by rw [h]

/-! ## Reading -/

/-- The byte that module memory holds at an address; an unwritten one is a free value (R498). -/
def State.memByte (s : State) (a : Nat) : Byte := (Memory.get? s.mem.bytes a).getD (Config.unwrittenByte s.mem.epoch a)

theorem memByte_of_unRead {s t : State} (h : t.unRead = s.unRead) (a : Nat) : t.memByte a = s.memByte a := by
  simp only [State.memByte, bytes_of_unRead h, epoch_of_unRead h]

theorem memRead_eq_map (s : State) (a n : Nat) : s.memRead a n = (List.range n).map (fun i => s.memByte (a + i)) := by
  refine List.map_congr_left fun i hi => ?_
  have hi := List.mem_range.1 hi
  have h := Memory.get?_filter s.mem.bytes (fun c => decide (a ≤ c) && decide (c < a + n)) (a + i)
  rw [if_pos (by simp [hi])] at h
  rw [h]
  rfl

theorem memRead_addrs (s : State) (a n : Nat) : s.memRead a n = ({ addr := some a, len := n } : Piece).addrs.map s.memByte := by
  simp [memRead_eq_map, Piece.addrs, Function.comp_def]

theorem readPiece_unRead (s : State) (a len w0 : Nat) (bad : List Nat) (e : Option Nat) :
    (s.readPiece a len w0 bad e).1.unRead = s.unRead := by
  simp only [State.readPiece]
  rw [foldl_keep State.unRead _ (fun s n => poisonEntry_unRead s n), foldl_keep State.unRead]
  intro s w
  refine (unRead_of_unMark (memRecord_unMark _ _)).trans ?_
  split
  · exact unRead_of_unMark (setPoison_unMark s _ true)
  · rfl

/-- A read with no fresh error, of words that are not poisoned and lie on devices in service, marks nothing. -/
theorem readPiece_clean (s : State) (a len w0 : Nat) (ht : s.rangeTripped a len = false) (hw : ∀ i < len, s.wordPoison ((a + i) / 8) = false) :
    s.readPiece a len w0 [] none = (s, { bytes := s.memRead a len }) := by
  have hp : ∀ i < (len + 7) / 8, s.wordPoison (a / 8 + i) = false := fun i hi => by
    have := hw (8 * i) (by omega)
    rwa [Nat.add_mul_div_left _ _ (by decide)] at this
  have hbad : ((List.range ((len + 7) / 8)).map (fun i => (w0 + i, a / 8 + i))).filter (fun w => ([] : List Nat).contains w.1) = [] :=
    List.filter_eq_nil_iff.2 fun _ _ => Bool.false_ne_true
  have hpois : ((List.range ((len + 7) / 8)).map (fun i => (w0 + i, a / 8 + i))).filter
      (fun w => ([] : List Nat).contains w.1 || s.wordPoison w.2) = [] := by
    rw [List.filter_eq_nil_iff]
    intro w hw
    obtain ⟨i, hi, rfl⟩ := List.mem_map.1 hw
    rw [hp i (List.mem_range.1 hi)]
    exact Bool.false_ne_true
  simp only [State.readPiece, ht, Bool.false_eq_true, if_false, List.isEmpty_nil, if_true, hpois, List.map_nil, hbad]
  rfl

theorem readPieces_unRead (s : State) (bad : List Nat) {ps : List Piece} (hl : OwnMemory ps) (pos : Nat) :
    (s.readPieces bad ps pos [] []).1.unRead = s.unRead := by
  induction ps generalizing s pos with
  | nil => rfl
  | cons p ps ih =>
    obtain ⟨⟨a, n, -, rfl⟩, hps⟩ := ownMemory_cons hl
    exact (ih _ hps _).trans (readPiece_unRead s a n (pos / 8) bad none)

/-- The answer to a request carries the bytes of its addresses. -/
theorem readPieces_bytes (s : State) (bad : List Nat) {ps : List Piece} (hl : OwnMemory ps) (pos : Nat) :
    (s.readPieces bad ps pos [] []).2.bytes = (pieceAddrs ps).map s.memByte := by
  induction ps generalizing s pos with
  | nil => rfl
  | cons p ps ih =>
    obtain ⟨⟨a, n, -, rfl⟩, hps⟩ := ownMemory_cons hl
    have hu := readPiece_unRead s a n (pos / 8) bad none
    have hrest : (pieceAddrs ps).map (s.readPiece a n (pos / 8) bad none).1.memByte = (pieceAddrs ps).map s.memByte :=
      List.map_congr_left fun x _ => memByte_of_unRead hu x
    rw [pieceAddrs_cons, List.map_append, ← memRead_addrs, ← hrest]
    exact congrArg (s.memRead a n ++ ·) (ih _ hps _)

theorem readPieces_clean (s : State) {ps : List Piece} (hl : OwnMemory ps) (ht : s.InService ps)
    (hw : ∀ x ∈ pieceAddrs ps, s.wordPoison (x / 8) = false) (pos : Nat) :
    s.readPieces [] ps pos [] [] = (s, { bytes := (pieceAddrs ps).map s.memByte }) := by
  induction ps generalizing pos with
  | nil => rfl
  | cons p ps ih =>
    obtain ⟨⟨a, n, hn, rfl⟩, hps⟩ := ownMemory_cons hl
    obtain ⟨ha, hr⟩ := inService_cons hn ht
    have hc := readPiece_clean s a n (pos / 8) ha fun i hi => hw _ (List.mem_append_left _ (mem_addrs_run.2 ⟨i, hi, rfl⟩))
    have hi := ih hps hr (fun x hx => hw x (List.mem_append_right _ hx)) (pos + n)
    simp [State.readPieces, hc, hi, memRead_addrs]

/-! ## Writing -/

/-- The state less what a write of module memory may change: its bytes, marks of poison, and the records of a full
poison table (R196). -/
def State.unWrite (s : State) : State := { s.unMark with mem := {} }

theorem eq_of_unWrite {s t : State} (h : t.unWrite = s.unWrite) :
    t = { s with mem := t.mem, fields := t.fields, mgmt := t.mgmt, out := t.out } :=
  calc t = { t.unWrite with mem := t.mem, fields := t.fields, mgmt := t.mgmt, out := t.out } := rfl
    _ = _ := by rw [h]; rfl

theorem thm_of_unWrite {s t : State} (h : t.unWrite = s.unWrite) : t.thm = s.thm :=
  show t.unWrite.thm = s.unWrite.thm from by rw [h]

theorem poisonWord_unWrite (s : State) (w : Nat) : (s.poisonWord w).unWrite = s.unWrite := by
  simp only [State.unWrite, poisonWord_unMark]

theorem memWrite_unWrite (s : State) (a : Nat) (bs : List Byte) : (s.memWrite a bs).unWrite = s.unWrite := by
  simp only [State.memWrite]; split <;> rfl

theorem memWrite_bytes (s : State) (a : Nat) (bs : List Byte) : (s.memWrite a bs).mem.bytes = Memory.write none s.mem.bytes a bs := by
  simp only [State.memWrite]; split <;> rfl

/-- A store to devices in service writes its bytes, whatever words it marks as poison. -/
theorem storeBytes_bytes (s : State) (a : Nat) (bs : List Byte) (poison : List Nat) (h : s.rangeTripped a bs.length = false) :
    (s.storeBytes a bs poison).mem.bytes = Memory.write none s.mem.bytes a bs := by
  simp only [State.storeBytes, h]
  rw [foldl_keep (fun s : State => s.mem.bytes) _ (fun s w => bytes_of_unRead (unRead_of_unMark (poisonWord_unMark s _)))]
  exact memWrite_bytes s a bs

theorem storeBytes_unWrite (s : State) (a : Nat) (bs : List Byte) (poison : List Nat) (h : s.rangeTripped a bs.length = false) :
    (s.storeBytes a bs poison).unWrite = s.unWrite := by
  simp only [State.storeBytes, h]
  rw [foldl_keep State.unWrite _ (fun s w => poisonWord_unWrite s _)]
  exact memWrite_unWrite s a bs

/-- A request's first piece is stored, then the others with the bytes that are left. -/
theorem writePieces_cons (s : State) {a n : Nat} {bs : List Byte} (ht : s.rangeTripped a n = false) (hb : n ≤ bs.length) (ps : List Piece)
    (poison : List Nat) : ∃ (u : State) (rest : List Nat),
    s.writePieces ({ addr := some a, len := n } :: ps) bs poison = u.writePieces ps (bs.drop n) rest ∧
      u.unWrite = s.unWrite ∧ u.mem.bytes = Memory.write none s.mem.bytes a (bs.take n) := by
  have ht : s.rangeTripped a (bs.take n).length = false := by rwa [List.length_take_of_le hb]
  exact ⟨_, _, rfl, storeBytes_unWrite s a _ _ ht, storeBytes_bytes s a _ _ ht⟩

section
variable {ps : List Piece} {bs : List Byte} {s : State}

theorem writePieces_unWrite (hl : OwnMemory ps) (ht : s.InService ps) (hb : bs.length = (pieceAddrs ps).length) (poison : List Nat) :
    (s.writePieces ps bs poison).unWrite = s.unWrite := by
  induction ps generalizing s bs poison with
  | nil => rfl
  | cons p ps ih =>
    obtain ⟨⟨a, n, hn, rfl⟩, hps⟩ := ownMemory_cons hl
    obtain ⟨ha, hr⟩ := inService_cons hn ht
    simp only [pieceAddrs_cons, List.length_append, Piece.length_addrs] at hb
    obtain ⟨u, rest, hw, hu, -⟩ := writePieces_cons (bs := bs) s ha (by omega) ps poison
    rw [hw, ih hps (hr.congr (thm_of_unWrite hu)) (by rw [List.length_drop]; omega) rest, hu]

/-- A store leaves every address but its own alone. -/
theorem writePieces_get?_other (hl : OwnMemory ps) (ht : s.InService ps) (hb : bs.length = (pieceAddrs ps).length) (poison : List Nat)
    {x : Nat} (hx : x ∉ pieceAddrs ps) :
    Memory.get? (s.writePieces ps bs poison).mem.bytes x = Memory.get? s.mem.bytes x := by
  induction ps generalizing s bs poison with
  | nil => rfl
  | cons p ps ih =>
    obtain ⟨⟨a, n, hn, rfl⟩, hps⟩ := ownMemory_cons hl
    obtain ⟨ha, hr⟩ := inService_cons hn ht
    simp only [pieceAddrs_cons, List.length_append, Piece.length_addrs, List.mem_append, not_or, mem_addrs_run] at hb hx
    obtain ⟨u, rest, hw, hu, hbytes⟩ := writePieces_cons (bs := bs) s ha (by omega) ps poison
    have hout : ¬ (a ≤ x ∧ x < a + (bs.take n).length) := by
      rw [List.length_take_of_le (by omega)]
      exact fun h => hx.1 ⟨x - a, by omega, by omega⟩
    rw [hw, ih hps (hr.congr (thm_of_unWrite hu)) (by rw [List.length_drop]; omega) rest hx.2, hbytes,
      Memory.get?_write_other _ _ _ _ _ hout]

theorem get?_write_byte (mem : List Host.Cell) (a : Nat) (bs : List Byte) (i : Nat) (hi : i < bs.length) :
    Memory.get? (Memory.write none mem a bs) (a + i) = some bs[i] := by
  rw [Memory.get?_write, if_pos ⟨by omega, by omega⟩, Nat.add_sub_cancel_left, List.getElem?_eq_getElem hi]
  rfl

/-- A store puts each byte at its address, where no address comes twice. -/
theorem writePieces_get?_own (hl : OwnMemory ps) (ht : s.InService ps) (hb : bs.length = (pieceAddrs ps).length) (poison : List Nat)
    (hd : (pieceAddrs ps).Nodup) :
    ∀ x ∈ (pieceAddrs ps).zip bs, Memory.get? (s.writePieces ps bs poison).mem.bytes x.1 = some x.2 := by
  induction ps generalizing s bs poison with
  | nil => simp
  | cons p ps ih =>
    obtain ⟨⟨a, n, hn, rfl⟩, hps⟩ := ownMemory_cons hl
    obtain ⟨ha, hr⟩ := inService_cons hn ht
    rw [pieceAddrs_cons, List.nodup_append] at hd
    obtain ⟨-, hd, hdisj⟩ := hd
    simp only [pieceAddrs_cons, List.length_append, Piece.length_addrs] at hb
    obtain ⟨u, rest, hw, hu, hbytes⟩ := writePieces_cons (bs := bs) s ha (by omega) ps poison
    have hr := hr.congr (thm_of_unWrite hu)
    have hb' : (bs.drop n).length = (pieceAddrs ps).length := by rw [List.length_drop]; omega
    have hlen : (bs.take n).length = n := List.length_take_of_le (by omega)
    have hz : (pieceAddrs ({ addr := some a, len := n } :: ps)).zip bs =
        ({ addr := some a, len := n } : Piece).addrs.zip (bs.take n) ++ (pieceAddrs ps).zip (bs.drop n) := by
      rw [← List.zip_append (by simp [hlen]), List.take_append_drop, pieceAddrs_cons]
    rw [hz, hw]
    intro x hx
    rcases List.mem_append.1 hx with hx | hx
    · obtain ⟨i, hi, rfl⟩ := List.mem_iff_getElem.1 hx
      have hin : i < n := by simpa [hlen] using hi
      have hnot : a + i ∉ pieceAddrs ps := fun h => hdisj _ (mem_addrs_run.2 ⟨i, hin, rfl⟩) _ h rfl
      simp only [List.getElem_zip, Piece.addrs, List.getElem_map, List.getElem_range, Option.getD_some]
      rw [writePieces_get?_other hps hr hb' rest hnot, hbytes, get?_write_byte _ _ _ _ (by omega)]
    · exact ih hps hr hb' rest hd x hx

end

/-! ## The answer to a fetch -/

theorem beadErrors_poison (s : State) (k : StrandSt) (t : Tile) (bad : List Nat) : ∃ p, s.beadErrors k t bad = { t with poison := p } := by
  unfold State.beadErrors; split <;> exact ⟨_, rfl⟩

theorem beadErrors_nil (s : State) (k : StrandSt) (t : Tile) : s.beadErrors k t [] = t := by
  simp [State.beadErrors]

theorem isMemKind_region {k : StationKind} (h : k = .hbm ∨ k = .lpddr) : isMemKind k = true ∧ k ≠ .kv := by
  rcases h with rfl | rfl <;> decide

/-- The tile that answers a fetch request with what a read found, before it leaves (R68). -/
def fetchTile (n : Nat) (st : StationE) (r : FetchReq) (got : Found) : Tile :=
  { strand := n, fmt := r.shape.fmt, rows := r.shape.rows, cols := r.shape.cols, anchor := r.shape.anchor
    srcStation := st.station, slot := 0xFFFF, work := r.work, offset := r.offset
    payload := got.bytes, poison := got.poison, hot := got.hot }

/-- The tile that answers a fetch as it leaves: with the words that a link to another module poisons (R331). -/
def State.sentTile (s : State) (k : StrandSt) (t : Tile) (wire : List Nat) : Tile :=
  if k.entry.place = .toPeer then s.beadErrors k t wire else t

theorem sentTile_poison (s : State) (k : StrandSt) (t : Tile) (wire : List Nat) : ∃ p, s.sentTile k t wire = { t with poison := p } := by
  unfold State.sentTile
  split
  · exact beadErrors_poison ..
  · exact ⟨_, rfl⟩

theorem sentTile_unharmed (s : State) (k : StrandSt) (t : Tile) (wire : List Nat) (h : wire = [] ∨ k.entry.place ≠ .toPeer) :
    s.sentTile k t wire = t := by
  unfold State.sentTile
  split
  · obtain rfl : wire = [] := h.resolve_right (fun hp => hp ‹_›)
    exact beadErrors_nil ..
  · rfl

/-- FETCH_RESPONSE of a station of this module's own memory: the request leaves its queue, its pieces are read, and the
tile is sent. -/
theorem fetchResponse_own {s u v : State} {n : StrandId} {k k' : StrandSt} {r : FetchReq} {rest : List FetchReq} {st : StationE}
    {ps : List Piece} {got : Found} {bad : List Nat}
    (hs : s.strand? n = some k) (hq : k.fetchQ = r :: rest) (hst : s.srcStn k = some st) (hk : st.kind = .hbm ∨ st.kind = .lpddr)
    (hc : s.hasCredit k 0 = true) (hps : s.stationPieces st r.offset.toNat r.shape.payload = ps) (hl : OwnMemory ps)
    (hk' : k' = { k with fetchQ := rest }) (hv : s.setStrand n k' = v) (hr : v.readPieces bad ps 0 [] [] = (u, got))
    (wire : List Nat) (reply : PeerReply) :
    exec (.fetchResponse n bad reply wire) s = .next (u.sendTile n k' 0 (u.sentTile k' (fetchTile n st r got) wire)) := by
  obtain ⟨hm, hkv⟩ := isMemKind_region hk
  have hu : u.strand? n = some k' := by
    have hread := strands_of_unRead (readPieces_unRead v bad hl 0)
    rw [hr, ← hv] at hread
    rw [State.strand?, hread]
    exact tget?_tput_same ..
  show execFetchResponse n bad reply wire s = _
  simp only [execFetchResponse, hs, hq, hst, hm, hc, hkv, hps, ← hk', hv, hr, hu, foldl_peerRequest_ownMemory hl, anyPeer_ownMemory hl,
    Bool.not_true, Bool.or_self, Bool.false_eq_true, if_false]
  rfl

/-! ## A store -/

theorem countTile_clk (s : State) (k : StrandSt) (t : Tile) : ∃ c, s.countTile k t = { s with clk := c } := by
  refine foldl_holds (fun u => ∃ c, u = { s with clk := c }) _ ?_ _ _ ⟨s.clk, rfl⟩
  rintro _ ⟨l, b⟩ ⟨c, rfl⟩
  refine foldl_holds (fun u => ∃ c, u = { s with clk := c }) _ ?_ _ _ ⟨c, rfl⟩
  rintro _ p ⟨c, rfl⟩
  cases p <;> exact ⟨_, rfl⟩

theorem ackPeer_out (s : State) (n : Nat) (landed credits : List Nat) : ∃ c o, s.ackPeer n landed credits = { s with cls := c, out := o } := by
  simp only [State.ackPeer, State.putOn]
  repeat' split
  all_goals exact ⟨_, _, rfl⟩

/-- The receipt of a tile at a memory station: its strand counts its SEQ, and its credit returns (R65, R67, R413). -/
def State.storeReceipt (s : State) (n : Nat) (k : StrandSt) (t : Tile) : State :=
  let k' := ({ k with flight := k.flight.filter (fun x => !(x.srcMember == t.srcMember && x.seq == t.seq)) } : StrandSt).receive t.srcMember t.seq
  let g := s.groupOf k t.srcMember t.seq
  if k'.entry.place = .fromPeer then ((s.countTile k' t).setStrand n k').ackPeer n [t.srcMember] [g]
  else s.setStrand n (k'.addCredit g 1)

theorem storeReceipt_eq (s : State) (n : Nat) (k : StrandSt) (t : Tile) : ∃ k' clk cls out,
    s.storeReceipt n k t = { s with strands := tput s.strands n k', clk := clk, cls := cls, out := out } := by
  unfold State.storeReceipt
  extract_lets k' g
  split
  · obtain ⟨clk, hc⟩ := countTile_clk s k' t
    obtain ⟨cls, out, ha⟩ := ackPeer_out ((s.countTile k' t).setStrand n k') n [t.srcMember] [g]
    exact ⟨k', clk, cls, out, by rw [ha, hc]; rfl⟩
  · exact ⟨_, s.clk, s.cls, s.out, rfl⟩

/-- STORE_WRITE of a station of this module's own memory, of devices in service: the tile is received; then its pieces are
written, unless its item came from another module and has ended here (R67, R69, R76). -/
theorem storeWrite_own {s v : State} {n : StrandId} {m : Fin 96} {k : StrandSt} {tile : Tile} {st : StationE} {ps : List Piece} {bad : List Nat}
    (hs : s.strand? n = some k) (hf : k.flight.find? (fun x => x.srcMember == m.val) = some tile)
    (hst : s.dstStn k = some st) (hk : st.kind = .hbm ∨ st.kind = .lpddr) (hd : isDuplicate k tile = false)
    (hps : s.stationPieces st tile.offset.toNat tile.payload.length = ps) (hv : s.storeReceipt n k (s.beadErrors k tile bad) = v)
    (hl : OwnMemory ps) (ht : v.InService ps) (hb : tile.payload.length = (pieceAddrs ps).length) (reply : PeerReply) : ∃ poison,
    exec (.storeWrite n m reply bad) s = .next (
      if k.entry.place = .fromPeer ∧ tile.work ∈ k.ended then v else v.writePieces ps tile.payload poison) := by
  obtain ⟨hm, hkv⟩ := isMemKind_region hk
  obtain ⟨poison, hbead⟩ := beadErrors_poison s k tile bad
  have hw := writePieces_unWrite hl ht hb poison
  have hserv := piecesTripped_inService hl (ht.congr (thm_of_unWrite hw))
  refine ⟨poison, ?_⟩
  show execStoreWrite n m reply bad s = _
  rw [hbead, State.storeReceipt] at hv
  simp only [execStoreWrite, hs, hf, hst, hm, hd, hkv, hbead, hps, hv, hserv, anyPeer_ownMemory hl, Bool.not_true, Bool.false_eq_true,
    if_false, decide_eq_true_eq]

/-! ## R69 -/

theorem stationPieces_inService {s : State} {st : StationE} (hk : st.kind = .hbm ∨ st.kind = .lpddr) (hl : 0 < st.regionLen) {offset n : Nat}
    (hn : n ≤ 262144) (ht : ∀ i < n, s.devTripped (stationByte st offset i) = false) : s.InService (s.stationPieces st offset n) := by
  intro x hx
  rw [stationPieces_addrs s hk hl offset n hn] at hx
  obtain ⟨i, hi, rfl⟩ := List.mem_map.1 hx
  exact ht i (List.mem_range.1 hi)

theorem strand?_of_strands {s t : State} {n : Nat} {k : StrandSt} (h : t.strands = (s.setStrand n k).strands) (i : Nat) :
    t.strand? i = if i = n then some k else s.strand? i :=
  (congrArg (tget? · i) h).trans (strand?_setStrand s n i k)

/-- The answer to a fetch from a region: byte i of its payload is the one at the address of R69, and nothing stored
changes; with no error and no poison, nothing else does either. -/
theorem fetchResponse_region {s : State} {n : StrandId} {k : StrandSt} {r : FetchReq} {rest : List FetchReq} {st : StationE}
    (hs : s.strand? n = some k) (hq : k.fetchQ = r :: rest) (hst : s.srcStn k = some st) (hk : st.kind = .hbm ∨ st.kind = .lpddr)
    (hc : s.hasCredit k 0 = true) (hlen : 0 < st.regionLen) (hp : r.shape.payload ≤ 262144)
    (ht : ∀ i < r.shape.payload, s.devTripped (stationByte st r.offset.toNat i) = false) (bad wire : List Nat) (reply : PeerReply) :
    ∃ (u : State) (tile : Tile), exec (.fetchResponse n bad reply wire) s = .next (u.sendTile n { k with fetchQ := rest } 0 tile) ∧
      u.mem.bytes = s.mem.bytes ∧ u.strands = (s.setStrand n { k with fetchQ := rest }).strands ∧
      tile.payload = (List.range r.shape.payload).map (fun i => s.memByte (stationByte st r.offset.toNat i)) ∧
      tile.offset = r.offset ∧ tile.work = r.work ∧
      (bad = [] → (∀ i < r.shape.payload, s.wordPoison (stationByte st r.offset.toNat i / 8) = false) →
        (wire = [] ∨ k.entry.place ≠ .toPeer → tile.poison = []) ∧ u = s.setStrand n { k with fetchQ := rest }) := by
  have hl := stationPieces_ownMemory s hk hlen r.offset.toNat r.shape.payload
  have ha := stationPieces_addrs s hk hlen r.offset.toNat r.shape.payload hp
  have hserv := stationPieces_inService hk hlen hp ht
  obtain ⟨k', hk'⟩ : ∃ k', k' = { k with fetchQ := rest } := ⟨_, rfl⟩
  have hplace : k'.entry.place = k.entry.place := by rw [hk']
  obtain ⟨v, hv⟩ : ∃ v, s.setStrand n k' = v := ⟨_, rfl⟩
  obtain ⟨ps, hps⟩ : ∃ ps, s.stationPieces st r.offset.toNat r.shape.payload = ps := ⟨_, rfl⟩
  rw [hps] at hl ha hserv
  obtain ⟨⟨u, got⟩, hr⟩ : ∃ x, v.readPieces bad ps 0 [] [] = x := ⟨_, rfl⟩
  have hex := fetchResponse_own hs hq hst hk hc hps hl hk' hv hr wire reply
  have hu : u.unRead = v.unRead := by simpa [hr] using readPieces_unRead v bad hl 0
  have hbytes : got.bytes = (pieceAddrs ps).map v.memByte := by simpa [hr] using readPieces_bytes v bad hl 0
  obtain ⟨p, htile⟩ := sentTile_poison u k' (fetchTile n st r got) wire
  rw [← hk', hv]
  refine ⟨u, _, hex, (bytes_of_unRead hu).trans (by rw [← hv]; rfl), strands_of_unRead hu, ?_, ?_, ?_, ?_⟩
  · rw [htile]
    exact hbytes.trans (by rw [ha, ← hv, List.map_map]; rfl)
  · rw [htile]; rfl
  · rw [htile]; rfl
  · rintro rfl hw
    have hw' : ∀ x ∈ pieceAddrs ps, v.wordPoison (x / 8) = false := fun x hx => by
      rw [ha] at hx
      obtain ⟨i, hi, rfl⟩ := List.mem_map.1 hx
      rw [← hv]
      exact hw i (List.mem_range.1 hi)
    rw [readPieces_clean v hl (hserv.congr (by rw [← hv]; rfl)) hw' 0, Prod.mk.injEq] at hr
    obtain ⟨rfl, rfl⟩ := hr
    refine ⟨fun h => ?_, rfl⟩
    rw [sentTile_unharmed _ _ _ _ (hplace ▸ h)]
    rfl

/-- A store to a region no shorter than its payload: each byte of the payload stands at its address of R69, and every other
address is as before; a tile of an ended item from another module changes no memory (R76). -/
theorem storeWrite_region {s : State} {n : StrandId} {m : Fin 96} {k : StrandSt} {tile : Tile} {st : StationE}
    (hs : s.strand? n = some k) (hf : k.flight.find? (fun x => x.srcMember == m.val) = some tile)
    (hst : s.dstStn k = some st) (hk : st.kind = .hbm ∨ st.kind = .lpddr) (hpos : 0 < tile.payload.length)
    (hp : tile.payload.length ≤ 262144) (hfit : tile.payload.length ≤ st.regionLen * 65536) (hd : isDuplicate k tile = false)
    (ht : ∀ i < tile.payload.length, s.devTripped (stationByte st tile.offset.toNat i) = false) (reply : PeerReply) (bad : List Nat) :
    ∃ t k', exec (.storeWrite n m reply bad) s = .next t ∧ (k.entry.place = .fromPeer → tile.work ∈ k.ended → t.mem = s.mem) ∧
      (¬ (k.entry.place = .fromPeer ∧ tile.work ∈ k.ended) → ∀ i < tile.payload.length,
        Memory.get? t.mem.bytes (stationByte st tile.offset.toNat i) = tile.payload[i]?) ∧
      (∀ a, (∀ i < tile.payload.length, a ≠ stationByte st tile.offset.toNat i) →
        Memory.get? t.mem.bytes a = Memory.get? s.mem.bytes a) ∧
      t = { s with strands := tput s.strands n k', mem := t.mem, fields := t.fields, clk := t.clk, out := t.out, cls := t.cls, mgmt := t.mgmt } := by
  have hlen : 0 < st.regionLen := by omega
  have hl := stationPieces_ownMemory s hk hlen tile.offset.toNat tile.payload.length
  have ha := stationPieces_addrs s hk hlen tile.offset.toNat tile.payload.length hp
  have hserv := stationPieces_inService hk hlen hp ht
  obtain ⟨ps, hps⟩ : ∃ ps, s.stationPieces st tile.offset.toNat tile.payload.length = ps := ⟨_, rfl⟩
  rw [hps] at hl ha hserv
  obtain ⟨k', clk, cls, out, hv⟩ := storeReceipt_eq s n k (s.beadErrors k tile bad)
  obtain ⟨v, hvr⟩ : ∃ v, s.storeReceipt n k (s.beadErrors k tile bad) = v := ⟨_, rfl⟩
  rw [hvr] at hv
  have hserv : v.InService ps := hserv.congr (by rw [hv])
  have hb : tile.payload.length = (pieceAddrs ps).length := by simp [ha]
  obtain ⟨poison, hex⟩ := storeWrite_own hs hf hst hk hd hps hvr hl hserv hb reply
  by_cases hdead : k.entry.place = .fromPeer ∧ tile.work ∈ k.ended
  · rw [if_pos hdead] at hex
    exact ⟨v, k', hex, fun _ _ => by rw [hv], fun h => absurd hdead h, fun _ _ => by rw [hv], by rw [hv]⟩
  · rw [if_neg hdead] at hex
    have hnodup : (pieceAddrs ps).Nodup := ha ▸ nodup_regionAddrs (regionAt st) _ (tile.offset.toNat * 64) _ hfit
    have hmem : v.mem = s.mem := by rw [hv]
    refine ⟨_, k', hex, fun h1 h2 => absurd ⟨h1, h2⟩ hdead, fun _ i hi => ?_, fun a hout => ?_, ?_⟩
    · refine (writePieces_get?_own hl hserv hb poison hnodup (stationByte st tile.offset.toNat i, tile.payload[i]) ?_).trans
        (List.getElem?_eq_getElem hi).symm
      exact List.mem_iff_getElem.2 ⟨i, by simp [ha, hi], by simp [ha]⟩
    · have hnot : a ∉ pieceAddrs ps := by
        rw [ha, List.mem_map]
        rintro ⟨i, hi, rfl⟩
        exact hout i (List.mem_range.1 hi) rfl
      rw [writePieces_get?_other hl hserv hb poison hnot, hmem]
    · have hw := eq_of_unWrite (writePieces_unWrite hl hserv hb poison)
      generalize v.writePieces ps tile.payload poison = t at hw ⊢
      rw [hv] at hw
      rw [hw]

end Sys2Proof.Machine

open Sys2Proof Sys2Proof.Machine

/-- Settles O38: the pieces of an access cover its bytes, in payload order, at the addresses of R69; a read answers those
bytes, and a write puts each byte at its own address, since no address comes twice in a region that holds the payload. -/
theorem memoryStationsWrapInTheirRegion : Obligations.MemoryStationsWrapInTheirRegion := by
  constructor
  · intro s n k r rest st bad wire reply hs hq hst hk hc hlen hp base at_ ht
    obtain ⟨u, tile, hex, hbytes, hstr, hpay, hoff, hwork, hclean⟩ := fetchResponse_region hs hq hst hk hc hlen hp ht bad wire reply
    refine ⟨u, tile, hex, hbytes, ?_, fun i hi => ?_, by simp [hpay], hoff, hwork, fun i hi => ?_, hclean⟩
    · rw [strand?_of_strands hstr, if_pos rfl]
    · rw [strand?_of_strands hstr, if_neg hi]
    · rw [hpay, memRead_eq_map]
      simp [hi, at_, base, stationByte, regionAt]
  · intro s n m k tile st reply bad hs hf hst hk hpos hp hfit hd base at_ ht
    obtain ⟨t, k', hex, hdead, hown, hother, hkeep⟩ := storeWrite_region hs hf hst hk hpos hp hfit hd ht reply bad
    have hstr : t.strands = (s.setStrand n k').strands := by rw [hkeep]; rfl
    refine ⟨t, hex, hdead, hown, hother, ?_, fun i hi => ?_⟩
    · rw [hstr]
      exact hkeep
    · rw [strand?_of_strands hstr, if_neg hi]

end

section
/-! PROOFS. Doorbells (R266, R278, R280, R281): the indices a write carries, when they are valid, and what the write then does. -/

namespace Sys2Proof.Machine

/-! ## The indices that a write carries (R280) -/

theorem doorbellCarries_whole (v : W64) :
    doorbellCarries 8 0 v = some (some (v.extractLsb' 0 16, v.extractLsb' 16 16), some (v.extractLsb' 32 16)) := by
  simp [doorbellCarries, BitVec.extractLsb', Nat.shiftRight_eq_div_pow]

theorem doorbellCarries_low (v : W64) : doorbellCarries 4 0 v = some (some (v.extractLsb' 0 16, v.extractLsb' 16 16), none) := by
  simp [doorbellCarries, BitVec.extractLsb', Nat.shiftRight_eq_div_pow]

theorem doorbellCarries_high (v : W64) : doorbellCarries 4 4 v = some (none, some (v.extractLsb' 0 16)) := by
  simp [doorbellCarries, BitVec.extractLsb']

theorem doorbellCarries_other {size off : Nat} (v : W64) (h8 : (size, off) ≠ (8, 0)) (hlo : (size, off) ≠ (4, 0)) (hhi : (size, off) ≠ (4, 4)) :
    doorbellCarries size off v = none := by
  rw [ne_eq, Prod.mk.injEq] at h8 hlo hhi
  simp only [doorbellCarries, if_neg h8, if_neg hlo, if_neg hhi]

/-! ## Validity (R281) -/

theorem indexOk_iff (last limit new : W16) : indexOk last limit new = true ↔ (new - last).toNat ≤ (limit - last).toNat := by
  simp [indexOk]

theorem indexOk_last (last limit : W16) : indexOk last limit last = true := by simp [indexOk]

theorem RingSt.sqLog_eq (k : RingSt) : k.sqLog = k.sizes.toNat % 16 := rfl

theorem RingSt.tailOk_iff (k : RingSt) (t : W16) : k.tailOk t = true ↔
    (k.sqTail - k.sqHead).toNat ≤ (t - k.sqHead).toNat ∧ (t - k.sqHead).toNat ≤ 2 ^ (k.sizes.toNat % 16) := by
  rw [← k.sqLog_eq]
  simp only [RingSt.tailOk, Bool.and_eq_true, decide_eq_true_eq]

theorem RingSt.tailOk_last (k : RingSt) (h : (k.sqTail - k.sqHead).toNat ≤ 2 ^ (k.sizes.toNat % 16)) : k.tailOk k.sqTail = true :=
  (k.tailOk_iff _).2 ⟨Nat.le_refl _, h⟩

/-- Every index carried is valid on the ring; SQ_TAIL counts on an ON ring alone. -/
def RingSt.IndicesOk (k : RingSt) (lo : Option (W16 × W16)) (hi : Option W16) : Prop :=
  (∀ l ∈ lo, (k.state = .on → k.tailOk l.1 = true) ∧ indexOk k.cqHead k.cqTail l.2 = true) ∧
    ∀ x ∈ hi, indexOk k.tileHead k.tileTail x = true

/-- The ring with the indices carried in place of its own; a ring that is not ON keeps SQ_TAIL. -/
def RingSt.withIndices (k : RingSt) (lo : Option (W16 × W16)) (hi : Option W16) : RingSt :=
  { k with sqTail := if k.state = .on then (lo.map (·.1)).getD k.sqTail else k.sqTail,
           cqHead := (lo.map (·.2)).getD k.cqHead, tileHead := hi.getD k.tileHead }

/-- The indices that the ring holds are valid ones (R281). -/
theorem RingSt.indicesOk_last (k : RingSt) (h : (k.sqTail - k.sqHead).toNat ≤ 2 ^ (k.sizes.toNat % 16)) :
    k.IndicesOk (some (k.sqTail, k.cqHead)) (some k.tileHead) := by
  simp [RingSt.IndicesOk, indexOk_last, k.tailOk_last h]

theorem RingSt.withIndices_last (k : RingSt) : k.withIndices (some (k.sqTail, k.cqHead)) (some k.tileHead) = k := by
  simp [RingSt.withIndices]

/-- A doorbell applies every index it carries, or halts the ring with DOORBELL_ERR. -/
theorem doorbell_cases (s : State) (n : Nat) (lo : Option (W16 × W16)) (hi : Option W16) :
    ((s.ring n).IndicesOk lo hi ∧ s.doorbell n lo hi = s.setRing n ((s.ring n).withIndices lo hi)) ∨
    (¬ (s.ring n).IndicesOk lo hi ∧ s.doorbell n lo hi = s.ringHalt n 1) := by
  have hok : (lo.all (fun l => (!decide ((s.ring n).state = .on) || (s.ring n).tailOk l.1) && indexOk (s.ring n).cqHead (s.ring n).cqTail l.2) &&
      hi.all (indexOk (s.ring n).tileHead (s.ring n).tileTail)) = true ↔ (s.ring n).IndicesOk lo hi := by
    simp only [RingSt.IndicesOk, Bool.and_eq_true, Option.all_eq_true, Option.mem_def, Bool.or_eq_true, Bool.not_eq_true',
      decide_eq_false_iff_not, Decidable.imp_iff_not_or]
  by_cases h : (s.ring n).IndicesOk lo hi
  · exact .inl ⟨h, by simp only [State.doorbell, if_pos (hok.2 h), decide_eq_true_eq, RingSt.withIndices]⟩
  · exact .inr ⟨h, by simp only [State.doorbell, if_neg (mt hok.1 h)]⟩

/-! ## What a write does -/

theorem exec_doorbell_none {s : State} {n : RingId} {size off : Nat} {v : W64} (h : doorbellCarries size off v = none) :
    exec (.doorbell n size off v) s = .next s := by
  show execDoorbell n size off v s = _
  simp [execDoorbell, State.doorbellWrite, h]

/-- A ring that is OFF or HALTED takes no doorbell (R278). -/
theorem exec_doorbell_ignored {s : State} {n : RingId} (h : (s.ring n).state = .off ∨ (s.ring n).state = .halted) (size off : Nat) (v : W64) :
    exec (.doorbell n size off v) s = .next s := by
  have hno : ¬ ((s.ring n).state = .on ∨ (s.ring n).state = .stopping) := by
    rcases h with h | h <;> simp [h]
  show execDoorbell n size off v s = _
  simp only [execDoorbell, State.doorbellWrite, if_neg hno]
  cases doorbellCarries size off v <;> simp

section
variable {s : State} {n : RingId} {size off : Nat} {v : W64} {lo : Option (W16 × W16)} {hi : Option W16}

theorem exec_doorbell_carries (hr : s.reachable = true) (hl : (s.ring n).state = .on ∨ (s.ring n).state = .stopping)
    (hc : doorbellCarries size off v = some (lo, hi)) : exec (.doorbell n size off v) s = .next (s.doorbell n lo hi) := by
  show execDoorbell n size off v s = _
  simp only [execDoorbell, State.doorbellWrite, if_pos hr, if_pos hl, hc]

theorem exec_doorbell_applies (hr : s.reachable = true) (hl : (s.ring n).state = .on ∨ (s.ring n).state = .stopping)
    (hc : doorbellCarries size off v = some (lo, hi)) (hok : (s.ring n).IndicesOk lo hi) :
    exec (.doorbell n size off v) s = .next (s.setRing n ((s.ring n).withIndices lo hi)) := by
  rw [exec_doorbell_carries hr hl hc]
  obtain ⟨-, h⟩ | ⟨hbad, -⟩ := doorbell_cases s n lo hi
  · rw [h]
  · exact absurd hok hbad

/-- A ring that halts for DOORBELL_ERR has bit 1 of RNG_STATUS set and its indices as they were. -/
theorem exec_doorbell_halts (hr : s.reachable = true) (hon : (s.ring n).state = .on)
    (hc : doorbellCarries size off v = some (lo, hi)) (hbad : ¬ (s.ring n).IndicesOk lo hi) :
    ∃ t, exec (.doorbell n size off v) s = .next t ∧ (t.ring n).state = .halted ∧ (t.ring n).flags.getLsbD 1 = true ∧
      (t.ring n).sqTail = (s.ring n).sqTail ∧ (t.ring n).cqHead = (s.ring n).cqHead ∧ (t.ring n).tileHead = (s.ring n).tileHead := by
  obtain ⟨hok, -⟩ | ⟨-, h⟩ := doorbell_cases s n lo hi
  · exact absurd hok hbad
  · obtain ⟨k, l, hk⟩ := ringHalt_ring s n 1 hon
    refine ⟨s.ringHalt n 1, by rw [exec_doorbell_carries hr (.inl hon) hc, h], ?_⟩
    simp [hk]

end

theorem setRing_self_ring (s : State) (n m : Nat) : (s.setRing n (s.ring n)).ring m = s.ring m := by
  rw [ring_setRing]
  split
  · next h => rw [h]
  · rfl

end Sys2Proof.Machine

open Sys2Proof Sys2Proof.Machine

/-- Settles O4: each form of the write carries its indices, and `doorbell_cases` decides between setting them and the halt. -/
theorem doorbellsSetValidIndicesOrHaltTheRing : Obligations.DoorbellsSetValidIndicesOrHaltTheRing := by
  intro s n v hr k tail cq tile okTail okCq okTile halts
  have hTail : k.tailOk tail = true ↔ okTail := k.tailOk_iff tail
  have hCq : indexOk k.cqHead k.cqTail cq = true ↔ okCq := indexOk_iff _ _ _
  have hTile (x : W16) : indexOk k.tileHead k.tileTail x = true ↔ okTile x := indexOk_iff _ _ _
  refine ⟨fun hon => ?_, fun hstop hcq htile => ?_, fun hdead size off => exec_doorbell_ignored hdead size off v,
    fun size off h8 hlo hhi => exec_doorbell_none (doorbellCarries_other v h8 hlo hhi)⟩
  · have hwhole : k.IndicesOk (some (tail, cq)) (some tile) ↔ okTail ∧ okCq ∧ okTile tile := by
      simp [RingSt.IndicesOk, hon, hTail, hCq, hTile, and_assoc]
    have hlow : k.IndicesOk (some (tail, cq)) none ↔ okTail ∧ okCq := by
      simp [RingSt.IndicesOk, hon, hTail, hCq]
    have hhigh : k.IndicesOk none (some tail) ↔ okTile tail := by
      simp [RingSt.IndicesOk, hTile]
    refine ⟨fun h1 h2 h3 => ?_, fun h => exec_doorbell_halts hr hon (doorbellCarries_whole v) (mt hwhole.1 h),
      fun h1 h2 => ?_, fun h => exec_doorbell_halts hr hon (doorbellCarries_low v) (mt hlow.1 h),
      fun h => ?_, fun h => exec_doorbell_halts hr hon (doorbellCarries_high v) (mt hhigh.1 h), fun e1 e2 e3 hfull => ?_⟩
    · rw [exec_doorbell_applies hr (.inl hon) (doorbellCarries_whole v) (hwhole.2 ⟨h1, h2, h3⟩)]
      simp [RingSt.withIndices, k, hon, tail, cq, tile]
    · rw [exec_doorbell_applies hr (.inl hon) (doorbellCarries_low v) (hlow.2 ⟨h1, h2⟩)]
      simp [RingSt.withIndices, k, hon, tail, cq]
    · rw [exec_doorbell_applies hr (.inl hon) (doorbellCarries_high v) (hhigh.2 h)]
      simp [RingSt.withIndices, k, tail]
    · have hc : doorbellCarries 8 0 v = some (some (k.sqTail, k.cqHead), some k.tileHead) := by
        rw [← e1, ← e2, ← e3]
        exact doorbellCarries_whole v
      refine ⟨s.setRing n k, ?_, setRing_self_ring s n, rfl⟩
      rw [exec_doorbell_applies hr (.inl hon) hc (k.indicesOk_last hfull), k.withIndices_last]
  · have hok : k.IndicesOk (some (tail, cq)) (some tile) := by
      simp [RingSt.IndicesOk, hstop, hCq, hTile, hcq, htile]
    rw [exec_doorbell_applies hr (.inr hstop) (doorbellCarries_whole v) hok]
    simp [RingSt.withIndices, k, hstop, cq, tile]

end

section
/-! PROOFS. The memory window (R270, R274, R275) while the memories are in self-refresh. -/

namespace Sys2Proof.Machine

theorem getLsbD_setFlag (v : W16) {i : Nat} (h : i < 16) : (setFlag v i).getLsbD i = true := by
  rw [setFlag, BitVec.getLsbD_or, BitVec.getLsbD_ofNat, Nat.testBit_two_pow_self]
  simp [h]

theorem getLsbD_setFlag_of_getLsbD {v : W16} {j : Nat} (h : v.getLsbD j = true) (i : Nat) : (setFlag v i).getLsbD j = true := by
  simp [setFlag, h]

/-! A request without a protocol error for a line that the committed decoder maps reaches the window (R270). -/
section
variable {s : State} {a b size : Nat} (hmap : s.cxl.hdm = some (b, size)) (hline : a / 64 * 64 + 64 ≤ size)
  (hlink : s.linkDown = false) (hd3 : s.cxl.d3 = false)
include hmap hline

theorem windowHolds_mapped : s.windowHolds a = true := by simp [State.windowHolds, hmap, hline]

include hlink hd3

theorem exec_cxlMemRequest_read (poison fail : Bool) (wire : List Nat) :
    exec (.cxlMemRequest a none poison fail wire false) s = .next (s.windowRead a (s.windowBase + a / 64 * 64) fail wire) := by
  show execCxlMemRequest a none poison fail wire false s = _
  simp [execCxlMemRequest, hlink, hd3, windowHolds_mapped hmap hline]

theorem exec_cxlMemRequest_write (bs : List (Option Byte)) (poison fail : Bool) (wire : List Nat) :
    exec (.cxlMemRequest a (some bs) poison fail wire false) s = .next (s.windowWrite (s.windowBase + a / 64 * 64) bs poison wire) := by
  show execCxlMemRequest a (some bs) poison fail wire false s = _
  simp [execCxlMemRequest, hlink, hd3, windowHolds_mapped hmap hline]

end

/-- In self-refresh a window read answers poison, and sets WINDOW_OFF (bit 2) and the bit of a poisoned read (R275). -/
theorem windowRead_selfRefresh {s : State} (h : s.cxl.selfRefresh = true) (x a : Nat) (fail : Bool) (wire : List Nat) :
    ∃ bs, (s.windowRead x a fail wire).out = .memRead x bs true :: s.out ∧
      (s.windowRead x a fail wire).cxl.status = setFlag (setFlag s.cxl.status 2) 1 ∧ (s.windowRead x a fail wire).mem = s.mem := by
  simp only [State.windowRead, h, if_true]
  exact ⟨_, rfl, rfl, rfl⟩

/-- In self-refresh a window write changes its count and WINDOW_OFF alone (R275). -/
theorem windowWrite_selfRefresh {s : State} (h : s.cxl.selfRefresh = true) (a : Nat) (bs : List (Option Byte)) (poison : Bool) (wire : List Nat) :
    s.windowWrite a bs poison wire = { s with cxl.winWr := s.cxl.winWr + 1, cxl.status := setFlag s.cxl.status 2 } := by
  simp only [State.windowWrite, h, if_true]

end Sys2Proof.Machine

open Sys2Proof Sys2Proof.Machine

/-- Settles O26: a request for a mapped line is a window access, and self-refresh decides what each kind of access does. -/
theorem windowIsOffInSelfRefresh : Obligations.WindowIsOffInSelfRefresh := by
  intro s a b size poison fail wire hmap hline hlink hd3 hoff
  constructor
  · obtain ⟨bs, hout, hstatus, hmem⟩ := windowRead_selfRefresh hoff a (s.windowBase + a / 64 * 64) fail wire
    refine ⟨_, bs, exec_cxlMemRequest_read hmap hline hlink hd3 poison fail wire, hout, ?_, hmem⟩
    rw [hstatus]
    exact getLsbD_setFlag_of_getLsbD (getLsbD_setFlag _ (by decide)) 1
  · intro bs
    refine ⟨_, exec_cxlMemRequest_write hmap hline hlink hd3 bs poison fail wire, ?_⟩
    rw [windowWrite_selfRefresh hoff]
    exact ⟨getLsbD_setFlag _ (by decide), rfl⟩

end
